-- ==== Sys2Proof/Word.lean ====
section
/-! DEFINITION. The plainest data of the TF240 model: bytes, floor sets, and the saturating sum of the manual's
saturating counters (0.8, Ranges and clamping). -/

namespace Sys2Proof

/-- One byte of a frame, a map block or a player-port transaction. -/
abbrev Byte := BitVec 8

/-- A set of floors: bit n stands for floor n (0.8, Floor sets). -/
abbrev FloorSet := BitVec 32

/-- The low byte of a number. -/
def byte (n : Nat) : Byte := BitVec.ofNat 8 n

/-- A saturating counter stops at its upper limit (0.8). -/
def satAdd (limit n k : Nat) : Nat := min (n + k) limit

/-- The limit of the 32-bit statistics (R46, R64). -/
def statLimit : Nat := 4294967295

end Sys2Proof
end

