-- ==== Sys2Proof/Syntax.lean ====
section
/-! DEFINITION. The commands of the TF240: one constructor of `Instr` per row of spec/opcode_table.json, in the table's
order, and the operands that come from outside the part. A request row is the SERVING event of the oldest request in
the receive buffer (R164): its index, value and length are the body of that buffered request, which REQUEST_ARRIVAL
put there, so the constructor carries no second copy of them (assumption 2). -/

namespace Sys2Proof

/-- What the check code of one stored word shows at a load (R182): a single-bit error, which the load corrects, or an
error that it cannot correct. -/
inductive WordError where
  | single
  | uncorrectable
deriving DecidableEq, Repr

/-- One stored word found in error: its block, its word 0 to 63, and the kind of error. -/
structure CellError where
  block : Nat
  word : Nat
  error : WordError
deriving DecidableEq, Repr

/-- What a reset takes from outside the part: the level of the BAUDSEL strap (0.9, R160), and the words of the store
whose cells have gone bad since they were last written or loaded (R182). -/
structure ResetInputs where
  baudselHigh : Bool
  cellErrors : List CellError
deriving DecidableEq, Repr

/-- Why a host-link frame is abandoned, other than by a gap (R162). -/
inductive HostFrameFault where
  | badLength (length : Byte)
  | framingError
  | badCrc (frame : List Byte)
deriving DecidableEq, Repr

/-- The four bytes received during a STATUS transaction (R186). -/
structure StatusReply where
  busy : Byte
  fault : Byte
  ready : Byte
  spare : Byte
deriving DecidableEq, Repr

/-- The six program kinds, in priority order (R108). -/
inductive ProgramKind where
  | live
  | evacuate
  | alert
  | allClear
  | tenant
  | test
deriving DecidableEq, Repr

/-- One constructor per row of spec/opcode_table.json. -/
inductive Instr where
  /-- R160: power-on reset. -/
  | powerOnReset (inputs : ResetInputs)
  /-- R160: reset by a low level on nRST. -/
  | pinReset (inputs : ResetInputs)
  /-- R169: the map is loaded; START is posted and reception begins. -/
  | start
  /-- R162: the last CRC byte of a frame is checked and good. `frame` runs from LENGTH through the second CRC byte. -/
  | requestArrival (frame : List Byte)
  /-- R162: more than 20 ms pass between two bytes of a frame. -/
  | frameGapTimeout
  /-- R164: the oldest buffered request, whose code is not in the catalogue, is served. -/
  | unknownRequest
  | ping
  | restart
  | mapWrite
  | mapRead
  | mapStore
  /-- R180, R181: the write and read-back of the block being written ends; `agrees` says whether the words agree. -/
  | mapStoreBlockDone (agrees : Bool)
  | mapStatus
  | readRegime
  | readFloor
  | readZone
  | readDoor
  | readCar
  | readProgram
  | readBudget
  | readTrouble
  | readStats
  | readNode
  | zoneDisable
  | zoneEnable
  | generalEvacuation
  | holdExtension
  | releaseExtension
  | floorClear
  | alertMute
  | resetRegime
  | doorRelease
  | doorLock
  | doorDisable
  | doorEnable
  | firefighterGrant
  | firefighterEnd
  | carReturn
  | liveStart
  | liveStop
  | tenantStart
  | tenantStop
  | testStart
  | troubleMask
  | troubleUnmask
  | troubleClear
  /-- R167: the last byte of a response has been sent. `inputs` is read only when the response is that of an accepted
  RESTART, whose reset takes place then (R166). -/
  | responseSent (inputs : ResetInputs)
  /-- R167: the last byte of a notice has been sent. -/
  | noticeSent
  | shortExpiry
  | longExpiry
  | cycleStart
  /-- R136: a reply that passes every check of R132. `reply` holds its bytes from SYNC to the second CRC byte. -/
  | goodReply (reply : List Byte)
  /-- R132: a reply that fails a check. `reply` holds the bytes received up to the end of the poll. -/
  | badReply (reply : List Byte)
  | replyTimeout
  | replyGapTimeout
  | zoneWindowExpiry (zone : Nat)
  | clockSecond
  | clearTimerExpiry (floor : Nat)
  | muteExpiry
  | autoGeneralExpiry
  | doorHeldExpiry (door : Nat)
  | recallLateExpiry (car : Nat)
  | pauseExpiry (kind : ProgramKind)
  | uptimeSecond
  /-- R123: PLP sends the PLAY at the head of its command list. -/
  | play
  /-- R123: PLP sends the STOP at the head of its command list. -/
  | stop
  /-- R123: PLP sends the ROUTE_LIVE at the head of its command list. -/
  | routeLive
  /-- R124: the reply of the 100 ms STATUS poll. -/
  | status (reply : StatusReply)
  /-- R124: a STATUS reply that finds a channel busy for max_phrase_time after its command. -/
  | phraseTimeout (reply : StatusReply)
  /-- R162: in HUNTING a byte 0xC5 arrives. -/
  | hostSyncReceived
  /-- R162: a frame is abandoned for its LENGTH, a framing error or its CRC. -/
  | badHostFrame (fault : HostFrameFault)
deriving DecidableEq, Repr

end Sys2Proof
end

