-- ==== Sys2Proof/Config.lean ====
section
/-! DEFINITION. The values the manual leaves open, as constants without a body: nothing can be proved of them. -/

namespace Sys2Proof.Config

/-- FREE VALUE. The uptime second that follows 4,294,967,295. The manual gives uptime seconds the range 0 to
4,294,967,295 (R148, R184) and does not say what uptime becomes after the last of them (assumption 5). -/
opaque uptimeAfterLast : BitVec 32

end Sys2Proof.Config
end

