-- ==== Sys2Proof/Machine/State.lean ====
section
/-! DEFINITION. Everything the TF240 holds, block by block (0.4), as plain data, and the machine right after reset. -/

namespace Sys2Proof.Machine

/-! ## Tables -/

/-- Row `i` of a table, or `d` past its end. -/
def vget {α : Type} {n : Nat} (v : Vector α n) (i : Nat) (d : α) : α :=
  if h : i < n then v[i] else d

/-- The table with row `i` replaced; a row past the end is none. -/
def vset {α : Type} {n : Nat} (v : Vector α n) (i : Nat) (x : α) : Vector α n := v.setIfInBounds i x

/-- The table with every row `i` replaced by `f i` of it. -/
def vmapIdx {α : Type} {n : Nat} (f : Nat → α → α) (v : Vector α n) : Vector α n :=
  ⟨⟨v.toList.mapIdx f⟩, by simp⟩

/-! ## Addressed memory (working map and store) -/

/-- Bytes at addresses 256 × block + offset, in canonical form (`Memory.wf`): the addresses rise strictly and no entry
equals what an unlisted address reads as (`mapDefault`). -/
abbrev Memory := List Host.Cell

/-! ## ZEV (Chapter 1) -/

/-- R3: the condition last reported for a zone. -/
inductive Condition where
  | unknown | normal | alarm | trouble | isolated
deriving DecidableEq, Repr

/-- R3: the evaluation state of a zone. -/
inductive Eval where
  | quiet | verifying | confirmed | disabled
deriving DecidableEq, Repr

/-- R3: the runtime record of a zone. -/
structure Zone where
  condition : Condition
  stale : Bool
  eval : Eval
  count : Nat
  deadline : Option Nat
  nuisance : Nat
deriving DecidableEq, Repr

def Zone.reset : Zone := ⟨.unknown, false, .quiet, 0, none, 0⟩

/-- ZEV: 128 zone records (R3) and the panel trouble flag last taken from each of the four panels (R4). -/
structure Zev where
  zones : Vector Zone 128
  panelTrouble : Vector Bool 4
deriving DecidableEq, Repr

def Zev.reset : Zev := ⟨Vector.replicate 128 Zone.reset, Vector.replicate 4 false⟩

/-! ## RGC (Chapters 1 and 2) -/

/-- 1.7: a floor's fire state. -/
inductive FireState where
  | normal | preAlarm | alarm
deriving DecidableEq, Repr

/-- R28: a floor's phase. -/
inductive Phase where
  | none | alert | evacuate | cleared
deriving DecidableEq, Repr

/-- R28: the cause of EVACUATE (the first four) or of CLEARED (the last two). -/
inductive Cause where
  | origin | direct | schedule | general | host | timer
deriving DecidableEq, Repr

/-- The floor record: the fire-state fields of 1.7 and the phase fields of R28. direct_exit is read from the map. -/
structure Floor where
  fireState : FireState
  alarmLatch : Bool
  lobbyAlarm : Bool
  firstAlarmAt : Option Nat
  alarmZones : Nat
  phase : Phase
  cause : Option Cause
  evacuateAt : Nat
  schedRank : Nat
  evacuatingSince : Option Nat
deriving DecidableEq, Repr

/-- R28: the value of evacuate_at that means unscheduled. -/
def unscheduled : Nat := 65535

def Floor.reset : Floor := ⟨.normal, false, false, none, 0, .none, none, unscheduled, 0, none⟩

/-- R22: the building-wide fire condition. -/
inductive RegimeState where
  | quiet | alerted | active | general
deriving DecidableEq, Repr

/-- Three 32-bit statistics of a queue (R46, R64). -/
structure Stats where
  inserts : Nat
  occupancy : Nat
  nonempty : Nat
deriving DecidableEq, Repr

def Stats.zero : Stats := ⟨0, 0, 0⟩

/-- RGC: the regime record (R22) and the floor table. -/
structure Rgc where
  state : RegimeState
  clock : Nat
  hold : Bool
  muteUntil : Option Nat
  latestOrigin : Option Nat
  origins : Nat
  queue : List Nat
  stats : Stats
  floors : Vector Floor 32
deriving DecidableEq, Repr

def Rgc.reset : Rgc := ⟨.quiet, 0, false, none, none, 0, [], .zero, Vector.replicate 32 Floor.reset⟩

/-! ## LBU (Chapter 3) -/

/-- R48: the budget mode. -/
inductive BudgetMode where
  | mains | battery | low
deriving DecidableEq, Repr

/-- The source a POWER node reports (R48). -/
inductive PowerSource where
  | mains | battery
deriving DecidableEq, Repr

/-- R48: the recorded source and LOW flag of the POWER node. -/
structure PowerReport where
  source : PowerSource
  low : Bool
deriving DecidableEq, Repr

/-- R51: who draws the power. -/
inductive Claimant where
  | door (d : Nat)
  | program (k : ProgramKind)
deriving DecidableEq, Repr

/-- R51: where a granted claim draws from. -/
inductive Source where
  | shared | doorReserve | audioReserve
deriving DecidableEq, Repr

/-- R51: a claim. `source` and `granted` are absent while it waits. -/
structure Claim where
  claimant : Claimant
  level : Nat
  cost : Nat
  source : Option Source
  placed : Nat
  granted : Option Nat
deriving DecidableEq, Repr

/-- LBU (R53). The claims stand in the order they were placed; the ledger sums, the wait list and the granted list are
views of them (assumption 6). -/
structure Lbu where
  mode : BudgetMode
  power : Option PowerReport
  claims : List Claim
  nextPlaced : Nat
  nextGranted : Nat
  stats : Stats
deriving DecidableEq, Repr

def Lbu.reset : Lbu := ⟨.battery, none, [], 0, 0, .zero⟩

/-! ## DRU (Chapter 4) -/

/-- R66: the state of a door. -/
inductive DoorState where
  | locked | releasePending | releasing | released | relocking | disabled
deriving DecidableEq, Repr

/-- R66: a strike value given to a node. -/
inductive StrikeOrder where
  | lock | release
deriving DecidableEq, Repr

/-- R66: a reported strike. -/
inductive Strike where
  | locked | unlocked
deriving DecidableEq, Repr

/-- R66: a reported door position. -/
inductive DoorPosition where
  | closed | opened
deriving DecidableEq, Repr

/-- R66: the door record. `present` is read from the map (R67). -/
structure Door where
  state : DoorState
  manual : Bool
  reRequest : Bool
  desired : StrikeOrder
  confirmed : Bool
  pendingDesired : Option StrikeOrder
  strike : Option Strike
  position : Option DoorPosition
  stale : Bool
  mismatch : Nat
  faulted : Bool
  heldSince : Option Nat
  held : Bool
deriving DecidableEq, Repr

def Door.reset : Door :=
  ⟨.locked, false, false, .lock, false, none, none, none, false, 0, false, none, false⟩

/-! ## CRU (Chapter 5) -/

/-- R89: the state of a car. -/
inductive CarState where
  | inService | recallIssued | recalling | parked | firefighter | heldOut | shutDown | lost
deriving DecidableEq, Repr

/-- R89: a command to a lift adapter. -/
inductive CarCommand where
  | normal
  | recall (floor : Nat)
  | holdOpen
  | shutdown
  | firefighterEnable
deriving DecidableEq, Repr

inductive Motion where
  | stopped | up | down
deriving DecidableEq, Repr

inductive CarDoor where
  | opened | closed | opening | closing
deriving DecidableEq, Repr

inductive CarMode where
  | auto | independent | inspection | outOfService
deriving DecidableEq, Repr

/-- The kind of command an adapter reports it acts on (R89). -/
inductive Applied where
  | normal | recall | holdOpen | shutdown | firefighterEnable
deriving DecidableEq, Repr

/-- R89: the car record. `heldOutActive` is the LIFT CAR_HELD_OUT condition (R96). `readdressed` is the model's own
field: it records that the car's new node entry is to be taken as a return when it is first heard (R88, R138). -/
structure Car where
  state : CarState
  priorState : Option CarState
  target : Option Nat
  command : CarCommand
  confirmed : Bool
  pendingCommand : Option CarCommand
  shutdownDue : Bool
  recallStarted : Option Nat
  late : Bool
  position : Option Nat
  motion : Option Motion
  door : Option CarDoor
  mode : Option CarMode
  key : Option Bool
  applied : Option Applied
  stale : Bool
  heldOutActive : Bool
  readdressed : Bool
deriving DecidableEq, Repr

def Car.reset : Car :=
  ⟨.inService, none, none, .normal, false, none, false, none, false, none, none, none, none, none, none, false,
    false, false⟩

/-- R91: the step of the choice that gave a bank's recall floor. -/
inductive RecallStep where
  | primary | alternate | nearest | primaryForced
deriving DecidableEq, Repr

/-- R91: a bank's recall floor and the step that chose it. -/
structure Bank where
  recallFloor : Nat
  step : RecallStep
deriving DecidableEq, Repr

def Bank.reset : Bank := ⟨0, .primary⟩

/-- CRU: six car records and the recall-floor choice of each bank. -/
structure Cru where
  cars : Vector Car 6
  banks : Vector Bank 2
deriving DecidableEq, Repr

def Cru.reset : Cru := ⟨Vector.replicate 6 Car.reset, Vector.replicate 2 Bank.reset⟩

/-! ## ANS (Chapter 6) -/

/-- R109: the state of a program. -/
inductive ProgramState where
  | idle | waitingChannel | waitingBudget | playing | stopping
deriving DecidableEq, Repr

/-- R109: why a program stopped. -/
inductive StopReason where
  | completed | emptied | host | autonomy | preempted | shed | fault
deriving DecidableEq, Repr

/-- R109: the program record. -/
structure Program where
  state : ProgramState
  givenSet : FloorSet
  floorSet : FloorSet
  template : Option Nat
  channel : Option Nat
  slot : Nat
  repeatsLeft : Nat
  played : Bool
  pauseUntil : Option Nat
  phraseStarted : Option Nat
  stopReason : Option StopReason
deriving DecidableEq, Repr

def Program.reset : Program := ⟨.idle, 0, 0, none, none, 0, 0, false, none, none, none⟩

/-- R112: the state of a channel. -/
inductive ChannelState where
  | free | held | stopping | faulted
deriving DecidableEq, Repr

/-- R112: the command whose completion a channel awaits. -/
inductive Awaiting where
  | nothing | phrase | stop
deriving DecidableEq, Repr

/-- R112: the channel record. -/
structure Channel where
  state : ChannelState
  holder : Option ProgramKind
  reservedFor : Option ProgramKind
  awaiting : Awaiting
  issuedAt : Option Nat
  busy : Bool
  fault : Bool
  faultCondition : Bool
deriving DecidableEq, Repr

def Channel.reset : Channel := ⟨.free, none, none, .nothing, none, false, false, false⟩

/-- A speaker selector value: a channel 0 to 5, or OFF (R121). -/
inductive Selector where
  | off
  | channel (c : Nat)
deriving DecidableEq, Repr

/-- R121: the join record of a floor. -/
structure Join where
  desired : Selector
  sent : Selector
  pending : Option Selector
  confirmed : Bool
  selected : Option Selector
  lineFault : Bool
  stale : Bool
deriving DecidableEq, Repr

def Join.reset : Join := ⟨.off, .off, none, false, none, false, false⟩

/-- ANS: the program table, the channel table, the floor joins, and the PLAYER_LOST condition (R124). -/
structure Ans where
  programs : Vector Program 6
  channels : Vector Channel 6
  joins : Vector Join 32
  playerLost : Bool
deriving DecidableEq, Repr

def Ans.reset : Ans :=
  ⟨Vector.replicate 6 Program.reset, Vector.replicate 6 Channel.reset, Vector.replicate 32 Join.reset, false⟩

/-! ## PLP (6.7) -/

/-- R123: a command of the player port's command list. -/
inductive PlayerCommand where
  | play (channel phrase : Nat)
  | stop (channel : Nat)
  | routeLive (channel : Nat)
deriving DecidableEq, Repr

/-- PLP: the command list, oldest first (R123), and the four bytes of the last transaction sent (R186). `drained` is the
model's own field: the last transaction left the list empty, so that the next STATUS transaction begins (R123). -/
structure Plp where
  commands : List PlayerCommand
  lastSent : Option (List Byte)
  drained : Bool
deriving DecidableEq, Repr

/-- R123: after reset the list holds STOP for channels 0 to 5, in ascending order. -/
def Plp.reset : Plp := ⟨[.stop 0, .stop 1, .stop 2, .stop 3, .stop 4, .stop 5], none, false⟩

/-! ## RBM (Chapter 7) -/

/-- R133: the type of a node. -/
inductive NodeType where
  | floor | panel | lift | power
deriving DecidableEq, Repr

/-- R133: the owner of a node, with its index. -/
inductive NodeOwner where
  | floor (f : Nat)
  | panel (p : Nat)
  | car (c : Nat)
  | power
deriving DecidableEq, Repr

/-- R134: the state of a node. -/
inductive NodeState where
  | unknown | ok | missing | lost
deriving DecidableEq, Repr

/-- R134: a node table entry. `freshMark` is the fresh mark of the last good reply (R139), clear before one
(assumption 42); `typeActive` is the NODE NODE_TYPE condition of the address (R132, R136). -/
structure NodeEntry where
  address : Nat
  type : NodeType
  owner : NodeOwner
  state : NodeState
  outToggle : Bool
  echo : Option Bool
  freshMark : Bool
  inFlight : Bool
  misses : Nat
  reported : Option (List Byte)
  stale : Bool
  nodeFault : Bool
  typeActive : Bool
  lastGoodCycle : Option Nat
  totalMisses : Nat
  slips : Nat
deriving DecidableEq, Repr

/-- The request whose reply window is open (R132): the polled address, the cycle number it was sent under, and its
bytes on the line (R131). -/
structure Poll where
  address : Nat
  cycle : Nat
  frame : List Byte
deriving DecidableEq, Repr

/-- RBM: the node table in ascending address order, the cycle number, the addresses still to be polled in this cycle,
and the poll under way. -/
structure Rbm where
  nodes : List NodeEntry
  cycle : Nat
  toPoll : List Nat
  polling : Option Poll
deriving DecidableEq, Repr

def Rbm.reset : Rbm := ⟨[], 0, [], none⟩

/-! ## TRC (Chapter 8) -/

/-- 8.1: the groups, in the order of the table. -/
inductive Group where
  | zone | node | door | lift | audio | power | store | link
deriving DecidableEq, Repr

/-- 8.1: the kinds, in the order of the table. -/
inductive Kind where
  | zoneTrouble | zoneIsolated | zoneDisabled
  | nodeLost | nodeType | nodeFault | panelTrouble
  | strikeMismatch | doorHeld | doorDisabled
  | carHeldOut | recallLate
  | channelFault | playerLost | speakerLine
  | onBattery | batteryLow
  | writeFailed | blockCorrected | blockDefaulted
  | hostSilent
deriving DecidableEq, Repr

/-- R148: a trouble detail. Its group is the group of its kind. -/
structure Detail where
  kind : Kind
  subject : Nat
  active : Bool
  latchedAt : Nat
deriving DecidableEq, Repr

/-- TRC: the collection in order of latching, and the overflow marker and the mask of each group (R148). -/
structure Trc where
  details : List Detail
  markers : Vector Bool 8
  masks : Vector Bool 8
deriving DecidableEq, Repr

def Trc.reset : Trc := ⟨[], Vector.replicate 8 false, Vector.replicate 8 false⟩

/-! ## MST (Chapter 10) -/

/-- R182: how a block was loaded. -/
inductive LoadResult where
  | clean | corrected | defaulted
deriving DecidableEq, Repr

/-- R174: what MST keeps for each block. -/
structure BlockStatus where
  load : LoadResult
  modified : Bool
  writeFailed : Bool
  correctedActive : Bool
  defaultedActive : Bool
deriving DecidableEq, Repr

/-- R182, R174: a block that has never been written loads DEFAULTED and is marked modified. -/
def BlockStatus.fresh : BlockStatus := ⟨.defaulted, true, false, false, true⟩

/-- R174: the result of the last store. -/
inductive LastStore where
  | none
  | ok
  | failed (block : Nat)
deriving DecidableEq, Repr

/-- The nonvolatile store: its bytes as written, the completion mark of each block, and the words whose cells are in
error (R180, R182). -/
structure Store where
  bytes : Memory
  marks : Vector Bool 11
  errors : List CellError
deriving DecidableEq, Repr

/-- A store that has never been written: every completion mark clear (R182). -/
def Store.blank : Store := ⟨[], Vector.replicate 11 false, []⟩

/-- MST (R174). `writing` is the block being written, absent while the store operation is IDLE. -/
structure Mst where
  map : Memory
  blocks : Vector BlockStatus 11
  writing : Option Nat
  lastStore : LastStore
  store : Store
deriving DecidableEq, Repr

def Mst.reset : Mst := ⟨[], Vector.replicate 11 BlockStatus.fresh, none, .none, .blank⟩

/-! ## HLC (Chapter 9) -/

/-- R160: the speed of the host link. -/
inductive Speed where
  | baud115200 | baud19200
deriving DecidableEq, Repr

inductive Receiver where
  | hunting | receiving
deriving DecidableEq, Repr

/-- A buffered request (R161): its message code, its TAG and its body. -/
structure Request where
  code : Nat
  tag : Byte
  body : List Byte
deriving DecidableEq, Repr

/-- A response (R164): its message code, its TAG and its body, RESULT first. -/
structure Response where
  code : Nat
  tag : Byte
  body : List Byte
deriving DecidableEq, Repr

/-- R167: what the transmitter is doing, with the frame it is sending (R161). -/
inductive Transmitter where
  | idle
  | sendingResponse (frame : List Byte)
  | sendingNotice (frame : List Byte)
deriving DecidableEq, Repr

/-- 9.5.1: the notice kinds. -/
inductive NoticeKind where
  | start | link | regime | floor | zone | door | car | program | budget | trouble | mapStored
deriving DecidableEq, Repr

/-- A queued notice (R168): its kind, its sequence value and its body after the LOST byte. -/
structure Notice where
  kind : NoticeKind
  seq : Nat
  body : List Byte
deriving DecidableEq, Repr

inductive LinkMode where
  | hosted | autonomous
deriving DecidableEq, Repr

inductive ResetCause where
  | powerOn | pin | restart
deriving DecidableEq, Repr

/-- HLC (R160). `started` says that START has been posted (R169): reception and the work of the other blocks have
begun. `hostSilent` is the LINK HOST_SILENT condition (R170). `restartDue` says that the response now pending or being
sent is that of an accepted RESTART (R166). -/
structure Hlc where
  speed : Speed
  receiver : Receiver
  buffer : List Request
  response : Option Response
  transmitter : Transmitter
  notices : List Notice
  lost : Bool
  seq : Nat
  mode : LinkMode
  lastValidAt : Nat
  resetCause : ResetCause
  started : Bool
  hostSilent : Bool
  restartDue : Bool
deriving DecidableEq, Repr

def Hlc.reset : Hlc :=
  ⟨.baud115200, .hunting, [], none, .idle, [], false, 0, .hosted, 0, .powerOn, false, false, false⟩

/-! ## The part -/

/-- The TF240. `uptime` counts seconds since reset (0.8). `pending` is the queue of commands that wait, first in first
out; it belongs to the model, not to the part. -/
structure State where
  uptime : Nat
  zev : Zev
  rgc : Rgc
  lbu : Lbu
  doors : Vector Door 64
  cru : Cru
  ans : Ans
  plp : Plp
  rbm : Rbm
  trc : Trc
  mst : Mst
  hlc : Hlc
  pending : List Instr
deriving DecidableEq, Repr

/-- Right after a power-on reset of a part whose store has never been written, with the BAUDSEL strap high
(assumption 1): every block at its after-reset values and every map block DEFAULTED; START not yet posted. -/
def State.reset : State where
  uptime := 0
  zev := .reset
  rgc := .reset
  lbu := .reset
  doors := Vector.replicate 64 Door.reset
  cru := .reset
  ans := .reset
  plp := .reset
  rbm := .reset
  trc := .reset
  mst := .reset
  hlc := .reset
  pending := []

/-- The part stops with no fault: no rule of the manual stops it, so this type has no constructor (safe). -/
inductive Fault where
deriving DecidableEq, Repr

/-- Why a command has no meaning. -/
inductive Refusal where
  /-- Raised by an arm of `exec` whose command is not modelled yet; no arm of this model raises it. Safe: nothing is
  claimed of a command that stops here. -/
  | notModelled (mnemonic : String)
deriving DecidableEq, Repr

end Sys2Proof.Machine
end

