-- ==== Sys2Proof/Machine/Memory.lean ====
section
/-! DEFINITION. The addressed memory of MST: the working map and the store, each eleven blocks of 256 bytes (10.1), the
defaults of R183, and the stored values that R176 and R187 give every field. -/

namespace Sys2Proof.Machine

/-- A default byte of GENERAL (R183, layout 11.4): floor count 32, I 120, K 32, short-silence 10, long-silence 60,
door_open_time 60, recall_time 180, max_phrase_time 60, every other byte 0. -/
def defaultGeneral (o : Nat) : Nat :=
  if o = 0 then 32 else if o = 6 then 120 else if o = 7 then 32 else if o = 13 then 10 else if o = 15 then 60
  else if o = 17 then 60 else if o = 19 then 180 else if o = 20 then 60 else 0

/-- A default byte of a ZONES block: floor NONE, kind AREA, confirm_n 1, window 0, bank 0 (R183). -/
def defaultZones (o : Nat) : Nat := if o % 8 = 0 then 0xFF else if o % 8 = 2 then 1 else 0

/-- A default byte of LIFTS: each bank's alternate NONE, every other byte 0 (R183). -/
def defaultLifts (o : Nat) : Nat := if o = 49 ∨ o = 51 then 0xFF else 0

/-- A default byte of BUDGET (R183, R50). -/
def defaultBudget (o : Nat) : Nat := [200, 64, 40, 12, 24, 3, 10].getD o 0

/-- A default byte of a TEMPLATES block: each template one slot, TONE(0) (R183). -/
def defaultTemplates (o : Nat) : Nat :=
  if 240 ≤ o then 0 else if o % 30 = 0 then 1 else if o % 30 = 1 then 0x10 else 0

/-- The default byte of a block (R183). FLOORS and NODES are all 0. -/
def defaultByte (b o : Nat) : Nat :=
  if b = 0 then defaultGeneral o
  else if 2 ≤ b ∧ b ≤ 5 then defaultZones o
  else if b = 6 then defaultLifts o
  else if b = 8 then defaultBudget o
  else if b = 9 ∨ b = 10 then defaultTemplates o
  else 0

/-- What an unlisted address reads as: the block's default (R183). -/
def mapDefault (a : Nat) : Byte := byte (defaultByte (a / 256) (a % 256))

/-- The number of bytes of the eleven blocks. -/
def mapBytes : Nat := 2816

/-- The byte at an address. -/
def Memory.read : Memory → Nat → Byte
  | [], a => mapDefault a
  | (k, v) :: rest, a => if a = k then v else Memory.read rest a

/-- The entries that a block with the given bytes lists. -/
def blockCells (b : Nat) (f : Nat → Byte) : Memory :=
  (List.range 256).filterMap fun o =>
    if f o = mapDefault (256 * b + o) then none else some (256 * b + o, f o)

/-- The memory with every byte of block `b` replaced. -/
def Memory.setBlock (m : Memory) (b : Nat) (f : Nat → Byte) : Memory :=
  m.filter (fun c => decide (c.1 < 256 * b)) ++ (blockCells b f ++
    m.filter (fun c => decide (256 * b + 256 ≤ c.1)))

/-- The canonical form: strictly rising addresses inside the eleven blocks, no entry equal to the default. -/
abbrev Memory.wf (m : Memory) : Prop :=
  m.Pairwise (fun x y => x.1 < y.1) ∧ ∀ c ∈ m, c.1 < mapBytes ∧ c.2 ≠ mapDefault c.1

/-- The byte at an offset of a block. -/
def mapByte (m : Memory) (b o : Nat) : Nat := (Memory.read m (256 * b + o)).toNat

/-- A two-byte field, most significant byte first (0.8, Byte order). -/
def map16 (m : Memory) (b o : Nat) : Nat := 256 * mapByte m b o + mapByte m b (o + 1)

/-- A four-byte field, most significant byte first. -/
def map32 (m : Memory) (b o : Nat) : Nat := 65536 * map16 m b o + map16 m b (o + 2)

/-! ## Stored values (R176, R187): what a written or loaded field holds afterwards -/

/-- R23: floor count, 0 as 1, above 32 as 32. -/
def storedFloorCount (n : Nat) : Nat := if n = 0 then 1 else min n 32

/-- R23: I, clamped to 30 to 600 and rounded down to a multiple of 10. -/
def storedInterval (n : Nat) : Nat := min (max n 30) 600 / 10 * 10

/-- R23: K, 0 as 1, above 32 as 32. -/
def storedCapacity (n : Nat) : Nat := if n = 0 then 1 else min n 32

/-- R23: clear_time, 0 kept, 1 to 59 as 60, above 3600 as 3600. -/
def storedClearTime (n : Nat) : Nat := if n = 0 then 0 else min (max n 60) 3600

/-- R23: auto_general_time, 0 kept, 1 to 59 as 60, 65535 as 65534. -/
def storedAutoGeneral (n : Nat) : Nat := if n = 0 then 0 else min (max n 60) 65534

/-- R23: autonomy action, any code but HOLD_PHASES (1) as ESCALATE (0). -/
def storedAutonomy (n : Nat) : Nat := if n = 1 then 1 else 0

/-- R170: short-silence time, 2 to 60. -/
def storedShort (n : Nat) : Nat := min (max n 2) 60

/-- R170: long-silence time, 10 to 600, then raised to the stored short-silence time plus 10. -/
def storedLong (short n : Nat) : Nat := max (min (max n 10) 600) (storedShort short + 10)

/-- R83: door_open_time, 10 to 600. -/
def storedDoorOpen (n : Nat) : Nat := min (max n 10) 600

/-- R97: recall_time, 60 to 600. -/
def storedRecall (n : Nat) : Nat := min (max n 60) 600

/-- R124: max_phrase_time, 5 to 120. -/
def storedMaxPhrase (n : Nat) : Nat := min (max n 5) 120

/-- R133, R86: a node address above 48 is stored as 0. -/
def storedAddress (n : Nat) : Nat := if 48 < n then 0 else n

/-- R1: confirm_n, clamped to the next lower of 1, 2 and 4; 0 as 1. -/
def storedConfirm (n : Nat) : Nat := if n < 2 then 1 else if n < 4 then 2 else 4

/-- R1, R86: a bank other than 0 is stored as 1. -/
def storedBank (n : Nat) : Nat := if n = 0 then 0 else 1

/-- R111: a slot word. A PHRASE or TONE number above 1023 is 1023, ORIGIN_FLOOR carries 0, a PAUSE runs 1 to 60, and a
kind code outside the four is PAUSE(1). -/
def storedSlot (w : Nat) : Nat :=
  let kind := w / 4096
  let number := w % 4096
  if kind ≤ 1 then 4096 * kind + min number 1023
  else if kind = 2 then 8192
  else if kind = 3 then 12288 + min (max number 1) 60
  else 12289

/-- R111: a slot count, 0 as 1, above 12 as 12. -/
def storedSlotCount (n : Nat) : Nat := if n = 0 then 1 else min n 12

/-- R187: a recall-floor field; 0xFF is NONE in an alternate only. -/
def storedPrimary (n : Nat) : Nat := min n 31
def storedAlternate (n : Nat) : Nat := if n = 0xFF then 0xFF else min n 31

/-- The byte at offset `o` of a two-byte field that starts at `at0` and holds `v`. -/
def fieldByte (at0 o v : Nat) : Nat := if o = at0 then v / 256 else v % 256

/-- GENERAL after storing; `r` gives the raw bytes (layout 11.4). -/
def normGeneral (r : Nat → Nat) (o : Nat) : Nat :=
  let two (k : Nat) : Nat := 256 * r k + r (k + 1)
  if o = 0 then storedFloorCount (r 0)
  else if o ≤ 4 then r o
  else if o ≤ 6 then fieldByte 5 o (storedInterval (two 5))
  else if o = 7 then storedCapacity (r 7)
  else if o ≤ 9 then fieldByte 8 o (storedClearTime (two 8))
  else if o ≤ 11 then fieldByte 10 o (storedAutoGeneral (two 10))
  else if o = 12 then storedAutonomy (r 12)
  else if o = 13 then storedShort (r 13)
  else if o ≤ 15 then fieldByte 14 o (storedLong (r 13) (two 14))
  else if o ≤ 17 then fieldByte 16 o (storedDoorOpen (two 16))
  else if o ≤ 19 then fieldByte 18 o (storedRecall (two 18))
  else if o = 20 then storedMaxPhrase (r 20)
  else 0

/-- FLOORS after storing: address, present bits, label phrase (R133, R187, 10.1). -/
def normFloors (r : Nat → Nat) (o : Nat) : Nat :=
  let e := o / 8 * 8
  if o % 8 = 0 then storedAddress (r o)
  else if o % 8 = 1 then r o % 4
  else if o % 8 ≤ 3 then fieldByte (e + 2) o (min (256 * r (e + 2) + r (e + 3)) 1023)
  else 0

/-- A ZONES block after storing (R1, R187). -/
def normZones (r : Nat → Nat) (o : Nat) : Nat :=
  if o % 8 = 0 then r o
  else if o % 8 = 1 then (if r o ≤ 4 then r o else 0)
  else if o % 8 = 2 then storedConfirm (r o)
  else if o % 8 = 3 then min (r o) 120
  else if o % 8 = 4 then storedBank (r o)
  else 0

/-- LIFTS after storing (R86, R187). -/
def normLifts (r : Nat → Nat) (o : Nat) : Nat :=
  if o < 48 then
    if o % 8 = 0 then r o % 2
    else if o % 8 = 1 then storedBank (r o)
    else if o % 8 = 2 then storedAddress (r o)
    else if o % 8 = 3 then r o % 2
    else r o
  else if o = 48 ∨ o = 50 then storedPrimary (r o)
  else if o = 49 ∨ o = 51 then storedAlternate (r o)
  else 0

/-- NODES after storing (R133). -/
def normNodes (r : Nat → Nat) (o : Nat) : Nat := if o < 5 then storedAddress (r o) else 0

/-- BUDGET after storing: the figures clamped in the order of R50, each by the stored values of the lines above it. -/
def normBudget (r : Nat → Nat) (o : Nat) : Nat :=
  let bb := min (r 1) (r 0)
  let bl := min (r 2) bb
  let rd := min (r 3) bl
  if o = 0 then r 0
  else if o = 1 then bb
  else if o = 2 then bl
  else if o = 3 then rd
  else if o = 4 then min (r 4) (bl - rd)
  else if o = 5 then min (max (r 5) 1) 8
  else if o = 6 then min (max (r 6) 4) 30
  else 0

/-- A TEMPLATES block after storing (R111): slot words beyond the slot count belong to no field and hold 0. -/
def normTemplates (b : Nat) (r : Nat → Nat) (o : Nat) : Nat :=
  if o < 240 then
    let e := o / 30 * 30
    let n := storedSlotCount (r e)
    let i := (o % 30 - 1) / 2
    if o % 30 = 0 then n
    else if i < n then
      let w := e + 1 + 2 * i
      fieldByte w o (storedSlot (256 * r w + r (w + 1)))
    else 0
  else if b = 9 ∧ o < 243 then min (r o) 15
  else 0

/-- Block `b` after storing. -/
def normByte (b : Nat) (r : Nat → Nat) (o : Nat) : Nat :=
  if b = 0 then normGeneral r o
  else if b = 1 then normFloors r o
  else if b ≤ 5 then normZones r o
  else if b = 6 then normLifts r o
  else if b = 7 then normNodes r o
  else if b = 8 then normBudget r o
  else normTemplates b r o

/-- The memory with raw bytes stored into block `b` as R176 and R187 state. -/
def Memory.storeBlock (m : Memory) (b : Nat) (r : Nat → Nat) : Memory :=
  m.setBlock b fun o => byte (normByte b r o)

end Sys2Proof.Machine
end

