-- ==== Sys2Proof/Machine/MapFields.lean ====
section
/-! DEFINITION. The figures and entries the blocks read from the working map (10.1, layouts 11.4), and the node set of
R133. -/

namespace Sys2Proof.Machine

/-! ## GENERAL -/

def floorCount (m : Memory) : Nat := mapByte m 0 0
def directExitMask (m : Memory) : FloorSet := BitVec.ofNat 32 (map32 m 0 1)
/-- I, the extension interval (R23). -/
def interval (m : Memory) : Nat := map16 m 0 5
/-- K, the stair capacity (R23). -/
def stairCapacity (m : Memory) : Nat := mapByte m 0 7
def clearTime (m : Memory) : Nat := map16 m 0 8
def autoGeneralTime (m : Memory) : Nat := map16 m 0 10
/-- The autonomy action: true for ESCALATE, false for HOLD_PHASES (R23). -/
def escalates (m : Memory) : Bool := mapByte m 0 12 != 1
def shortSilence (m : Memory) : Nat := mapByte m 0 13
def longSilence (m : Memory) : Nat := map16 m 0 14
def doorOpenTime (m : Memory) : Nat := map16 m 0 16
def recallTime (m : Memory) : Nat := map16 m 0 18
def maxPhraseTime (m : Memory) : Nat := mapByte m 0 20

/-- R23: a present floor is one whose index is below the floor count. -/
def floorPresent (m : Memory) (f : Nat) : Bool := f < floorCount m && f < 32

/-- R23: a present floor with its direct_exit bit set. -/
def directExit (m : Memory) (f : Nat) : Bool := floorPresent m f && (directExitMask m).getLsbD f

/-- The floor indices, ascending. -/
def floorIndices : List Nat := List.range 32

/-- The floor set of the indices that satisfy a test. -/
def floorSetWhere (p : Nat → Bool) : FloorSet :=
  floorIndices.foldl (fun acc f => if p f then acc ||| BitVec.ofNat 32 (2 ^ f) else acc) 0

/-- The set of all present floors. -/
def presentSet (m : Memory) : FloorSet := floorSetWhere (floorPresent m)

/-! ## FLOORS -/

def floorAddress (m : Memory) (f : Nat) : Nat := mapByte m 1 (8 * f)
def doorPresentBit (m : Memory) (d : Nat) : Bool := (mapByte m 1 (8 * (d / 2) + 1)).testBit (d % 2)
def labelPhrase (m : Memory) (f : Nat) : Nat := map16 m 1 (8 * f + 2)

/-! ## ZONES0 to ZONES3 -/

/-- R1: the kind of a zone. -/
inductive ZoneKind where
  | area | manual | liftLobby | machineRoom | hoistway
deriving DecidableEq, Repr

def zoneField (m : Memory) (z k : Nat) : Nat := mapByte m (2 + z / 32) (8 * (z % 32) + k)

/-- R1: a kind code outside the five is AREA. -/
def zoneKind (m : Memory) (z : Nat) : ZoneKind :=
  match zoneField m z 1 with
  | 1 => .manual
  | 2 => .liftLobby
  | 3 => .machineRoom
  | 4 => .hoistway
  | _ => .area

def zoneWindow (m : Memory) (z : Nat) : Nat := zoneField m z 3
def zoneBank (m : Memory) (z : Nat) : Nat := zoneField m z 4

/-- R1: the effective confirm_n is 1 when the window is 0. -/
def effectiveConfirm (m : Memory) (z : Nat) : Nat := if zoneWindow m z = 0 then 1 else zoneField m z 2

/-- R1: the effective floor is the stored floor when it is below the floor count. -/
def effectiveFloor (m : Memory) (z : Nat) : Option Nat :=
  if floorPresent m (zoneField m z 0) then some (zoneField m z 0) else none

/-- R1: what a zone watches. -/
inductive ZoneClass where
  | floorZone (f : Nat)
  | floorless
  | machine (bank : Nat)
deriving DecidableEq, Repr

/-- R1: the class of a zone, by its kind and effective floor. -/
def zoneClass (m : Memory) (z : Nat) : ZoneClass :=
  match zoneKind m z with
  | .machineRoom => .machine (zoneBank m z)
  | .hoistway => .machine (zoneBank m z)
  | _ =>
    match effectiveFloor m z with
    | some f => .floorZone f
    | none => .floorless

/-- R2: the part of a zone's entry whose change restarts its evaluation. -/
def effectiveEntry (m : Memory) (z : Nat) : Nat × Option Nat × ZoneKind × Nat :=
  (effectiveConfirm m z, effectiveFloor m z, zoneKind m z, zoneBank m z)

/-! ## LIFTS -/

def carPresentBit (m : Memory) (c : Nat) : Bool := mapByte m 6 (8 * c) % 2 = 1
def carBank (m : Memory) (c : Nat) : Nat := mapByte m 6 (8 * c + 1)
def carNode (m : Memory) (c : Nat) : Nat := mapByte m 6 (8 * c + 2)
def carMarked (m : Memory) (c : Nat) : Bool := mapByte m 6 (8 * c + 3) % 2 = 1
def carLandings (m : Memory) (c : Nat) : FloorSet := BitVec.ofNat 32 (map32 m 6 (8 * c + 4))
def bankPrimary (m : Memory) (b : Nat) : Nat := mapByte m 6 (48 + 2 * b)
def bankAlternate (m : Memory) (b : Nat) : Nat := mapByte m 6 (49 + 2 * b)

/-! ## NODES and the node set -/

def panelAddress (m : Memory) (p : Nat) : Nat := mapByte m 7 p
def powerAddress (m : Memory) : Nat := mapByte m 7 4

/-- A configured address with its expected type and its owner (R133). -/
structure NodeConfig where
  address : Nat
  type : NodeType
  owner : NodeOwner
deriving DecidableEq, Repr

/-- R177: the entries that take part in the node set, in the order of R133: power node, panels, cars, floors. -/
def nodeCandidates (m : Memory) : List NodeConfig :=
  let power : List NodeConfig := [⟨powerAddress m, .power, .power⟩]
  let panels := (List.range 4).map fun p => NodeConfig.mk (panelAddress m p) .panel (.panel p)
  let cars := ((List.range 6).filter (carPresentBit m)).map fun c => NodeConfig.mk (carNode m c) .lift (.car c)
  let floors := (floorIndices.filter (floorPresent m)).map fun f => NodeConfig.mk (floorAddress m f) .floor (.floor f)
  (power ++ panels ++ cars ++ floors).filter fun n => n.address != 0

/-- The entries that stand first at their address (R133). -/
def firstAtAddress : List NodeConfig → List Nat → List NodeConfig
  | [], _ => []
  | n :: rest, used =>
    if used.contains n.address then firstAtAddress rest used else n :: firstAtAddress rest (n.address :: used)

/-- The node set (R133), in the order of R133. -/
def nodeSet (m : Memory) : List NodeConfig := firstAtAddress (nodeCandidates m) []

/-- R177: the first duplicated address found, in the order of R133: that of the first entry that repeats an earlier one
(assumption 49). -/
def firstDuplicate : List NodeConfig → List Nat → Option Nat
  | [], _ => none
  | n :: rest, used =>
    if used.contains n.address then some n.address else firstDuplicate rest (n.address :: used)

/-- Whether an owner has a configured entry of the node set. -/
def configured (m : Memory) (o : NodeOwner) : Bool := (nodeSet m).any fun n => n.owner = o

/-- R67: a door is present when its floor is present, its present bit is set and its floor's node is configured. -/
def doorPresent (m : Memory) (d : Nat) : Bool :=
  d < 64 && floorPresent m (d / 2) && doorPresentBit m d && configured m (.floor (d / 2))

/-- R86: a car is present when its present bit is set, its node is not 0 and that node is configured. -/
def carPresent (m : Memory) (c : Nat) : Bool :=
  c < 6 && carPresentBit m c && carNode m c != 0 && configured m (.car c)

/-- R86: a present, marked car is effectively eligible when fewer than two present cars of lower index are marked. -/
def carEligible (m : Memory) (c : Nat) : Bool :=
  carPresent m c && carMarked m c &&
    ((List.range c).filter fun i => carPresent m i && carMarked m i).length < 2

/-- R86: the number of effectively eligible cars. -/
def eligibleCount (m : Memory) : Nat := ((List.range 6).filter (carEligible m)).length

/-- R87: the ground floor g. -/
def groundFloor (m : Memory) : Nat := (floorIndices.find? (directExit m)).getD 0

/-- R87: a bank's effective primary. -/
def effectivePrimary (m : Memory) (b : Nat) : Nat :=
  if floorPresent m (bankPrimary m b) then bankPrimary m b else groundFloor m

/-- R87: a bank's effective alternate. -/
def effectiveAlternate (m : Memory) (b : Nat) : Option Nat :=
  if floorPresent m (bankAlternate m b) && bankAlternate m b != effectivePrimary m b then
    some (bankAlternate m b)
  else none

/-- R87: whether floor f is a landing of the bank: an effective landing of every present car of the bank, and of at
least one. -/
def bankServes (m : Memory) (b f : Nat) : Bool :=
  let cars := (List.range 6).filter fun c => carPresent m c && carBank m c = b
  floorPresent m f && !cars.isEmpty && cars.all fun c => (carLandings m c).getLsbD f

/-! ## BUDGET -/

def budgetFigure (m : Memory) (k : Nat) : Nat := mapByte m 8 k
def doorReserve (m : Memory) : Nat := budgetFigure m 3
def audioReserve (m : Memory) : Nat := budgetFigure m 4
def doorCost (m : Memory) : Nat := budgetFigure m 5
def channelCost (m : Memory) : Nat := budgetFigure m 6

/-- R50: the budget B of a mode. -/
def budget (m : Memory) : BudgetMode → Nat
  | .mains => budgetFigure m 0
  | .battery => budgetFigure m 1
  | .low => budgetFigure m 2

/-- R50: the shared pool S = B − R_d − R_a. -/
def sharedPool (m : Memory) (mode : BudgetMode) : Nat := budget m mode - doorReserve m - audioReserve m

/-! ## TEMPLATES0 and TEMPLATES1 -/

/-- R111: a template slot. TONE plays its phrase as PHRASE does. -/
inductive Slot where
  | phrase (n : Nat)
  | tone (n : Nat)
  | originFloor
  | pause (s : Nat)
deriving DecidableEq, Repr

def templateByte (m : Memory) (t o : Nat) : Nat := mapByte m (9 + t / 8) (30 * (t % 8) + o)

/-- R111: slot `i` of template `t`, absent at or beyond its slot count. -/
def templateSlot (m : Memory) (t i : Nat) : Option Slot :=
  if i < templateByte m t 0 then
    let w := 256 * templateByte m t (1 + 2 * i) + templateByte m t (2 + 2 * i)
    let n := w % 4096
    match w / 4096 with
    | 0 => some (.phrase n)
    | 1 => some (.tone n)
    | 2 => some .originFloor
    | _ => some (.pause n)
  else none

/-- R111: the template number the map assigns to EVACUATE, ALERT and ALL_CLEAR. -/
def assignedTemplate (m : Memory) : ProgramKind → Nat
  | .evacuate => mapByte m 9 240
  | .alert => mapByte m 9 241
  | .allClear => mapByte m 9 242
  | _ => 0

end Sys2Proof.Machine
end

