-- ==== Sys2Proof/Machine/Encode.lean ====
section
/-! DEFINITION. The CRC and the frames of the host link and the riser bus (R161, R131, 11.1, 11.2), and the field kinds
in which HLC encodes every body (R184). Assumption 12 lists the encodings that R184 leaves to be inferred. -/

namespace Sys2Proof.Machine

/-! ## CRC -/

/-- One shift of the CRC register (11.1). -/
def crcShift (r : BitVec 16) : BitVec 16 :=
  if r.msb then (r <<< 1) ^^^ 0x1021#16 else r <<< 1

/-- One byte through the CRC register (11.1). -/
def crcByte (r : BitVec 16) (b : Byte) : BitVec 16 :=
  crcShift (crcShift (crcShift (crcShift (crcShift (crcShift (crcShift (crcShift
    (r ^^^ (b.setWidth 16 <<< 8)))))))))

/-- The CRC over a list of bytes, from the initial value 0x1D0F (R161). -/
def crc16 (bytes : List Byte) : BitVec 16 := bytes.foldl crcByte 0x1D0F#16

/-- The two CRC bytes, high byte first. -/
def crcBytes (bytes : List Byte) : List Byte :=
  [(crc16 bytes).extractLsb' 8 8, (crc16 bytes).extractLsb' 0 8]

/-! ## Field kinds (R184) -/

def e8 (n : Nat) : List Byte := [byte n]
def e16 (n : Nat) : List Byte := [byte (n / 256), byte n]
def e32 (n : Nat) : List Byte := e16 (n / 65536) ++ e16 n
def eFlag (b : Bool) : List Byte := [if b then 1 else 0]
def eSet (s : FloorSet) : List Byte := e32 s.toNat

/-- An optional one-byte field, absent as 0xFF. -/
def eOpt8 : Option Nat → List Byte
  | some n => e8 n
  | none => [0xFF]

/-- An optional two-byte field behind a presence byte, 0 when absent. -/
def eOpt16 : Option Nat → List Byte
  | some n => 1 :: e16 n
  | none => 0 :: e16 0

/-- An optional four-byte field behind a presence byte, 0 when absent. -/
def eOpt32 : Option Nat → List Byte
  | some n => 1 :: e32 n
  | none => 0 :: e32 0

/-- A list of varying length: a count byte, then the entries. -/
def eList {α : Type} (f : α → List Byte) (l : List α) : List Byte := e8 l.length ++ (l.map f).flatten

/-! ## Enumerations, numbered in the order of their tables (R184) -/

def Condition.code : Condition → Nat
  | .unknown => 0 | .normal => 1 | .alarm => 2 | .trouble => 3 | .isolated => 4

def Eval.code : Eval → Nat
  | .quiet => 0 | .verifying => 1 | .confirmed => 2 | .disabled => 3

/-- R16: the cause of a ZONE notice. -/
inductive ZoneCause where
  | report | expiry | startup | resetRegime | disable | enable | map
deriving DecidableEq, Repr

def ZoneCause.code : ZoneCause → Nat
  | .report => 0 | .expiry => 1 | .startup => 2 | .resetRegime => 3 | .disable => 4 | .enable => 5 | .map => 6

def ZoneKind.code : ZoneKind → Nat
  | .area => 0 | .manual => 1 | .liftLobby => 2 | .machineRoom => 3 | .hoistway => 4

def FireState.code : FireState → Nat
  | .normal => 0 | .preAlarm => 1 | .alarm => 2

def Phase.code : Phase → Nat
  | .none => 0 | .alert => 1 | .evacuate => 2 | .cleared => 3

def Cause.code : Cause → Nat
  | .origin => 0 | .direct => 1 | .schedule => 2 | .general => 3 | .host => 4 | .timer => 5

def RegimeState.code : RegimeState → Nat
  | .quiet => 0 | .alerted => 1 | .active => 2 | .general => 3

def BudgetMode.code : BudgetMode → Nat
  | .mains => 0 | .battery => 1 | .low => 2

def PowerSource.code : PowerSource → Nat
  | .mains => 0 | .battery => 1

def Source.code : Source → Nat
  | .shared => 0 | .doorReserve => 1 | .audioReserve => 2

def DoorState.code : DoorState → Nat
  | .locked => 0 | .releasePending => 1 | .releasing => 2 | .released => 3 | .relocking => 4 | .disabled => 5

def StrikeOrder.code : StrikeOrder → Nat
  | .lock => 0 | .release => 1

def Strike.code : Strike → Nat
  | .locked => 0 | .unlocked => 1

def DoorPosition.code : DoorPosition → Nat
  | .closed => 0 | .opened => 1

def CarState.code : CarState → Nat
  | .inService => 0 | .recallIssued => 1 | .recalling => 2 | .parked => 3 | .firefighter => 4 | .heldOut => 5
  | .shutDown => 6 | .lost => 7

def CarCommand.code : CarCommand → Nat
  | .normal => 0 | .recall _ => 1 | .holdOpen => 2 | .shutdown => 3 | .firefighterEnable => 4

def Motion.code : Motion → Nat
  | .stopped => 0 | .up => 1 | .down => 2

def CarDoor.code : CarDoor → Nat
  | .opened => 0 | .closed => 1 | .opening => 2 | .closing => 3

def CarMode.code : CarMode → Nat
  | .auto => 0 | .independent => 1 | .inspection => 2 | .outOfService => 3

/-- R89 lists key as ON, OFF. -/
def keyCode (on : Bool) : Nat := if on then 0 else 1

def Applied.code : Applied → Nat
  | .normal => 0 | .recall => 1 | .holdOpen => 2 | .shutdown => 3 | .firefighterEnable => 4

def RecallStep.code : RecallStep → Nat
  | .primary => 0 | .alternate => 1 | .nearest => 2 | .primaryForced => 3

def ProgramState.code : ProgramState → Nat
  | .idle => 0 | .waitingChannel => 1 | .waitingBudget => 2 | .playing => 3 | .stopping => 4

def StopReason.code : StopReason → Nat
  | .completed => 0 | .emptied => 1 | .host => 2 | .autonomy => 3 | .preempted => 4 | .shed => 5 | .fault => 6

def ChannelState.code : ChannelState → Nat
  | .free => 0 | .held => 1 | .stopping => 2 | .faulted => 3

def Awaiting.code : Awaiting → Nat
  | .nothing => 0 | .phrase => 1 | .stop => 2

def NodeType.code : NodeType → Nat
  | .floor => 0 | .panel => 1 | .lift => 2 | .power => 3

def NodeState.code : NodeState → Nat
  | .unknown => 0 | .ok => 1 | .missing => 2 | .lost => 3

/-- The owner index of a node (R147): floor, panel or car; the power node, which no rule numbers, has 0 (assumption
12). -/
def NodeOwner.index : NodeOwner → Nat
  | .floor f => f
  | .panel p => p
  | .car c => c
  | .power => 0

def LoadResult.code : LoadResult → Nat
  | .clean => 0 | .corrected => 1 | .defaulted => 2

def LastStore.code : LastStore → Nat
  | .none => 0 | .ok => 1 | .failed _ => 2

def Speed.code : Speed → Nat
  | .baud115200 => 0 | .baud19200 => 1

def LinkMode.code : LinkMode → Nat
  | .hosted => 0 | .autonomous => 1

def ResetCause.code : ResetCause → Nat
  | .powerOn => 0 | .pin => 1 | .restart => 2

/-! ## Program kinds, groups and kinds -/

end Sys2Proof.Machine

namespace Sys2Proof

/-- The kinds in priority order (R108). -/
def ProgramKind.all : List ProgramKind := [.live, .evacuate, .alert, .allClear, .tenant, .test]

/-- The priority of a kind, 0 the highest (R108). -/
def ProgramKind.priority : ProgramKind → Nat
  | .live => 0 | .evacuate => 1 | .alert => 2 | .allClear => 3 | .tenant => 4 | .test => 5

/-- The kind of a code (R130: a code outside the six names none). -/
def ProgramKind.ofCode (n : Nat) : Option ProgramKind := ProgramKind.all[n]?

end Sys2Proof

namespace Sys2Proof.Machine

def Group.all : List Group := [.zone, .node, .door, .lift, .audio, .power, .store, .link]

def Group.code : Group → Nat
  | .zone => 0 | .node => 1 | .door => 2 | .lift => 3 | .audio => 4 | .power => 5 | .store => 6 | .link => 7

def Group.ofCode (n : Nat) : Option Group := Group.all[n]?

/-- 8.1: the group of a kind. -/
def Kind.group : Kind → Group
  | .zoneTrouble => .zone | .zoneIsolated => .zone | .zoneDisabled => .zone
  | .nodeLost => .node | .nodeType => .node | .nodeFault => .node | .panelTrouble => .node
  | .strikeMismatch => .door | .doorHeld => .door | .doorDisabled => .door
  | .carHeldOut => .lift | .recallLate => .lift
  | .channelFault => .audio | .playerLost => .audio | .speakerLine => .audio
  | .onBattery => .power | .batteryLow => .power
  | .writeFailed => .store | .blockCorrected => .store | .blockDefaulted => .store
  | .hostSilent => .link

/-- The kind's place among the kinds of its group (8.1). -/
def Kind.code : Kind → Nat
  | .zoneTrouble => 0 | .zoneIsolated => 1 | .zoneDisabled => 2
  | .nodeLost => 0 | .nodeType => 1 | .nodeFault => 2 | .panelTrouble => 3
  | .strikeMismatch => 0 | .doorHeld => 1 | .doorDisabled => 2
  | .carHeldOut => 0 | .recallLate => 1
  | .channelFault => 0 | .playerLost => 1 | .speakerLine => 2
  | .onBattery => 0 | .batteryLow => 1
  | .writeFailed => 0 | .blockCorrected => 1 | .blockDefaulted => 2
  | .hostSilent => 0

/-- 9.5.1: the code of a notice kind. -/
def NoticeKind.code : NoticeKind → Nat
  | .start => 0x01 | .link => 0x02 | .regime => 0x03 | .floor => 0x04 | .zone => 0x05 | .door => 0x06
  | .car => 0x07 | .program => 0x08 | .budget => 0x09 | .trouble => 0x0A | .mapStored => 0x0B

/-- R164: the result of a request, numbered by R184. -/
inductive Result where
  | ok | refusedState | refusedRange | unknownRequest | mapBusy | partly
deriving DecidableEq, Repr

def Result.code : Result → Nat
  | .ok => 0 | .refusedState => 1 | .refusedRange => 2 | .unknownRequest => 3 | .mapBusy => 4 | .partly => 5

/-! ## Compound fields -/

/-- R184: a door as its index, a program as 0x40 plus its kind. -/
def Claimant.code : Claimant → Nat
  | .door d => d
  | .program k => 0x40 + k.priority

/-- R130: a selector, 0xFE for OFF and 0xFF for none. -/
def eSelector : Option Selector → List Byte
  | some (.channel c) => e8 c
  | some .off => [0xFE]
  | none => [0xFF]

/-- The target byte of a command: the floor of RECALL, 0xFF otherwise (11.2). -/
def CarCommand.floorByte : CarCommand → Byte
  | .recall f => byte f
  | _ => 0xFF

/-- A command as the LIFT request payload lays it out (11.2). -/
def eCommand (c : CarCommand) : List Byte := e8 c.code ++ [c.floorByte]

def eOptCommand : Option CarCommand → List Byte
  | some c => eCommand c
  | none => [0xFF, 0xFF]

/-- A payload as a list of bytes: a count byte, then the bytes. -/
def ePayload (l : List Byte) : List Byte := e8 l.length ++ l

def eStats (s : Stats) : List Byte := e32 s.inserts ++ e32 s.occupancy ++ e32 s.nonempty

/-- The part code of the TF240 (R184). -/
def partCode : Nat := 0x0F24

/-! ## Frames -/

/-- A host-link frame (R161): SYNC, LENGTH, KIND, TAG, body, CRC. -/
def hostFrame (cls code : Nat) (tag : Byte) (body : List Byte) : List Byte :=
  let covered := byte (body.length + 2) :: byte (64 * cls + code) :: tag :: body
  0xC5 :: (covered ++ crcBytes covered)

/-- The frame of a response (R164). -/
def Response.frame (r : Response) : List Byte := hostFrame 1 r.code r.tag r.body

/-- The frame of a notice, with the LOST byte HLC writes as it leaves the queue (R168). -/
def Notice.frame (n : Notice) (lost : Bool) : List Byte :=
  hostFrame 2 n.kind.code (byte n.seq) (eFlag lost ++ n.body)

/-- A riser-bus request frame (R131, 11.2): SYNC, ADDRESS, CONTROL with the low byte of the cycle number, LENGTH,
payload, CRC over ADDRESS through the payload. -/
def riserRequest (address : Nat) (type : NodeType) (toggle : Bool) (cycle : Nat) (payload : List Byte) : List Byte :=
  let covered := byte address :: byte (32 * type.code + (if toggle then 16 else 0)) :: byte cycle ::
    byte payload.length :: payload
  0x3A :: (covered ++ crcBytes covered)

/-- The four bytes of a player-port command transaction (R186). -/
def PlayerCommand.bytes : PlayerCommand → List Byte
  | .play c n => [0x01, byte c, byte (n / 256 % 4), byte n]
  | .stop c => [0x02, byte c, 0, 0]
  | .routeLive c => [0x03, byte c, 0, 0]

/-- The channel a command concerns. -/
def PlayerCommand.channel : PlayerCommand → Nat
  | .play c _ => c
  | .stop c => c
  | .routeLive c => c

end Sys2Proof.Machine
end

