-- ==== Sys2Proof/Machine/Flags.lean ====
section
/-! DEFINITION. The flags and conditions computed from the part's state: the indication pins, the summary flags, the
trouble conditions that stand at a moment, the in-flight state of a node, the demand on a door, and the views of the
table rows. -/

namespace Sys2Proof.Machine

/-! ## Rows -/

def State.zone (s : State) (z : Nat) : Zone := vget s.zev.zones z .reset
def State.floor (s : State) (f : Nat) : Floor := vget s.rgc.floors f .reset
def State.door (s : State) (d : Nat) : Door := vget s.doors d .reset
def State.car (s : State) (c : Nat) : Car := vget s.cru.cars c .reset
def State.bank (s : State) (b : Nat) : Bank := vget s.cru.banks b .reset
def State.program (s : State) (k : ProgramKind) : Program := vget s.ans.programs k.priority .reset
def State.channel (s : State) (c : Nat) : Channel := vget s.ans.channels c .reset
def State.join (s : State) (f : Nat) : Join := vget s.ans.joins f .reset
def State.block (s : State) (b : Nat) : BlockStatus := vget s.mst.blocks b .fresh
/-- The working map. -/
def State.map (s : State) : Memory := s.mst.map

/-- The node table entry of an address. -/
def State.entryAt (s : State) (a : Nat) : Option NodeEntry := s.rbm.nodes.find? fun e => e.address = a

/-- The node table entry of an owner. -/
def State.entryOf (s : State) (o : NodeOwner) : Option NodeEntry := s.rbm.nodes.find? fun e => e.owner = o

/-! ## Regime and link -/

/-- R22, R156: the regime states in which the ALARM pin is asserted and the clock counts (R27). -/
def RegimeState.running : RegimeState → Bool
  | .active => true
  | .general => true
  | .quiet => false
  | .alerted => false

/-- R156: the ALARM pin is asserted while the regime is ACTIVE or GENERAL. -/
def State.alarmPin (s : State) : Bool := s.rgc.state.running

/-- R25: whether a regime start enters GENERAL for want of a host. -/
def State.escalating (s : State) : Bool := s.hlc.mode = .autonomous && escalates s.map

/-- R34: the stair count. -/
def stairCount (m : Memory) (r : Rgc) : Nat :=
  (floorIndices.filter fun f =>
    floorPresent m f && (vget r.floors f .reset).phase = .evacuate && !directExit m f).length

/-! ## Trouble -/

/-- R155: a group's summary flag is set when it is unmasked and holds at least one detail. -/
def Trc.summary (t : Trc) (g : Group) : Bool :=
  !(vget t.masks g.code false) && t.details.any fun d => d.kind.group = g

/-- R155: the TROUBLE pin is asserted when some summary flag is set. -/
def State.troublePin (s : State) : Bool := Group.all.any s.trc.summary

/-- Whether a condition is active at this moment, as its owner keeps it (8.1, R152 step 3). -/
def State.conditionActive (s : State) (k : Kind) (n : Nat) : Bool :=
  match k with
  | .zoneTrouble => n < 128 && (s.zone n).condition = .trouble
  | .zoneIsolated => n < 128 && (s.zone n).condition = .isolated
  | .zoneDisabled => n < 128 && (s.zone n).eval = .disabled
  | .nodeLost => (s.entryAt n).any fun e => e.state = .lost
  | .nodeType => (s.entryAt n).any fun e => e.typeActive
  | .nodeFault => (s.entryAt n).any fun e => e.nodeFault
  | .panelTrouble => (s.entryAt n).any fun e => e.type = .panel && vget s.zev.panelTrouble e.owner.index false
  | .strikeMismatch => n < 64 && (s.door n).faulted
  | .doorHeld => n < 64 && (s.door n).held
  | .doorDisabled => n < 64 && (s.door n).state = .disabled
  | .carHeldOut => n < 6 && (s.car n).heldOutActive
  | .recallLate => n < 6 && (s.car n).late
  | .channelFault => n < 6 && (s.channel n).faultCondition
  | .playerLost => n = 0 && s.ans.playerLost
  | .speakerLine => n < 32 && (s.join n).lineFault
  | .onBattery => (s.entryAt n).any fun e => e.owner = .power && s.lbu.power.any fun r => r.source = .battery
  | .batteryLow => (s.entryAt n).any fun e => e.owner = .power && s.lbu.power.any fun r => r.low
  | .writeFailed => n < 11 && (s.block n).writeFailed
  | .blockCorrected => n < 11 && (s.block n).correctedActive
  | .blockDefaulted => n < 11 && (s.block n).defaultedActive
  | .hostSilent => n = 0 && s.hlc.hostSilent

/-- 8.1: the kinds of a group, in the order of the table. -/
def Group.kinds : Group → List Kind
  | .zone => [.zoneTrouble, .zoneIsolated, .zoneDisabled]
  | .node => [.nodeLost, .nodeType, .nodeFault, .panelTrouble]
  | .door => [.strikeMismatch, .doorHeld, .doorDisabled]
  | .lift => [.carHeldOut, .recallLate]
  | .audio => [.channelFault, .playerLost, .speakerLine]
  | .power => [.onBattery, .batteryLow]
  | .store => [.writeFailed, .blockCorrected, .blockDefaulted]
  | .link => [.hostSilent]

/-- R152 step 3: the active conditions of a group, in subject order and within a subject in the kind order of 8.1. -/
def State.activeConditions (s : State) (g : Group) : List (Kind × Nat) :=
  (List.range 128).flatMap fun n => (g.kinds.filter fun k => s.conditionActive k n).map fun k => (k, n)

/-! ## Nodes -/

/-- R69, R90, R134: a node counts as having a change in flight while its entry has one, and while it is UNKNOWN or LOST.
Where the owner has no entry no change is in flight: what it gives RBM goes to no node (R121, assumption 14). -/
def State.nodeInFlight (s : State) (o : NodeOwner) : Bool :=
  match s.entryOf o with
  | some e => e.inFlight || e.state = .unknown || e.state = .lost
  | none => false

def State.nodeLost (s : State) (o : NodeOwner) : Bool := (s.entryOf o).any fun e => e.state = .lost

/-! ## Doors -/

/-- R69: the wanted value of a door state. -/
def DoorState.wanted : DoorState → StrikeOrder
  | .releasing => .release
  | .released => .release
  | .locked => .lock
  | .releasePending => .lock
  | .relocking => .lock
  | .disabled => .lock

/-- R83: the states in which held-open supervision watches a door. -/
def DoorState.watched : DoorState → Bool
  | .locked => true
  | .disabled => true
  | .releasePending => false
  | .releasing => false
  | .released => false
  | .relocking => false

/-- R68: the level a door's demand gives its claim, absent when no demand stands. -/
def State.doorDemand (s : State) (d : Nat) : Option Nat :=
  match (s.floor (d / 2)).phase with
  | .evacuate => some 2
  | .cleared => some 2
  | .alert => some 4
  | .none => if (s.door d).manual then some 6 else none

/-- The door indices, ascending. -/
def doorIndices : List Nat := List.range 64

/-! ## Cars -/

/-- R89: a mode of none is taken as AUTO wherever a rule judges the mode. -/
def Car.inAuto (c : Car) : Bool := c.mode = none || c.mode = some .auto

/-- R90: the command a state asks for. -/
def wantedCommandOf (target : Option Nat) : CarState → CarCommand
  | .inService => .normal
  | .heldOut => .normal
  | .recallIssued => .recall (target.getD 0)
  | .recalling => .recall (target.getD 0)
  | .parked => .holdOpen
  | .shutDown => .shutdown
  | .firefighter => .firefighterEnable
  | .lost => .normal

/-- R90: a car's wanted command; in LOST that of its prior_state. -/
def Car.wanted (c : Car) : CarCommand :=
  wantedCommandOf c.target (if c.state = .lost then c.priorState.getD .inService else c.state)

def carIndices : List Nat := List.range 6

/-! ## Programs -/

/-- R108: the claim level of a kind. -/
def programLevel : ProgramKind → Nat
  | .live => 0
  | .evacuate => 1
  | .alert => 3
  | .allClear => 5
  | .tenant => 5
  | .test => 6

/-- R118: the kinds whose repetitions are endless. -/
def endless : ProgramKind → Bool
  | .evacuate => true
  | .alert => true
  | .live => false
  | .allClear => false
  | .tenant => false
  | .test => false

/-- The kinds whose given set empties whenever the program is stopped for any reason but a channel fault (R108). -/
def endsWhenStopped : ProgramKind → Bool
  | .tenant => true
  | .test => true
  | .live => false
  | .evacuate => false
  | .alert => false
  | .allClear => false

/-- R108: a program's floor set. ALL_CLEAR's is all present floors from a return to QUIET, which makes its given set
non-empty, until the program ends. -/
def State.floorSetOf (s : State) (k : ProgramKind) : FloorSet :=
  let present := presentSet s.map
  let given := (s.program k).givenSet
  match k with
  | .live => given &&& present
  | .evacuate => floorSetWhere fun f => floorPresent s.map f &&
      ((s.floor f).phase = .evacuate || (s.floor f).phase = .cleared)
  | .alert => if s.rgc.muteUntil.isSome then 0 else
      floorSetWhere fun f => floorPresent s.map f && (s.floor f).phase = .alert
  | .allClear => if given = 0 then 0 else present
  | .tenant => floorSetWhere fun f => given.getLsbD f && floorPresent s.map f && (s.floor f).phase = .none
  | .test => given &&& present

def channelIndices : List Nat := List.range 6

/-- R121: the channel of the highest-priority PLAYING program whose floor set contains the floor, or OFF. -/
def State.selectorFor (s : State) (f : Nat) : Selector :=
  match ProgramKind.all.find? fun k => (s.program k).state = .playing && (s.program k).floorSet.getLsbD f with
  | some k =>
    match (s.program k).channel with
    | some c => .channel c
    | none => .off
  | none => .off

end Sys2Proof.Machine
end

