-- ==== Sys2Proof/Machine/Ops.lean ====
section
/-! DEFINITION. The shared operations of a step: the work in progress of one command, posting notices (R168), reporting
conditions to TRC (R149 to R151), giving payloads to RBM (R140), the transmitter's choice (R167), and the end of a
step. -/

namespace Sys2Proof.Machine

/-- A condition change on its way to TRC (R151). -/
structure CondChange where
  kind : Kind
  subject : Nat
  active : Bool
deriving DecidableEq, Repr

/-- The work in progress of one command: the part, and what the present event has gathered so far.
`given`: the floors whose node has been given a payload in this event (R140).
`moved`: the doors whose state changed in this event, whose wanted value R69 is still to compare.
`toPlace`: the doors queued in this event, whose claims go to LBU together (R68).
`joinsDue`: whether the joins are to be recomputed at the end of this ANS event (R121).
`passDue`: whether a claim has been returned and a grant pass is still to run (R61).
`doorMarks`, `programMarks`, `carMarks`, `alarmStops`: the records whose notices the event owes (R84, R130, R106).
`conds`: the condition changes of the step, in the order they are handed to TRC. -/
structure Work extends State where
  given : List Nat := []
  moved : List Nat := []
  toPlace : List Nat := []
  joinsDue : Bool := false
  passDue : Bool := false
  doorMarks : List Nat := []
  programMarks : List ProgramKind := []
  carMarks : List Nat := []
  alarmStops : List Nat := []
  conds : List CondChange := []
deriving DecidableEq, Repr

/-- The work at the beginning of a command. -/
def Work.begin (s : State) : Work := { toState := s }

/-! ## Blocks and gatherings -/

def Work.setZev (w : Work) (v : Zev) : Work := { w with zev := v }
def Work.setRgc (w : Work) (v : Rgc) : Work := { w with rgc := v }
def Work.setLbu (w : Work) (v : Lbu) : Work := { w with lbu := v }
def Work.setCru (w : Work) (v : Cru) : Work := { w with cru := v }
def Work.setAns (w : Work) (v : Ans) : Work := { w with ans := v }
def Work.setPlp (w : Work) (v : Plp) : Work := { w with plp := v }
def Work.setRbm (w : Work) (v : Rbm) : Work := { w with rbm := v }
def Work.setTrc (w : Work) (v : Trc) : Work := { w with trc := v }
def Work.setMst (w : Work) (v : Mst) : Work := { w with mst := v }
def Work.setHlc (w : Work) (v : Hlc) : Work := { w with hlc := v }

def Work.addGiven (w : Work) (f : Nat) : Work := { w with given := f :: w.given }
def Work.addMoved (w : Work) (d : Nat) : Work := { w with moved := w.moved ++ [d] }
def Work.noneMoved (w : Work) : Work := { w with moved := [] }
def Work.addToPlace (w : Work) (d : Nat) : Work := { w with toPlace := w.toPlace ++ [d] }
def Work.noneToPlace (w : Work) : Work := { w with toPlace := [] }
def Work.oweJoins (w : Work) (due : Bool) : Work := { w with joinsDue := w.joinsDue || due }
def Work.noJoins (w : Work) : Work := { w with joinsDue := false }
def Work.owePass (w : Work) (due : Bool) : Work := { w with passDue := due }
def Work.markDoor (w : Work) (d : Nat) : Work := { w with doorMarks := d :: w.doorMarks }
def Work.markProgram (w : Work) (k : ProgramKind) : Work := { w with programMarks := k :: w.programMarks }
def Work.markCar (w : Work) (c : Nat) : Work := { w with carMarks := c :: w.carMarks }
def Work.markAlarmStop (w : Work) (c : Nat) : Work := { w with alarmStops := c :: w.alarmStops }

/-- Nothing gathered: an event has ended. -/
def Work.settled (w : Work) : Work :=
  { w with
    given := [], moved := [], toPlace := [], joinsDue := false, passDue := false, doorMarks := [], programMarks := [],
    carMarks := [], alarmStops := [] }

/-! ## Rows -/

def Work.setZone (w : Work) (z : Nat) (r : Zone) : Work := w.setZev { w.zev with zones := vset w.zev.zones z r }

def Work.setDoor (w : Work) (d : Nat) (r : Door) : Work := { w with doors := vset w.doors d r }

def Work.setJoin (w : Work) (f : Nat) (r : Join) : Work := w.setAns { w.ans with joins := vset w.ans.joins f r }

/-- A program's record replaced. A change of its state or channel owes a PROGRAM notice (R130). -/
def Work.setProgram (w : Work) (k : ProgramKind) (r : Program) : Work :=
  let w' := w.setAns { w.ans with programs := vset w.ans.programs k.priority r }
  if (w.program k).state = r.state ∧ (w.program k).channel = r.channel then w' else w'.markProgram k

def Work.setChannel (w : Work) (c : Nat) (r : Channel) : Work :=
  w.setAns { w.ans with channels := vset w.ans.channels c r }

/-- A car's record replaced. A change of its state, target, shutdown_due or late owes a CAR notice (R106). -/
def Work.setCar (w : Work) (c : Nat) (r : Car) : Work :=
  let old := w.car c
  let w' := w.setCru { w.cru with cars := vset w.cru.cars c r }
  if old.state = r.state ∧ old.target = r.target ∧ old.shutdownDue = r.shutdownDue ∧ old.late = r.late then w'
  else w'.markCar c

def Work.setBlock (w : Work) (b : Nat) (r : BlockStatus) : Work :=
  w.setMst { w.mst with blocks := vset w.mst.blocks b r }

/-- A condition change handed to TRC (R151). -/
def Work.report (w : Work) (k : Kind) (n : Nat) (active : Bool) : Work :=
  { w with conds := w.conds ++ [⟨k, n, active⟩] }

/-- A condition that passes from `old` to `new` is handed to TRC; one that keeps its state is not. -/
def Work.reportChange (w : Work) (k : Kind) (n : Nat) (old new : Bool) : Work :=
  if old = new then w else w.report k n new

/-! ## Notices (R168) -/

/-- R168: a posting takes the next sequence value; at 32 notices it is dropped and the lost mark is set. -/
def Hlc.post (h : Hlc) (k : NoticeKind) (body : List Byte) : Hlc :=
  if h.notices.length < 32 then
    { h with notices := h.notices ++ [⟨k, h.seq, body⟩], seq := (h.seq + 1) % 256 }
  else { h with seq := (h.seq + 1) % 256, lost := true }

def Work.post (w : Work) (k : NoticeKind) (body : List Byte) : Work := w.setHlc (w.hlc.post k body)

/-! ## The trouble collection (R148 to R157) -/

def eFlags (p : Group → Bool) : List Byte := (Group.all.map fun g => eFlag (p g)).flatten

/-- The items every TROUBLE notice carries after its cause (R157), and READ_TROUBLE after the uptime (R158). -/
def eTroubleState (t : Trc) : List Byte :=
  eFlags t.summary ++ eFlags (fun g => vget t.masks g.code false) ++
    eFlags (fun g => vget t.markers g.code false) ++ e8 t.details.length

/-- A detail as a TROUBLE notice carries it: group, subject, kind, active, latched_at and position (R157). -/
def eDetailThenPosition (d : Detail) (position : Nat) : List Byte :=
  e8 d.kind.group.code ++ e8 d.subject ++ e8 d.kind.code ++ eFlag d.active ++ e32 d.latchedAt ++ e8 position

/-- R157: the cause of a TROUBLE notice. -/
inductive TroubleCause where
  | added | active | inactive | overflow | cleared | mask
deriving DecidableEq, Repr

def TroubleCause.code : TroubleCause → Nat
  | .added => 0 | .active => 1 | .inactive => 2 | .overflow => 3 | .cleared => 4 | .mask => 5

def troubleBody (cause : TroubleCause) (t : Trc) (more : List Byte) : List Byte :=
  e8 cause.code ++ eTroubleState t ++ more

/-- Whether a detail has the key (R148). -/
def Detail.keyed (d : Detail) (k : Kind) (n : Nat) : Bool := d.kind = k && d.subject = n

/-- The position of the detail with a key. -/
def Trc.position (t : Trc) (k : Kind) (n : Nat) : Option Nat := t.details.findIdx? fun d => d.keyed k n

/-- The collection with the detail of a key set active or inactive. -/
def Trc.setActive (t : Trc) (k : Kind) (n : Nat) (a : Bool) : Trc :=
  { t with details := t.details.map fun d => if d.keyed k n then { d with active := a } else d }

/-- R149: a condition has become active; `now` is the latched_at of a detail that is added. -/
def Trc.activate (t : Trc) (now : Nat) (k : Kind) (n : Nat) : Trc × Option (List Byte) :=
  match t.position k n with
  | some i =>
    match t.details[i]? with
    | some d =>
      if d.active then (t, none)
      else
        let t' := t.setActive k n true
        (t', some (troubleBody .active t' (eDetailThenPosition { d with active := true } i)))
    | none => (t, none)
  | none =>
    if t.details.length < 64 then
      let d : Detail := ⟨k, n, true, now⟩
      let t' := { t with details := t.details ++ [d] }
      (t', some (troubleBody .added t' (eDetailThenPosition d t.details.length)))
    else if vget t.markers k.group.code false then (t, none)
    else
      let t' := { t with markers := vset t.markers k.group.code true }
      (t', some (troubleBody .overflow t' (e8 k.group.code ++ e8 n ++ e8 k.code)))

/-- R150: a condition has become inactive. -/
def Trc.inactivate (t : Trc) (k : Kind) (n : Nat) : Trc × Option (List Byte) :=
  match t.position k n with
  | some i =>
    match t.details[i]? with
    | some d =>
      if d.active then
        let t' := t.setActive k n false
        (t', some (troubleBody .inactive t' (eDetailThenPosition { d with active := false } i)))
      else (t, none)
    | none => (t, none)
  | none => (t, none)

/-- TRC takes one condition change as its own event (R151), with its TROUBLE notice (R157). -/
def State.takeCondition (s : State) (now : Nat) (c : CondChange) : State :=
  let r := if c.active then s.trc.activate now c.kind c.subject else s.trc.inactivate c.kind c.subject
  match r.2 with
  | some body => { s with trc := r.1, hlc := s.hlc.post .trouble body }
  | none => { s with trc := r.1 }

/-! ## The transmitter (R167) -/

/-- R167: the arbiter's choice when the transmitter is IDLE: a pending response first, then the head of the notice
queue, whose LOST byte is written as it leaves (R168). -/
def Hlc.arbitrate (h : Hlc) : Hlc :=
  match h.transmitter with
  | .idle =>
    match h.response with
    | some r => { h with response := none, transmitter := .sendingResponse r.frame }
    | none =>
      match h.notices with
      | n :: rest => { h with notices := rest, lost := false, transmitter := .sendingNotice (n.frame h.lost) }
      | [] => h
  | .sendingResponse _ => h
  | .sendingNotice _ => h

/-- The end of a step: TRC takes the condition changes, then the arbiter chooses (assumptions 8 and 9). -/
def Work.finish (w : Work) : State :=
  let s := w.conds.foldl (fun s c => s.takeCondition s.uptime c) w.toState
  { s with hlc := s.hlc.arbitrate }

/-- A command of a part that has posted START; before that no block but MST acts (R169), and the event does not occur
(assumption 3). -/
def State.whenStarted (s : State) (f : Work → Work) : State :=
  if s.hlc.started then (f (Work.begin s)).finish else s

/-! ## Payloads given to RBM (R140) -/

/-- The node table with an owner's entry changed. -/
def updateOwner (nodes : List NodeEntry) (o : NodeOwner) (f : NodeEntry → NodeEntry) : List NodeEntry :=
  nodes.map fun e => if e.owner = o then f e else e

/-- R140: a new payload complements out_toggle and sets in_flight. -/
def NodeEntry.give (e : NodeEntry) : NodeEntry := { e with outToggle := !e.outToggle, inFlight := true }

/-- RBM is given an owner's new payload. -/
def Work.giveNode (w : Work) (o : NodeOwner) : Work :=
  w.setRbm { w.rbm with nodes := updateOwner w.rbm.nodes o .give }

/-- RBM is given a floor's new payload: the changes of DRU and ANS in one event are one payload change and complement
the toggle once (R140). -/
def Work.giveFloor (w : Work) (f : Nat) : Work :=
  if w.given.contains f then w else (w.giveNode (.floor f)).addGiven f

/-- Whether an owner of a floor node must hold a change: one is in flight that this event did not itself give (R69). -/
def Work.floorHolds (w : Work) (f : Nat) : Bool := !(w.given.contains f) && w.nodeInFlight (.floor f)

/-! ## Sorting by insertion -/

def insertBy {α : Type} (le : α → α → Bool) (x : α) : List α → List α
  | [] => [x]
  | y :: ys => if le x y then x :: y :: ys else y :: insertBy le x ys

/-- A stable sort. -/
def sortBy {α : Type} (le : α → α → Bool) : List α → List α
  | [] => []
  | x :: xs => insertBy le x (sortBy le xs)

end Sys2Proof.Machine
end

