-- ==== Sys2Proof/Machine/Ledger.lean ====
section
/-! DEFINITION. LBU's account (Chapter 3): the ledger and the wait list as views of the claims, the grant pass (R55 to
R58), shedding (R59, R60) and the reserves overdrawn by a BUDGET write (R63). -/

namespace Sys2Proof.Machine

/-- What each source may carry: S, R_d and R_a (R50). -/
structure Capacity where
  shared : Nat
  door : Nat
  audio : Nat
deriving DecidableEq, Repr

def Capacity.of (c : Capacity) : Source → Nat
  | .shared => c.shared
  | .doorReserve => c.door
  | .audioReserve => c.audio

def capacityOf (m : Memory) (mode : BudgetMode) : Capacity := ⟨sharedPool m mode, doorReserve m, audioReserve m⟩

def Claim.waiting (c : Claim) : Bool := c.source.isNone

/-- R53: the ledger sum of a source: the costs of the granted claims drawn from it. -/
def Lbu.used (l : Lbu) (src : Source) : Nat := ((l.claims.filter fun c => c.source = some src).map Claim.cost).sum

/-- R54: the wait list, by level and within a level by placed_order. -/
def Lbu.waitList (l : Lbu) : List Claim :=
  sortBy (fun a b => decide (a.level < b.level ∨ (a.level = b.level ∧ a.placed ≤ b.placed))) (l.claims.filter Claim.waiting)

/-- The granted claims in granted_order. -/
def Lbu.grantedList (l : Lbu) : List Claim :=
  sortBy (fun a b => decide (a.granted.getD 0 ≤ b.granted.getD 0)) (l.claims.filter fun c => !c.waiting)

/-- The claim of a claimant: at most one (R51). -/
def Lbu.claimOf (l : Lbu) (who : Claimant) : Option Claim := l.claims.find? fun c => c.claimant = who

def Lbu.has (l : Lbu) (who : Claimant) : Bool := l.claims.any fun c => c.claimant = who

/-- Whether a P0 or P1 claim is waiting (R56, R58). -/
def Lbu.urgentWaiting (l : Lbu) : Bool := l.claims.any fun c => c.waiting && decide (c.level ≤ 1)

/-- The account with one claimant's claim changed. -/
def Lbu.change (l : Lbu) (who : Claimant) (f : Claim → Claim) : Lbu :=
  { l with claims := l.claims.map fun c => if c.claimant = who then f c else c }

/-- The account without one claimant's claim. -/
def Lbu.drop (l : Lbu) (who : Claimant) : Lbu := { l with claims := l.claims.filter fun c => c.claimant ≠ who }

/-- A granted claim moved to another source; it keeps its granted_order (R51). -/
def Lbu.move (l : Lbu) (who : Claimant) (src : Source) : Lbu := l.change who fun c => { c with source := some src }

/-- R57: a waiting claim granted from a source takes the next granted_order. -/
def Lbu.grant (l : Lbu) (who : Claimant) (src : Source) : Lbu :=
  { l.change who (fun c => { c with source := some src, granted := some l.nextGranted }) with
    nextGranted := l.nextGranted + 1 }

/-- Whether a cost fits in what remains of a source. -/
def Lbu.fits (l : Lbu) (cap : Capacity) (src : Source) (cost : Nat) : Bool := l.used src + cost ≤ cap.of src

/-- R52: the reserve open to a level. -/
def reserveOf (level : Nat) : Option Source :=
  if level = 0 ∨ level = 1 ∨ level = 3 then some .audioReserve
  else if level = 2 ∨ level = 4 then some .doorReserve
  else none

/-- R56: the refill moves one reserve-drawn claim into the shared pool when it fits; door-reserve claims only when no
P0 or P1 claim waited at the start of the pass. -/
def refillOne (cap : Capacity) (urgent : Bool) (l : Lbu) (c : Claim) : Lbu :=
  if (c.source = some .audioReserve || (c.source = some .doorReserve && !urgent)) && l.fits cap .shared c.cost then
    l.move c.claimant .shared
  else l

def Lbu.refill (l : Lbu) (cap : Capacity) : Lbu := l.grantedList.foldl (refillOne cap l.urgentWaiting) l

/-- R58: the shared pool is closed to a claim of level P2 or lower while a P0 or P1 claim is still waiting. Every P0 and
P1 claim has been tried before the first such claim, so the gate is the same for each of them in one scan. -/
def Lbu.gated (l : Lbu) (level : Nat) : Bool := decide (2 ≤ level) && l.urgentWaiting

/-- R57: the first open source in which a claim fits, the shared pool before the reserve. -/
def Lbu.sourceFor (l : Lbu) (cap : Capacity) (c : Claim) : Option Source :=
  if !(l.gated c.level) && l.fits cap .shared c.cost then some .shared
  else
    match reserveOf c.level with
    | some r => if l.fits cap r c.cost then some r else none
    | none => none

/-- R57: one claim of the scan. -/
def scanOne (cap : Capacity) (acc : Lbu × List Claimant) (c : Claim) : Lbu × List Claimant :=
  match acc.1.sourceFor cap c with
  | some src => (acc.1.grant c.claimant src, acc.2 ++ [c.claimant])
  | none => acc

/-- R55: a grant pass, the refill and then the scan; the claimants granted, in the order of the grants. -/
def Lbu.pass (l : Lbu) (cap : Capacity) : Lbu × List Claimant :=
  let l' := l.refill cap
  l'.waitList.foldl (scanOne cap) (l', [])

/-- R59: the shed order: highest level number first, within a level the most recently granted first. -/
def shedBefore (a b : Claim) : Bool :=
  decide (b.level < a.level ∨ (a.level = b.level ∧ b.granted.getD 0 ≤ a.granted.getD 0))

def Lbu.shedOrder (l : Lbu) (src : Source) : List Claim :=
  sortBy shedBefore (l.claims.filter fun c => c.source = some src)

/-- What shedding has done: the account, the claimants shed in order, and the number re-sourced. -/
structure ShedResult where
  lbu : Lbu
  shed : List Claimant
  resourced : Nat
deriving DecidableEq, Repr

/-- R60: a claim taken in the shed order is re-sourced to the reserve of its level if it fits there, and shed
otherwise. R59: nothing more is taken once shared_used is at or below S. -/
def shedOne (cap : Capacity) (r : ShedResult) (c : Claim) : ShedResult :=
  if r.lbu.used .shared ≤ cap.shared then r
  else
    match reserveOf c.level with
    | some src =>
      if r.lbu.fits cap src c.cost then { r with lbu := r.lbu.move c.claimant src, resourced := r.resourced + 1 }
      else { r with lbu := r.lbu.drop c.claimant, shed := r.shed ++ [c.claimant] }
    | none => { r with lbu := r.lbu.drop c.claimant, shed := r.shed ++ [c.claimant] }

/-- R59: the shared pool shed down to S. -/
def shedShared (cap : Capacity) (r : ShedResult) : ShedResult := (r.lbu.shedOrder .shared).foldl (shedOne cap) r

/-- R63 step 1: a claim of an overdrawn reserve moves to the shared pool if it fits there, and is shed otherwise. -/
def unreserveOne (cap : Capacity) (src : Source) (r : ShedResult) (c : Claim) : ShedResult :=
  if r.lbu.used src ≤ cap.of src then r
  else if r.lbu.fits cap .shared c.cost then { r with lbu := r.lbu.move c.claimant .shared }
  else { r with lbu := r.lbu.drop c.claimant, shed := r.shed ++ [c.claimant] }

def unreserve (cap : Capacity) (src : Source) (r : ShedResult) : ShedResult :=
  (r.lbu.shedOrder src).foldl (unreserveOne cap src) r

/-- R51: a claim placed by a claimant that has none; it waits at the end of its level and counts as an insert (R64). -/
def Lbu.place (l : Lbu) (who : Claimant) (level cost : Nat) : Lbu :=
  if l.has who then l
  else
    { l with
      claims := l.claims ++ [⟨who, level, cost, none, l.nextPlaced, none⟩]
      nextPlaced := l.nextPlaced + 1
      stats := { l.stats with inserts := satAdd statLimit l.stats.inserts 1 } }

/-- R48: the mode a POWER node's state and last report give. -/
def powerMode (entry : Option NodeEntry) (report : Option PowerReport) : BudgetMode :=
  match entry with
  | none => .battery
  | some e =>
    match e.state with
    | .unknown => .battery
    | .lost => .battery
    | _ =>
      match report with
      | none => .battery
      | some r =>
        match r.source, r.low with
        | .mains, _ => .mains
        | .battery, false => .battery
        | .battery, true => .low

end Sys2Proof.Machine
end

