-- ==== Sys2Proof/Machine/Claimants.lean ====
section
/-! DEFINITION. What LBU's grants and sheds do to a door (R71, R73) and to a program (R115 to R118), the grant pass
with its hand-outs (R55), and the placing and returning of claims (R51, R61). -/

namespace Sys2Proof.Machine

/-! ## Doors -/

/-- A door's state changed, with the held-open supervision of R83: on entry to LOCKED or DISABLED an open position
starts held_since; on leaving both, held_since and held are cleared. The change owes a DOOR notice (R84), and R69
compares the wanted value at the end of the event. -/
def Work.setDoorState (w : Work) (d : Nat) (st : DoorState) : Work :=
  let r := w.door d
  if r.state = st then w
  else
    let r' : Door :=
      if st.watched then
        { r with
          state := st
          heldSince := if r.position = some .opened ∧ r.heldSince = none then some w.uptime else r.heldSince }
      else { r with state := st, heldSince := none, held := false }
    let w := (w.setDoor d r').markDoor d
    (w.addMoved d).reportChange .doorHeld d r.held r'.held

/-- R71: a grant finds the door in RELEASE_PENDING and makes it RELEASING. -/
def Work.doorGranted (w : Work) (d : Nat) : Work :=
  if (w.door d).state = .releasePending then w.setDoorState d .releasing else w

/-- R73: a shed door enters RELOCKING with re_request set. -/
def Work.doorShed (w : Work) (d : Nat) : Work :=
  let w := w.setDoorState d .relocking
  w.setDoor d { w.door d with reRequest := true }

/-! ## Programs -/

/-- A command joins the end of PLP's command list (R123). -/
def Work.issue (w : Work) (c : PlayerCommand) : Work := 
  w.setPlp { w.plp with commands := w.plp.commands ++ [c] }

/-- LBU's account loses a claimant's claim, and a grant pass is due (R61). -/
def Work.dropClaim (w : Work) (who : Claimant) : Work :=
  if w.lbu.has who then (w.setLbu (w.lbu.drop who)).owePass true else w

/-- R108: a program whose given set empties has an empty floor set. -/
def Program.emptied (p : Program) : Program := { p with givenSet := 0, floorSet := 0 }

/-- A PLAYING program has STOP issued on its channel and enters STOPPING (R110, R114, R116, R118): its channel is
STOPPING, awaits STOP, and stands reserved for `reserved`. TENANT and TEST have their given set emptied (R108). The
claim is the caller's to return. -/
def Work.stopProgram (w : Work) (k : ProgramKind) (why : StopReason) (reserved : Option ProgramKind) : Work :=
  let p := w.program k
  let p' : Program := { p with state := .stopping, stopReason := some why, pauseUntil := none, phraseStarted := none }
  let w := w.setProgram k (if endsWhenStopped k then p'.emptied else p')
  let w := w.oweJoins true
  match p.channel with
  | some c =>
    (w.issue (.stop c)).setChannel c
      { w.channel c with
        state := .stopping, holder := some k, reservedFor := reserved, awaiting := .stop, issuedAt := some w.uptime }
  | none => w

/-- R118: a program completes: STOP issued, claim returned, stop_reason COMPLETED; ALL_CLEAR, TENANT and TEST have
their given sets emptied. -/
def Work.completeProgram (w : Work) (k : ProgramKind) : Work :=
  let w := w.stopProgram k .completed none
  let w := w.setProgram k (w.program k).emptied
  w.dropClaim (.program k)

/-- R117: a phrase of a slot is played on the program's channel. -/
def Work.playPhrase (w : Work) (k : ProgramKind) (n : Nat) : Work :=
  let p := w.program k
  let w := w.setProgram k { p with phraseStarted := some w.uptime, played := true }
  match p.channel with
  | some c =>
    (w.issue (.play c n)).setChannel c { w.channel c with awaiting := .phrase, issuedAt := some w.uptime }
  | none => w

/-- R111: the template a program reads: TENANT's and TEST's own, and the map-assigned number of the others. -/
def State.templateOf (s : State) (k : ProgramKind) : Nat :=
  if endsWhenStopped k then (s.program k).template.getD 0 else assignedTemplate s.map k

/-- R118: what a repetition's end leaves of repeats_left: kept for the endless kinds, one fewer for the others. -/
def Program.repeated (p : Program) (k : ProgramKind) : Program :=
  if endless k then p else { p with repeatsLeft := p.repeatsLeft - 1 }

/-- R109: `slot` is the template step being played. -/
def Work.enterSlot (w : Work) (k : ProgramKind) (i : Nat) : Work := w.setProgram k { w.program k with slot := i }

/-- R117, R118: slot `i` of a PLAYING program begins. A slot of ORIGIN_FLOOR without an origin completes at once. Where
the template has no slot `i` the repetition ends with `slot` at the step it played last (assumption 34): the next one
begins, after one silent second when the repetition played nothing, or the program completes. The bound exceeds the
slots that one event can begin: two repetitions of at most 12 slots. -/
def Work.beginSlot : Nat → Work → ProgramKind → Nat → Work
  | 0, w, _, _ => w
  | n + 1, w, k, i =>
    match templateSlot w.map (w.templateOf k) i with
    | some (.phrase x) => (w.enterSlot k i).playPhrase k x
    | some (.tone x) => (w.enterSlot k i).playPhrase k x
    | some .originFloor =>
      match w.rgc.latestOrigin with
      | some o => (w.enterSlot k i).playPhrase k (labelPhrase w.map o)
      | none => Work.beginSlot n (w.enterSlot k i) k (i + 1)
    | some (.pause t) =>
      w.setProgram k { w.program k with slot := i, pauseUntil := some (w.uptime + t), played := true }
    | none =>
      let p := w.program k
      let q := p.repeated k
      if endless k = false ∧ q.repeatsLeft = 0 then (w.setProgram k q).completeProgram k
      else if p.played then Work.beginSlot n (w.setProgram k { q with played := false }) k 0
      else w.setProgram k { q with slot := 0, pauseUntil := some (w.uptime + 1) }

/-- The bound of `Work.beginSlot`. -/
def slotBound : Nat := 32

/-- R117: a slot completes and the next begins in the same event. -/
def Work.slotComplete (w : Work) (k : ProgramKind) : Work :=
  let p := w.program k
  (w.setProgram k { p with phraseStarted := none, pauseUntil := none }).beginSlot slotBound k (p.slot + 1)

/-- R115: the grant of a program's claim. A program in WAITING_BUDGET enters PLAYING: LIVE is routed, any other begins
its template at slot 0. A program in another state returns the claim. -/
def Work.programGranted (w : Work) (k : ProgramKind) : Work :=
  let p := w.program k
  if p.state = .waitingBudget then
    let w := w.setProgram k { p with state := .playing, slot := 0, played := false }
    let w := w.oweJoins true
    if k = .live then
      match p.channel with
      | some c => (w.issue (.routeLive c)).setChannel c { w.channel c with awaiting := .nothing }
      | none => w
    else w.beginSlot slotBound k 0
  else w.dropClaim (.program k)

/-- R116: a shed program has STOP issued and enters STOPPING with stop_reason SHED and no reservation. -/
def Work.programShed (w : Work) (k : ProgramKind) : Work :=
  if (w.program k).state = .playing then w.stopProgram k .shed none else w

/-! ## LBU's events -/

def Work.handGrant (w : Work) : Claimant → Work
  | .door d => w.doorGranted d
  | .program k => w.programGranted k

def Work.handShed (w : Work) : Claimant → Work
  | .door d => w.doorShed d
  | .program k => w.programShed k

/-- R55: a grant pass; each grant is handed to its claimant in the order made, and a claim that a claimant returns on
its grant is followed by a pass of its own, whose grants are handed before the rest of this one's (assumption 45). Each
such pass follows the loss of a program's claim, so six of them exceed what one event can need. -/
def Work.grantPass : Nat → Work → Work
  | 0, w => w.owePass false
  | n + 1, w =>
    let r := w.lbu.pass (capacityOf w.map w.lbu.mode)
    let w := (w.setLbu r.1).owePass false
    r.2.foldl (fun w who =>
      let w := w.handGrant who
      if w.passDue then Work.grantPass n w else w) w

/-- The bound of `Work.grantPass`. -/
def passBound : Nat := 8

def Work.runPass (w : Work) : Work := w.grantPass passBound

/-- The grant pass that a return owes (R61). -/
def Work.runDuePass (w : Work) : Work := if w.passDue then w.runPass else w

/-- R61: a claimant returns its claim; a claimant without one changes nothing. -/
def Work.returnClaim (w : Work) (who : Claimant) : Work := (w.dropClaim who).runDuePass

/-- R115: a program places its claim in the event in which it enters WAITING_BUDGET. -/
def Work.placeProgram (w : Work) (k : ProgramKind) : Work :=
  (w.setLbu (w.lbu.place (.program k) (programLevel k) (channelCost w.map))).runPass

/-- R52: the level of a door's claim is set in one LBU event. -/
def Work.setLevel (w : Work) (d level : Nat) : Work :=
  match w.lbu.claimOf (.door d) with
  | some c =>
    if c.level = level then w
    else (w.setLbu (w.lbu.change (.door d) fun c => { c with level := level })).runPass
  | none => w

/-- R51, R68: the claims of the doors queued in an event are placed together, in ascending door index, and one pass
follows. -/
def Work.placeDoors (w : Work) : Work :=
  if w.toPlace.isEmpty then w
  else
    let doors := doorIndices.filter fun d => w.toPlace.contains d
    let lbu := doors.foldl (fun l d => l.place (.door d) ((w.doorDemand d).getD 6) (doorCost w.map)) w.lbu
    (w.setLbu lbu).noneToPlace.runPass

end Sys2Proof.Machine
end

