-- ==== Sys2Proof/Machine/Notices.lean ====
section
/-! DEFINITION. The bodies of the notices and of the record fields they share with the read responses: each rule's
fields in its order, in the field kinds of R184. The LOST byte is written when the notice is sent (R168). -/

namespace Sys2Proof.Machine

/-- R16: a ZONE notice. -/
def zoneBody (s : State) (z : Nat) (cause : ZoneCause) : List Byte :=
  let r := s.zone z
  e8 z ++ e8 r.condition.code ++ eFlag r.stale ++ e8 r.eval.code ++ e8 r.count ++ e8 r.nuisance ++ e8 cause.code

/-- R29: a FLOOR notice. -/
def floorBody (s : State) (f : Nat) : List Byte :=
  let r := s.floor f
  e8 f ++ e8 r.fireState.code ++ eFlag r.lobbyAlarm ++ eOpt16 r.firstAlarmAt ++ e8 r.alarmZones ++ e8 r.phase.code ++
    eOpt8 (r.cause.map Cause.code) ++ e16 r.evacuateAt ++ e8 r.schedRank ++ eOpt16 r.evacuatingSince

/-- R29: a REGIME notice. -/
def regimeBody (s : State) : List Byte :=
  let r := s.rgc
  e8 r.state.code ++ e16 r.clock ++ eFlag r.hold ++ eOpt16 (r.muteUntil.map fun t => t - r.clock) ++
    eOpt8 r.latestOrigin ++ e8 r.origins ++ e8 s.hlc.mode.code

/-- R84: a DOOR notice. Every DOOR notice is posted while the cycle number of its causing request still stands, so the
observation cycle is the cycle number standing in both cases of the rule. -/
def doorBody (s : State) (d : Nat) : List Byte :=
  let r := s.door d
  e8 d ++ e8 r.state.code ++ eFlag r.manual ++ eFlag r.reRequest ++ e8 r.desired.code ++ eFlag r.confirmed ++
    eOpt8 (r.pendingDesired.map StrikeOrder.code) ++ eOpt8 (r.strike.map Strike.code) ++
    eOpt8 (r.position.map DoorPosition.code) ++ eFlag r.stale ++ e8 r.mismatch ++ eFlag r.faulted ++ eFlag r.held ++
    e16 s.rbm.cycle

/-- R106: a CAR notice; `alarmStop` is its event flag. -/
def carBody (s : State) (c : Nat) (alarmStop : Bool) : List Byte :=
  let r := s.car c
  e8 c ++ e8 (carBank s.map c) ++ e8 r.state.code ++ eOpt8 (r.priorState.map CarState.code) ++ eOpt8 r.target ++
    eCommand r.command ++ eFlag r.confirmed ++ eOptCommand r.pendingCommand ++ eFlag r.shutdownDue ++ eFlag r.late ++
    eOpt32 (r.recallStarted.map fun t => s.uptime - t) ++ eOpt8 r.position ++ eOpt8 (r.motion.map Motion.code) ++
    eOpt8 (r.door.map CarDoor.code) ++ eOpt8 (r.mode.map CarMode.code) ++ eOpt8 (r.key.map keyCode) ++
    eOpt8 (r.applied.map Applied.code) ++ eFlag r.stale ++ eFlag alarmStop ++ e16 s.rbm.cycle

/-- The channel that stands reserved for a program (R130). -/
def State.reservedChannel (s : State) (k : ProgramKind) : Option Nat :=
  channelIndices.find? fun c => (s.channel c).reservedFor = some k

/-- R130: a PROGRAM notice. repeats_left of a kind that keeps none is 0 (assumption 12). -/
def programBody (s : State) (k : ProgramKind) : List Byte :=
  let p := s.program k
  e8 k.priority ++ e8 p.state.code ++ eOpt8 (p.stopReason.map StopReason.code) ++ eOpt8 p.channel ++
    eOpt8 (s.reservedChannel k) ++ e8 p.slot ++ e8 p.repeatsLeft ++ eOpt8 p.template ++ eSet p.floorSet

/-- R49, R63: the cause of a BUDGET notice. -/
inductive BudgetCause where
  | mode | map
deriving DecidableEq, Repr

/-- Assumption 12: in the order in which the rules name the causes. -/
def BudgetCause.code : BudgetCause → Nat
  | .mode => 0 | .map => 1

/-- R49: a BUDGET notice. The wait-list length is one byte (assumption 12). -/
def budgetBody (s : State) (cause : BudgetCause) (old : BudgetMode) (shed resourced : Nat) : List Byte :=
  let mode := s.lbu.mode
  e8 cause.code ++ e8 old.code ++ e8 mode.code ++ e8 (budget s.map mode) ++ e8 (sharedPool s.map mode) ++
    e8 (s.lbu.used .shared) ++ e8 (s.lbu.used .doorReserve) ++ e8 (s.lbu.used .audioReserve) ++ e8 shed ++
    e8 resourced ++ e8 s.lbu.waitList.length

/-- R171: the cause of a LINK notice. -/
inductive LinkCause where
  | silence | request
deriving DecidableEq, Repr

/-- Assumption 12: in the order in which the rules name the causes. -/
def LinkCause.code : LinkCause → Nat
  | .silence => 0 | .request => 1

/-- R171, R172: a LINK notice. -/
def linkBody (s : State) (cause : LinkCause) : List Byte :=
  e8 s.hlc.mode.code ++ e8 cause.code ++ e32 (s.uptime - s.hlc.lastValidAt) ++ e16 (shortSilence s.map) ++
    e16 (longSilence s.map)

/-- The autonomy action's code: ESCALATE 0, HOLD_PHASES 1 (11.4). -/
def autonomyCode (m : Memory) : Nat := if escalates m then 0 else 1

/-- R169: the START notice. -/
def startBody (s : State) : List Byte :=
  e8 s.hlc.resetCause.code ++ e8 s.hlc.speed.code ++ e16 partCode ++
    ((List.range 11).map fun b => e8 (s.block b).load.code).flatten ++ e16 (shortSilence s.map) ++
    e16 (longSilence s.map) ++ e8 (autonomyCode s.map)

/-- R180, R181: a MAP_STORED notice. -/
def mapStoredBody (result : LastStore) (block : Nat) : List Byte := e8 result.code ++ e8 block

/-! ## The notices an event owes -/

def Work.postDoors (w : Work) : Work :=
  (doorIndices.filter fun d => w.doorMarks.contains d).foldl (fun w d => w.post .door (doorBody w.toState d)) w

def Work.postPrograms (w : Work) : Work :=
  (ProgramKind.all.filter fun k => w.programMarks.contains k).foldl
    (fun w k => w.post .program (programBody w.toState k)) w

def Work.postCars (w : Work) : Work :=
  (carIndices.filter fun c => w.carMarks.contains c || w.alarmStops.contains c).foldl
    (fun w c => w.post .car (carBody w.toState c (w.alarmStops.contains c))) w

end Sys2Proof.Machine
end

