-- ==== Sys2Proof/Machine/Doors.lean ====
section
/-! DEFINITION. DRU's mechanisms (Chapter 4): deferral of the wanted strike (R69), the confirmation step (R70), phase
changes (R72, R75), loss and return of a floor node (R80, R81), supervision (R82, R83); the joins' deferral (R121),
which shares the floor's payload; and the end of an event. -/

namespace Sys2Proof.Machine

/-- R68: a door is queued: it enters RELEASE_PENDING and its claim is placed with those of the event. -/
def Work.queueDoor (w : Work) (d : Nat) : Work :=
  (w.setDoorState d .releasePending).addToPlace d

/-- R68: a LOCKED present door whose demand stands and whose floor node is not LOST is queued. -/
def Work.tryQueue (w : Work) (d : Nat) : Work :=
  if (w.door d).state = .locked && (w.doorDemand d).isSome && !(w.nodeLost (.floor (d / 2))) && doorPresent w.map d then
    w.queueDoor d
  else w

/-- R70: the confirmation step of a door. -/
def Work.confirmStep (w : Work) (d : Nat) : Work :=
  let r := w.door d
  if r.state = .releasing ∧ r.desired = .release then w.setDoorState d .released
  else if r.state = .relocking ∧ r.desired = .lock then
    let w' := w.setDoor d { r with reRequest := false }
    if r.reRequest && (w.doorDemand d).isSome then w'.queueDoor d else w'.setDoorState d .locked
  else w

/-- R69: the wanted value of a door is compared with desired, and sent, held or withdrawn. A sent value clears
confirmed, which sets mismatch to 0 (R82). -/
def Work.compareStrike (w : Work) (d : Nat) : Work :=
  let r := w.door d
  let want := r.state.wanted
  if want = r.desired then w.setDoor d { r with pendingDesired := none }
  else if w.floorHolds (d / 2) then w.setDoor d { r with pendingDesired := some want }
  else
    (w.setDoor d { r with desired := want, confirmed := false, mismatch := 0, pendingDesired := none }).giveFloor (d / 2)

/-- R69, R70: a door that the event moved: the comparison, and the confirmation step at once where the strike it wants
is already confirmed and nothing is held. -/
def Work.settleDoor (w : Work) (d : Nat) : Work :=
  let w := w.compareStrike d
  let r := w.door d
  if (r.state = .relocking ∨ r.state = .releasing) ∧ r.desired = r.state.wanted ∧ r.confirmed = true ∧
      r.pendingDesired = none then
    w.confirmStep d
  else w

/-- The doors the event moved are settled and the doors it queued are placed, until none is left. A placement can grant
doors, whose RELEASE is then settled in turn; no third round can queue a door. -/
def Work.settleDoors : Nat → Work → Work
  | 0, w => w
  | n + 1, w =>
    if w.moved.isEmpty && w.toPlace.isEmpty then w
    else
      Work.settleDoors n (w.moved.foldl Work.settleDoor w.noneMoved).placeDoors

/-- The bound of `Work.settleDoors`. -/
def settleBound : Nat := 6

/-- R121: a floor's desired selector is compared with the one sent, and sent, held or withdrawn. A floor without a node
entry has no change in flight: its selector is taken into `sent` unconfirmed and goes to no node. -/
def Work.compareJoin (w : Work) (f : Nat) : Work :=
  let j := { w.join f with desired := w.selectorFor f }
  if j.desired = j.sent then w.setJoin f { j with pending := none }
  else if w.floorHolds f then w.setJoin f { j with pending := some j.desired }
  else (w.setJoin f { j with sent := j.desired, confirmed := false, pending := none }).giveFloor f

/-- R121: the joins are recomputed at the end of an ANS event that changed a PLAYING program. -/
def Work.settleJoins (w : Work) : Work :=
  if w.joinsDue then floorIndices.foldl Work.compareJoin w.noJoins else w

/-- The payload changes of an event are settled: those of doors and joins of one floor go together (R140). -/
def Work.settle (w : Work) : Work := (w.settleDoors settleBound).settleJoins

/-- The end of an event: payloads settled, then the DOOR, PROGRAM and CAR notices it owes, in this order. R188 gives the
order for an RGC event's hand-off and R137 and R144 have DRU before ANS at a floor node's event; in every other event
the order is the model's (assumption 57). -/
def Work.endEvent (w : Work) : Work := w.settle.postDoors.postPrograms.postCars.settled

/-! ## Demand -/

/-- R72: the end of demand, by the door's state. -/
def Work.endOfDemand (w : Work) (d : Nat) : Work :=
  match (w.door d).state with
  | .releasePending => (w.setDoorState d .relocking).returnClaim (.door d)
  | .releasing => (w.setDoorState d .relocking).returnClaim (.door d)
  | .released => (w.setDoorState d .relocking).returnClaim (.door d)
  | .relocking => w.setDoor d { w.door d with reRequest := false }
  | .locked => w
  | .disabled => w

/-- R75: a present door takes its floor's new phase. -/
def Work.doorPhase (w : Work) (d : Nat) : Work :=
  if doorPresent w.map d then
    match (w.floor (d / 2)).phase with
    | .none => w.endOfDemand d
    | _ =>
      let w := w.setDoor d { w.door d with manual := false }
      match (w.door d).state with
      | .locked => w.tryQueue d
      | .relocking => w.setDoor d { w.door d with reRequest := true }
      | _ => w
  else w

/-- R75: LBU is told the level of the new phase where it differs from the claim's level. -/
def Work.doorLevel (w : Work) (d : Nat) : Work :=
  match w.doorDemand d with
  | some level => if doorPresent w.map d then w.setLevel d level else w
  | none => w

/-- The doors of a list of floors, ascending. -/
def doorsOf (floors : List Nat) : List Nat := floors.flatMap fun f => [2 * f, 2 * f + 1]

/-- R75, R188: DRU's part of a hand-off: the doors of the floors whose phase changed, then the placements of the event
as one, then the level changes, each as its own LBU event. -/
def Work.druPhases (w : Work) (floors : List Nat) : Work :=
  let w := ((doorsOf floors).foldl Work.doorPhase w).placeDoors
  (doorsOf floors).foldl Work.doorLevel w

/-! ## The floor node -/

/-- R80: the loss of the floor node, for one door. -/
def Work.doorLost (w : Work) (d : Nat) : Work :=
  let r := { w.door d with confirmed := false, mismatch := 0 }
  w.setDoor d { r with stale := r.stale || doorPresent w.map d }

/-- R81: a held value becomes the desired one. -/
def Work.doorAdvance (w : Work) (d : Nat) : Work :=
  let r := w.door d
  match r.pendingDesired with
  | some v => w.setDoor d { r with desired := v, pendingDesired := none, confirmed := false, mismatch := 0 }
  | none => w

/-- R81: the return of the floor node (or its first heard, R138), for one door; the reply's values are recorded by its
delivery in the same event. -/
def Work.doorReturned (w : Work) (d : Nat) : Work :=
  let w := w.doorAdvance d
  (w.setDoor d { w.door d with stale := false }).tryQueue d

/-- R67: the floor's node has a new address: as a return, with confirmed cleared. -/
def Work.doorReaddressed (w : Work) (d : Nat) : Work :=
  let w := w.doorReturned d
  w.setDoor d { w.door d with confirmed := false, mismatch := 0 }

/-- R143: a slip clears confirmed and mismatch. -/
def Work.doorSlip (w : Work) (d : Nat) : Work := w.setDoor d { w.door d with confirmed := false, mismatch := 0 }

/-- R70: a confirmation, for one door: a held value is sent; otherwise confirmed is set. A door that is not present
keeps confirmed clear (R67, assumption 18). -/
def Work.doorConfirmed (w : Work) (d : Nat) : Work :=
  let r := w.door d
  match r.pendingDesired with
  | some _ => (w.doorAdvance d).giveFloor (d / 2)
  | none =>
    if r.confirmed || !(doorPresent w.map d) then w
    else w.setDoor d { r with confirmed := true, mismatch := 0 }

/-- R70: the confirmation of a floor's payload: both doors, then the confirmation step of each door whose confirmed was
clear and is now set. -/
def Work.floorConfirmed (w : Work) (f : Nat) : Work :=
  let doors := doorsOf [f]
  let fresh := doors.filter fun d => !(w.door d).confirmed
  let w := doors.foldl Work.doorConfirmed w
  (fresh.filter fun d => (w.door d).confirmed).foldl Work.confirmStep w

/-- R82: whether a reported strike is the one desired. -/
def strikeMatches (s : Strike) (o : StrikeOrder) : Bool :=
  match s, o with
  | .unlocked, .release => true
  | .locked, .lock => true
  | .unlocked, .lock => false
  | .locked, .release => false

/-- R82: strike supervision of one reply. -/
def Work.superviseStrike (w : Work) (d : Nat) (s : Strike) : Work :=
  let r := w.door d
  if r.state ≠ .disabled ∧ r.confirmed = true then
    let r' : Door :=
      if strikeMatches s r.desired then { r with mismatch := 0, faulted := false }
      else { r with mismatch := satAdd 3 r.mismatch 1, faulted := r.faulted || decide (2 ≤ r.mismatch) }
    let w := w.setDoor d r'
    let w := if r.faulted = r'.faulted then w else w.markDoor d
    w.reportChange .strikeMismatch d r.faulted r'.faulted
  else w

/-- R83: held-open supervision of one reply. -/
def Work.superviseHeld (w : Work) (d : Nat) : Work :=
  let r := w.door d
  if r.position = some .closed then
    let w := w.setDoor d { r with heldSince := none, held := false }
    let w := if r.held then w.markDoor d else w
    w.reportChange .doorHeld d r.held false
  else if r.position = some .opened ∧ r.heldSince = none ∧ r.state.watched = true then
    w.setDoor d { r with heldSince := some w.uptime }
  else w

/-- R144: a good reply's strike and position reach a present door; those of a door that is not present are discarded.
Strike supervision is judged, and its condition handed, before the held-open supervision (assumption 50). -/
def Work.doorReport (w : Work) (d : Nat) (s : Strike) (p : DoorPosition) : Work :=
  if doorPresent w.map d then
    let w := w.setDoor d { w.door d with strike := some s, position := some p, stale := false }
    (w.superviseStrike d s).superviseHeld d
  else w

end Sys2Proof.Machine
end

