-- ==== Sys2Proof/Machine/Programs.lean ====
section
/-! DEFINITION. ANS's mechanisms (Chapter 6): floor sets (R110), the arbiter and preemption (R113, R114), the stop
completion (R119), the judgement of a STATUS reply (R124), channel faults and their return (R125, R126), and the joins
at a floor node's events (R121, R122). -/

namespace Sys2Proof.Machine

/-- R112: a FREE channel's record, keeping the player's view. -/
def Channel.freed (c : Channel) : Channel :=
  { c with state := .free, holder := none, reservedFor := none, awaiting := .nothing, issuedAt := none }

/-- R114: the reservations held for a program are released; the programs standing on those channels are owed a notice
with it (R130). -/
def Work.releaseReservation (w : Work) (k : ProgramKind) : Work :=
  match w.reservedChannel k with
  | some c =>
    let r := w.channel c
    let w := (w.setChannel c { r with reservedFor := none }).markProgram k
    match r.holder with
    | some h => w.markProgram h
    | none => w
  | none => w

/-- R110: the count a kind's repeats_left starts from: TENANT's as given, one for ALL_CLEAR and TEST. -/
def startRepeats (k : ProgramKind) (p : Program) : Nat :=
  match k with
  | .tenant => p.repeatsLeft
  | .allClear => 1
  | .test => 1
  | .live => 0
  | .evacuate => 0
  | .alert => 0

/-- R110: an IDLE program whose floor set became non-empty enters WAITING_CHANNEL. `played` is cleared here and at a
grant (R115), and kept through a stop, a preemption and a fault (assumption 53). -/
def Work.startProgram (w : Work) (k : ProgramKind) : Work :=
  let p := w.program k
  w.setProgram k
    { p with state := .waitingChannel, slot := 0, repeatsLeft := startRepeats k p, played := false, stopReason := none }

/-- The record of a program that ends in IDLE for a reason. -/
def Program.ended (p : Program) (k : ProgramKind) (why : StopReason) : Program :=
  let q : Program := { p with state := .idle, channel := none, stopReason := some why }
  if endsWhenStopped k then q.emptied else q

/-- R110: a program whose floor set became empty, by its state. -/
def Work.emptyProgram (w : Work) (k : ProgramKind) (why : StopReason) : Work :=
  let p := w.program k
  match p.state with
  | .idle => w
  | .waitingChannel => (w.setProgram k (p.ended k why)).releaseReservation k
  | .waitingBudget =>
    let w := w.setProgram k (p.ended k why)
    let w := match p.channel with
      | some c => w.setChannel c (w.channel c).freed
      | none => w
    w.returnClaim (.program k)
  | .playing => (w.stopProgram k why none).returnClaim (.program k)
  | .stopping => w

/-- R110: one program's floor set is recomputed and the program acts on its change. -/
def Work.recomputeProgram (reason : ProgramKind → StopReason) (w : Work) (k : ProgramKind) : Work :=
  let p := w.program k
  let new := w.floorSetOf k
  if new = p.floorSet then w
  else
    let w := w.setProgram k { p with floorSet := new }
    let w := w.oweJoins (p.state = .playing)
    if new = 0 then w.emptyProgram k (reason k)
    else if p.state = .idle then w.startProgram k
    else w

/-! ## The arbiter -/

/-- R113 step 1, R114, R119: a program takes a channel, enters WAITING_BUDGET and places its claim (R115). -/
def Work.takeChannel (w : Work) (k : ProgramKind) (c : Nat) : Work :=
  let w := w.setChannel c { (w.channel c).freed with state := .held, holder := some k }
  let w := w.setProgram k { w.program k with state := .waitingBudget, channel := some c }
  w.placeProgram k

/-- R113 step 2: the HELD channel whose holder has the lowest priority among those below a program's. -/
def State.preemptible (s : State) (k : ProgramKind) : Option (Nat × ProgramKind) :=
  (ProgramKind.all.reverse.filter fun h => decide (k.priority < h.priority)).findSome? fun h =>
    (channelIndices.find? fun c => (s.channel c).state = .held && (s.channel c).holder = some h).map fun c => (c, h)

/-- R114: a holder in WAITING_BUDGET loses the channel at once: back to WAITING_CHANNEL, or IDLE for TENANT and TEST. -/
def Program.displaced (p : Program) (h : ProgramKind) : Program :=
  if endsWhenStopped h then p.ended h .preempted
  else { p with state := .waitingChannel, channel := none, slot := 0, stopReason := some .preempted }

/-- R114: the preemption of a channel from its holder. -/
def Work.preempt (w : Work) (k : ProgramKind) (c : Nat) (h : ProgramKind) : Work :=
  if (w.program h).state = .playing then
    let w := (w.stopProgram h .preempted (some k)).markProgram k
    w.returnClaim (.program h)
  else
    let w := w.setProgram h ((w.program h).displaced h)
    (w.returnClaim (.program h)).takeChannel k c

/-- R113: one program's turn. -/
def Work.arbiterTurn (w : Work) (k : ProgramKind) : Work :=
  if (w.program k).state = .waitingChannel && (w.reservedChannel k).isNone then
    match channelIndices.find? fun c => (w.channel c).state = .free with
    | some c => w.takeChannel k c
    | none =>
      match w.preemptible k with
      | some (c, h) => w.preempt k c h
      | none => w
  else w

/-- R113: the arbiter runs, in priority order. -/
def Work.arbiter (w : Work) : Work := ProgramKind.all.foldl Work.arbiterTurn w

/-- R110: every program's floor set is recomputed in priority order, and the arbiter then runs once. -/
def Work.recompute (w : Work) (reason : ProgramKind → StopReason) : Work :=
  (ProgramKind.all.foldl (Work.recomputeProgram reason) w).arbiter

/-- The reason of an emptying that no request and no link-mode change caused (R110). -/
def becauseEmptied (_ : ProgramKind) : StopReason := .emptied

/-- The reason of an emptying caused by a request or a link-mode change that concerns one kind (R110). -/
def becauseFor (k : ProgramKind) (why : StopReason) (j : ProgramKind) : StopReason := if j = k then why else .emptied

def Work.setGiven (w : Work) (k : ProgramKind) (given : FloorSet) : Work :=
  w.setProgram k { w.program k with givenSet := given }

/-- R108, R110, R188: ANS's part of a hand-off. `leftNone`: some floor's phase has left NONE, which empties the given
sets of ALL_CLEAR and TEST. `returned`: the return to QUIET, which gives ALL_CLEAR all present floors. -/
def Work.ansPhases (w : Work) (leftNone returned : Bool) : Work :=
  let w := if leftNone then (w.setGiven .allClear 0).setGiven .test 0 else w
  let w := if returned then w.setGiven .allClear (presentSet w.map) else w
  w.recompute becauseEmptied

/-! ## Stops and faults -/

/-- R119, R125: a STOPPING program whose stop has ended: WAITING_CHANNEL with slot 0 while its floor set is non-empty,
IDLE otherwise. -/
def Program.stopEnded (p : Program) : Program :=
  if p.floorSet = 0 then { p with state := .idle, channel := none }
  else { p with state := .waitingChannel, channel := none, slot := 0 }

def Work.endStop (w : Work) (h : ProgramKind) : Work := w.setProgram h (w.program h).stopEnded

/-- R119: the stop of a channel's holder has ended. -/
def Work.endHolder (w : Work) : Option ProgramKind → Work
  | some h => w.endStop h
  | none => w

/-- R119: the stop completion of a channel. -/
def Work.stopCompletion (w : Work) (c : Nat) : Work :=
  let r := w.channel c
  let w := (w.endHolder r.holder).setChannel c r.freed
  match r.reservedFor with
  | some k => w.takeChannel k c
  | none => w

/-- R125: the record of a program that loses its channel by a fault. -/
def Program.faulted (p : Program) : Program :=
  { p with
    state := .waitingChannel, channel := none, slot := 0, pauseUntil := none, phraseStarted := none,
    stopReason := some .fault }

/-- R125: a channel's record once FAULTED; a fault flag or a timeout sets its fault condition. -/
def Channel.becomeFaulted (c : Channel) (condition : Bool) : Channel :=
  { c with
    state := .faulted, holder := none, reservedFor := none, awaiting := .nothing, issuedAt := none,
    faultCondition := c.faultCondition || condition }

/-- R125: a channel becomes FAULTED, by its previous state. `condition` is false at a bad STATUS reply, which sets no
fault condition and issues no STOP. -/
def Work.faultChannel (w : Work) (c : Nat) (condition : Bool) : Work :=
  let r := w.channel c
  if r.state = .faulted then w
  else
    let r' := r.becomeFaulted condition
    let w := (w.setChannel c r').reportChange .channelFault c r.faultCondition r'.faultCondition
    match r.state, r.holder with
    | .held, some h =>
      let playing := (w.program h).state = .playing
      let w := if playing ∧ condition = true then w.issue (.stop c) else w
      let w := w.oweJoins playing
      (w.setProgram h (w.program h).faulted).returnClaim (.program h)
    | .stopping, some h =>
      let w := w.endStop h
      match r.reservedFor with
      | some k => (w.markProgram k).markProgram h
      | none => w
    | _, _ => w

/-- R126: a FAULTED channel's fault condition is cleared by a good reply that shows it neither in fault nor busy. No
reply sets it while the channel is FAULTED (assumption 24). -/
def Work.updateFault (w : Work) (c : Nat) : Work :=
  let r := w.channel c
  if r.fault = false ∧ r.busy = false then
    (w.setChannel c { r with faultCondition := false }).reportChange .channelFault c r.faultCondition false
  else w

/-- R124: whether the reply's transaction began after the command awaited on a channel. PLP empties its list before a
STATUS transaction begins (R123), so a command that stands in the list was issued after it began (assumption 19). -/
def State.replyAfter (s : State) (c : Nat) : Bool := !(s.plp.commands.any fun k => k.channel = c)

/-- R124: whether a busy channel has been busy for max_phrase_time since its command. -/
def State.timedOut (s : State) (c : Nat) : Bool :=
  match (s.channel c).issuedAt with
  | some t => t + maxPhraseTime s.map ≤ s.uptime
  | none => false

/-- R124: one channel's judgement in a good reply. -/
def Work.judgeChannel (w : Work) (c : Nat) : Work :=
  let r := w.channel c
  match r.state with
  | .faulted => w.updateFault c
  | .free => if r.fault then w.faultChannel c true else w
  | .held =>
    if r.fault then w.faultChannel c true
    else if r.awaiting = .phrase then
      if r.busy then (if w.timedOut c then w.faultChannel c true else w)
      else if w.replyAfter c then
        let w := w.setChannel c { r with awaiting := .nothing, issuedAt := none }
        match r.holder with
        | some h => (w.slotComplete h).runDuePass
        | none => w
      else w
    else w
  | .stopping =>
    if r.fault then w.faultChannel c true
    else if r.busy then (if w.timedOut c then w.faultChannel c true else w)
    else if w.replyAfter c then w.stopCompletion c
    else w

/-- R124, R186: a reply is bad when its player-ready flag is clear or all four bytes are 0xFF. -/
def badStatus (r : StatusReply) : Bool :=
  !(r.ready.getLsbD 0) || (r.busy = 0xFF && r.fault = 0xFF && r.ready = 0xFF && r.spare = 0xFF)

/-- R124: the busy and fault flags of a good reply, recorded for each channel. -/
def recordFlags (r : StatusReply) (c : Nat) (ch : Channel) : Channel :=
  { ch with busy := r.busy.getLsbD c, fault := r.fault.getLsbD c }

def Work.setPlayerLost (w : Work) (lost : Bool) : Work :=
  (w.setAns { w.ans with playerLost := lost }).reportChange .playerLost 0 w.ans.playerLost lost

def Work.recordStatus (w : Work) (r : StatusReply) : Work :=
  w.setAns { w.ans with channels := vmapIdx (recordFlags r) w.ans.channels }

/-- R124: a STATUS reply, as one ANS event. A bad reply faults the channels in ascending order too, each with the grant
pass of the claim it returns before the next (assumption 52). -/
def Work.takeStatus (w : Work) (r : StatusReply) : Work :=
  let w :=
    if badStatus r then channelIndices.foldl (fun w c => w.faultChannel c false) (w.setPlayerLost true)
    else channelIndices.foldl Work.judgeChannel ((w.setPlayerLost false).recordStatus r)
  w.arbiter.endEvent

/-- R126: TROUBLE_CLEAR of the AUDIO group returns the FAULTED channels whose fault condition is clear, while the
player is not lost. -/
def Work.returnChannel (w : Work) (c : Nat) : Work :=
  let r := w.channel c
  if r.state = .faulted ∧ r.faultCondition = false ∧ w.ans.playerLost = false then w.setChannel c r.freed else w

def Work.returnChannels (w : Work) : Work := (channelIndices.foldl Work.returnChannel w).arbiter

/-! ## Joins at a floor node's events -/

/-- R121: at the loss of the node confirmed is cleared and the join is held; stale is set (R122). -/
def Work.joinLost (w : Work) (f : Nat) : Work := w.setJoin f { w.join f with confirmed := false, stale := true }

/-- R121: a held selector becomes the one sent. -/
def Join.advance (j : Join) : Join :=
  match j.pending with
  | some v => { j with sent := v, pending := none, confirmed := false }
  | none => j

/-- R121: the return of the node, or its first heard. -/
def Work.joinReturned (w : Work) (f : Nat) : Work := w.setJoin f { (w.join f).advance with stale := false }

/-- R121: the floor's node has a new address, or no longer one (assumption 56). -/
def Work.joinReaddressed (w : Work) (f : Nat) : Work :=
  w.setJoin f { (w.join f).advance with confirmed := false }

def Work.joinSlip (w : Work) (f : Nat) : Work := w.setJoin f { w.join f with confirmed := false }

/-- R121: the node's confirmation: a held selector is sent; otherwise confirmed is set. -/
def Work.joinConfirmed (w : Work) (f : Nat) : Work :=
  let j := w.join f
  if j.pending.isSome then (w.setJoin f j.advance).giveFloor f else w.setJoin f { j with confirmed := true }

/-- R122: the reported selector and speaker-line fault of a floor. -/
def Work.speakerReport (w : Work) (f : Nat) (selected : Option Selector) (fault : Bool) : Work :=
  let j := w.join f
  (w.setJoin f { j with selected := selected, lineFault := fault, stale := false }).reportChange .speakerLine f
    j.lineFault fault

/-- R146: a removed floor node: selected none and stale clear; SPEAKER_LINE inactive if the floor has no node left. -/
def Work.speakerRemoved (w : Work) (f : Nat) (hasNode : Bool) : Work :=
  let j := w.join f
  let fault := j.lineFault && hasNode
  (w.setJoin f { j with selected := none, stale := false, lineFault := fault }).reportChange .speakerLine f j.lineFault
    fault

end Sys2Proof.Machine
end

