-- ==== Sys2Proof/Machine/Cars.lean ====
section
/-! DEFINITION. CRU's mechanisms (Chapter 5): the wanted command (R90), the recall-floor choice (R91), re-targeting
(R92), recall and parking (R93, R94), held-out judgement (R96), shutdown (R98), firefighter service (R100, R101), loss
and return of the adapter (R103, R104), and a map change (R88). -/

namespace Sys2Proof.Machine

/-- R90: whether a car's adapter has a change in flight; an UNKNOWN or LOST node counts as having one. -/
def State.carHolds (s : State) (c : Nat) : Bool := s.nodeInFlight (.car c)

/-- R90: a car's wanted command is compared with its command, and sent, held or withdrawn. A car in RECALL_ISSUED whose
RECALL is already confirmed, with nothing held, becomes RECALLING at once. -/
def Work.settleCar (w : Work) (c : Nat) : Work :=
  let r := w.car c
  let want := r.wanted
  if want = r.command then
    if r.state = .recallIssued ∧ r.confirmed = true then w.setCar c { r with pendingCommand := none, state := .recalling }
    else w.setCar c { r with pendingCommand := none }
  else if w.carHolds c then w.setCar c { r with pendingCommand := some want }
  else (w.setCar c { r with command := want, confirmed := false, pendingCommand := none }).giveNode (.car c)

/-- R97: late is cleared and RECALL_LATE becomes inactive. -/
def Work.clearLate (w : Work) (c : Nat) : Work :=
  let r := w.car c
  (w.setCar c { r with late := false }).reportChange .recallLate c r.late false

def Work.setHeldOut (w : Work) (c : Nat) (active : Bool) : Work :=
  let r := w.car c
  (w.setCar c { r with heldOutActive := active }).reportChange .carHeldOut c r.heldOutActive active

/-- R96: a car enters HELD_OUT: target and recall_started absent, late cleared, the recall withdrawn; RECALL_LATE is
handed before CAR_HELD_OUT, in the order of the rule (assumption 50). -/
def Work.holdOut (w : Work) (c : Nat) : Work :=
  let w := w.clearLate c
  let w := w.setCar c { w.car c with state := .heldOut, priorState := none, target := none, recallStarted := none }
  (w.setHeldOut c true).settleCar c

/-- R93: a recall issued to a car: toward its bank's recall floor, or HELD_OUT when its mode is not AUTO (R96). -/
def Work.issueRecall (w : Work) (c : Nat) : Work :=
  if (w.car c).inAuto then
    let w := w.clearLate c
    let target := (w.bank (carBank w.map c)).recallFloor
    let w := w.setCar c
      { w.car c with
        state := .recallIssued, priorState := none, target := some target, recallStarted := some w.uptime }
    w.settleCar c
  else w.holdOut c

/-! ## The recall floor (R91) -/

/-- The distance of two floor indices. -/
def floorDistance (a b : Nat) : Nat := (a - b) + (b - a)

/-- R91 step NEAREST: the landing of the bank nearest the ground floor, the lower of two at one distance, whose
lobby_alarm is clear and whose fire state is not ALARM. -/
def State.nearestFloor (s : State) (b : Nat) : Option Nat :=
  let g := groundFloor s.map
  let safe := floorIndices.filter fun f =>
    bankServes s.map b f && !(s.floor f).lobbyAlarm && (s.floor f).fireState ≠ .alarm
  (sortBy (fun x y => decide (floorDistance x g ≤ floorDistance y g)) safe).head?

/-- R91: the last two steps of the choice. -/
def State.chooseNearest (s : State) (b primary : Nat) : Bank :=
  match s.nearestFloor b with
  | some f => ⟨f, .nearest⟩
  | none => ⟨primary, .primaryForced⟩

/-- R91: the recall floor of a bank and the step that chose it. -/
def State.chooseRecall (s : State) (b : Nat) : Bank :=
  let primary := effectivePrimary s.map b
  if !(s.floor primary).lobbyAlarm then ⟨primary, .primary⟩
  else
    match effectiveAlternate s.map b with
    | some a => if !(s.floor a).lobbyAlarm then ⟨a, .alternate⟩ else s.chooseNearest b primary
    | none => s.chooseNearest b primary

/-- R91: both banks' choices recomputed. -/
def Work.chooseBanks (w : Work) : Work :=
  w.setCru { w.cru with banks := vset (vset w.cru.banks 0 (w.chooseRecall 0)) 1 (w.chooseRecall 1) }

/-- R92: a car re-targeted to its bank's recall floor, by its state. -/
def Work.retarget (w : Work) (c : Nat) : Work :=
  let r := w.car c
  let target := (w.bank (carBank w.map c)).recallFloor
  match r.state with
  | .recallIssued => (w.setCar c { r with target := some target }).settleCar c
  | .recalling => (w.setCar c { r with state := .recallIssued, target := some target }).settleCar c
  | .parked =>
    let w := w.clearLate c
    (w.setCar c
      { w.car c with state := .recallIssued, target := some target, recallStarted := some w.uptime }).settleCar c
  | .firefighter => w
  | .shutDown => w
  | .heldOut => w
  | .inService => w
  | .lost => w

/-- The present cars, ascending. -/
def presentCars (m : Memory) : List Nat := carIndices.filter (carPresent m)

/-- R92: after a recomputation in ACTIVE or GENERAL, the present cars of the banks whose recall floor changed from
`old` are re-targeted. -/
def Work.retargetChanged (w : Work) (old : Vector Bank 2) : Work :=
  (presentCars w.map).foldl
    (fun w c =>
      let b := carBank w.map c
      if (vget old b .reset).recallFloor = (w.bank b).recallFloor then w else w.retarget c) w

/-- R93: a present car at a regime start, by its state. -/
def Work.recallAtStart (w : Work) (c : Nat) : Work :=
  let r := w.car c
  match r.state with
  | .inService => w.issueRecall c
  | .recallIssued | .recalling | .parked =>
    if r.target = some (w.bank (carBank w.map c)).recallFloor then w else w.retarget c
  | .heldOut => w
  | .shutDown => w
  | .firefighter => w
  | .lost => w

/-- R98: a machine-zone confirmation of a bank, for one of its present cars. -/
def Work.machineAlarm (w : Work) (c : Nat) : Work :=
  let r := w.car c
  if r.shutdownDue then w
  else
    let w := w.setCar c { r with shutdownDue := true }
    if r.state = .parked then (w.setCar c { w.car c with state := .shutDown }).settleCar c else w

/-- R188: CRU's part of a hand-off: a machine-zone confirmation first (R98), then the recall floors (R91), then the
regime start (R93) or the re-targeting (R92). -/
def Work.cruPart (w : Work) (machineBank : Option Nat) (started firesChanged : Bool) : Work :=
  let w :=
    match machineBank with
    | some b => ((presentCars w.map).filter fun c => carBank w.map c = b).foldl Work.machineAlarm w
    | none => w
  let old := w.cru.banks
  let w := if firesChanged || started then w.chooseBanks else w
  if started then (presentCars w.map).foldl Work.recallAtStart w
  else if w.rgc.state.running then w.retargetChanged old
  else w

/-! ## Replies -/

/-- A LIFT reply payload, decoded (R185). -/
structure CarReport where
  position : Option Nat
  motion : Option Motion
  door : Option CarDoor
  mode : CarMode
  key : Bool
  applied : Option Applied
deriving DecidableEq, Repr

/-- R89: the reported fields recorded. -/
def Car.record (r : Car) (p : CarReport) : Car :=
  { r with
    position := p.position, motion := p.motion, door := p.door, mode := some p.mode, key := some p.key,
    applied := p.applied, stale := false }

/-- R90: the confirmation of a car's payload: a held command is sent, or confirmed is set and RECALL_ISSUED becomes
RECALLING. -/
def Work.carConfirmed (w : Work) (c : Nat) : Work :=
  let r := w.car c
  match r.pendingCommand with
  | some p => (w.setCar c { r with command := p, pendingCommand := none, confirmed := false }).giveNode (.car c)
  | none =>
    w.setCar c { r with confirmed := true, state := if r.state = .recallIssued then .recalling else r.state }

/-- R96: the judgement of the recorded mode. -/
def Work.judgeMode (w : Work) (c : Nat) : Work :=
  let r := w.car c
  match r.state with
  | .recallIssued => if r.inAuto then w else w.holdOut c
  | .recalling => if r.inAuto then w else w.holdOut c
  | .parked => if r.inAuto then w else w.holdOut c
  | .heldOut => if r.inAuto then (w.setHeldOut c false).issueRecall c else w
  | .inService => w
  | .firefighter => w
  | .shutDown => w
  | .lost => w

/-- R94: whether a car has arrived. -/
def Car.arrived (r : Car) : Bool :=
  r.state = .recalling && r.confirmed && r.position.isSome && r.position = r.target && r.motion = some .stopped &&
    r.door = some .opened && r.applied = some .recall

/-- R94: an arrived car parks, or is shut down when shutdown_due is set. -/
def Work.judgeParking (w : Work) (c : Nat) : Work :=
  if (w.car c).arrived then
    let w := w.clearLate c
    let r := w.car c
    (w.setCar c
      { r with state := if r.shutdownDue then .shutDown else .parked, recallStarted := none }).settleCar c
  else w

/-- R100: whether a firefighter's car has stopped at a fire floor: its motion changed from UP or DOWN to STOPPED at a
present floor in ALARM. -/
def State.alarmStop (s : State) (c : Nat) (before : Option Motion) : Bool :=
  let r := s.car c
  (before = some .up || before = some .down) && r.motion = some .stopped &&
    r.position.any fun f => floorPresent s.map f && (s.floor f).fireState = .alarm

/-- R101: whether the reply ends firefighter service. -/
def State.keyOffEnds (s : State) (c : Nat) : Bool :=
  let r := s.car c
  r.confirmed && r.key = some false && r.motion = some .stopped &&
    r.position = some (s.bank (carBank s.map c)).recallFloor

/-- R100, R101: a FIREFIGHTER car. -/
def Work.judgeFirefighter (w : Work) (c : Nat) (before : Option Motion) : Work :=
  if (w.car c).state = .firefighter then
    let w := if w.alarmStop c before then w.markAlarmStop c else w
    if w.keyOffEnds c then w.issueRecall c else w
  else w

/-- R90: a good reply of a car's node, in the order of the rule: fields, confirmation, mode, parking, firefighter. -/
def Work.carReply (w : Work) (c : Nat) (p : CarReport) (confirms : Bool) : Work :=
  let before := (w.car c).motion
  let w := w.setCar c ((w.car c).record p)
  let w := if confirms then w.carConfirmed c else w
  (((w.judgeMode c).judgeParking c).judgeFirefighter c before)

/-- R103: the loss of a car's node. -/
def Work.carLost (w : Work) (c : Nat) : Work :=
  let r := w.car c
  if carPresent w.map c && r.state ≠ .lost then
    w.setCar c { r with state := .lost, priorState := some r.state, confirmed := false, stale := true }
  else w

/-- R104: command takes the new wanted command and pending_command becomes absent, before RBM sends the whole
payload. -/
def Work.takeWanted (w : Work) (c : Nat) : Work :=
  let r := w.car c
  w.setCar c { r with command := r.wanted, pendingCommand := none, confirmed := false }

/-- R104: the return of a car's node, decided by prior_state and the regime; also the first heard of a car whose
address was changed, with the state it holds as prior_state (R88, R138), or, where that is LOST, with the prior_state
kept since its loss (assumption 47). -/
def Work.carReturned (w : Work) (c : Nat) (p : CarReport) : Work :=
  let r := (w.car c).record p
  let prior := if r.state = .lost then r.priorState.getD .inService else r.state
  let w := w.setCar c { r with readdressed := false }
  let w :=
    if prior = .inService ∧ w.rgc.state.running = false then
      let w := w.clearLate c
      w.setCar c
        { w.car c with
          state := .inService, priorState := none, target := none, recallStarted := none, shutdownDue := false }
    else w.issueRecall c
  w.takeWanted c

/-- R138: the first heard of any other car: the fields recorded and the held command brought forward. -/
def Work.carFirstHeard (w : Work) (c : Nat) (p : CarReport) : Work :=
  let r := (w.car c).record p
  w.setCar c
    { r with
      command := r.pendingCommand.getD r.command, pendingCommand := none
      confirmed := r.confirmed && r.pendingCommand.isNone }

/-- R146: a car's new entry: its held command moves into its command, and confirmed is cleared, because the new node
has confirmed nothing (assumption 38). -/
def Work.carReaddressed (w : Work) (c : Nat) (moved : Bool) : Work :=
  let r := w.car c
  w.setCar c
    { r with
      command := r.pendingCommand.getD r.command, pendingCommand := none, confirmed := false, readdressed := moved }

def Work.carSlip (w : Work) (c : Nat) : Work := w.setCar c { w.car c with confirmed := false }

/-! ## A map change (R88) -/

/-- R88: a car that stops being present has its record reset and its LIFT details made inactive, CAR_HELD_OUT first
(assumption 50), and a CAR notice is posted. -/
def Work.removeCar (w : Work) (c : Nat) : Work :=
  let r := w.car c
  let w := (w.setCar c .reset).reportChange .carHeldOut c r.heldOutActive false
  (w.reportChange .recallLate c r.late false).markCar c

/-- R88: a car at a map write. One that becomes present takes its after-reset record; where its node entry still
stands, the entry is kept and no payload is given (assumption 40). -/
def Work.carAtWrite (old : Memory) (w : Work) (c : Nat) : Work :=
  match carPresent old c, carPresent w.map c with
  | true, false => w.removeCar c
  | false, true => w.setCar c .reset
  | _, _ => w

/-- R88: a car in FIREFIGHTER that is no longer effectively eligible ends firefighter service. -/
def Work.endIneligible (w : Work) (c : Nat) : Work :=
  if (w.car c).state = .firefighter && !(carEligible w.map c) then w.issueRecall c else w

/-- R88: CRU takes a map change as one event; no car is re-targeted, because the regime is QUIET. The step of the
entries goes over all cars before the step that ends firefighter service, so that the details of a removed car are
handed before those of a lower car of the last step (assumption 55). -/
def Work.cruAtWrite (w : Work) (old : Memory) : Work :=
  let w := (carIndices.foldl (Work.carAtWrite old) w).chooseBanks
  (carIndices.foldl Work.endIneligible w).endEvent

end Sys2Proof.Machine
end

