-- ==== Sys2Proof/Machine/Regime.lean ====
section
/-! DEFINITION. RGC's mechanisms (Chapters 1 and 2) over the regime record and the floor table, and the event that
posts their notices (R29) and hands the changes to DRU, ANS and CRU (R188). -/

namespace Sys2Proof.Machine

def Rgc.floor (r : Rgc) (f : Nat) : Floor := vget r.floors f .reset

/-- The floor table with the floors that satisfy a test changed. -/
def Rgc.mapFloors (r : Rgc) (p : Nat → Bool) (g : Nat → Floor → Floor) : Rgc :=
  { r with floors := vmapIdx (fun f x => if p f then g f x else x) r.floors }

/-- R28: a floor enters EVACUATE with a cause at a clock value. -/
def Floor.evacuate (x : Floor) (why : Cause) (t : Nat) : Floor :=
  { x with phase := .evacuate, cause := some why, evacuatingSince := some t }

/-- R26: the phases at a regime start. -/
def Rgc.startPhases (m : Memory) (r : Rgc) : Rgc :=
  r.mapFloors (floorPresent m) fun f x =>
    if directExit m f then x.evacuate .direct 0
    else { x with phase := .alert, evacuateAt := unscheduled, schedRank := 0 }

/-- R31: the rank an origin o gives floor f: one less than the distance above the floor over the origin, and the
distance below the origin. -/
def originRank (o f : Nat) : Nat := if o < f then f - o - 1 else o - f

/-- R31: the time an origin at clock t offers, saturated at 65534. -/
def originCandidate (m : Memory) (o t f : Nat) : Nat := min (t + originRank o f * interval m) 65534

/-- R31: a floor in ALERT takes an earlier candidate, or the smaller rank of an equal one. -/
def Floor.offered (x : Floor) (candidate rank : Nat) : Floor :=
  if candidate < x.evacuateAt then { x with evacuateAt := candidate, schedRank := rank }
  else if candidate = x.evacuateAt then { x with schedRank := min x.schedRank rank }
  else x

/-- R33: the order of the promotion queue: evacuate_at ascending, sched_rank ascending, floor index descending. -/
def Rgc.before (r : Rgc) (a b : Nat) : Bool :=
  let x := r.floor a
  let y := r.floor b
  decide (x.evacuateAt < y.evacuateAt ∨
    (x.evacuateAt = y.evacuateAt ∧ (x.schedRank < y.schedRank ∨ (x.schedRank = y.schedRank ∧ b ≤ a))))

def Rgc.sortQueue (r : Rgc) : Rgc := { r with queue := sortBy r.before r.queue }

/-- R30: whether an origin sends a floor to EVACUATE: the origin and the present floor above it, unless already in
EVACUATE or CLEARED. -/
def Rgc.originMoves (m : Memory) (r : Rgc) (o f : Nat) : Bool :=
  (f = o || f = o + 1) && floorPresent m f && (r.floor f).phase ≠ .evacuate && (r.floor f).phase ≠ .cleared

/-- R30: floor o is applied as an origin at the present clock. -/
def Rgc.origin (m : Memory) (o : Nat) (r : Rgc) : Rgc :=
  let moves := r.originMoves m o
  let r1 := r.mapFloors moves fun _ x => x.evacuate .origin r.clock
  let r2 : Rgc := { r1 with queue := r1.queue.filter fun f => !moves f }
  let r3 := r2.mapFloors (fun f => floorPresent m f && (r2.floor f).phase = .alert) fun f x =>
    x.offered (originCandidate m o r.clock f) (originRank o f)
  { r3.sortQueue with latestOrigin := some o, origins := satAdd 32 r.origins 1, muteUntil := none }

/-- R41: the entry to GENERAL. -/
def Rgc.entryGeneral (m : Memory) (r : Rgc) : Rgc :=
  let r1 := r.mapFloors (fun f => floorPresent m f && (r.floor f).phase = .alert) fun _ x => x.evacuate .general r.clock
  { r1 with state := .general, queue := [], muteUntil := none }

/-- R25: a regime start, in the order of the rule. -/
def Rgc.begin (m : Memory) (cause : Option Nat) (general : Bool) (r : Rgc) : Rgc :=
  let r1 : Rgc :=
    { r with
      state := if general then .general else .active, clock := 0, stats := .zero, latestOrigin := none, origins := 0,
      muteUntil := none }
  let r2 := r1.startPhases m
  let r3 := match cause with
    | some o => r2.origin m o
    | none => r2
  if general then r3.entryGeneral m else r3

/-- R34: promotion steps, head first, until hold, the stair capacity or an empty queue ends them. -/
def promoteSteps (m : Memory) : List Nat → Rgc → Rgc
  | [], r => { r with queue := [] }
  | f :: rest, r =>
    if r.hold || decide (stairCapacity m ≤ stairCount m r) then { r with queue := f :: rest }
    else promoteSteps m rest (r.mapFloors (fun g => g = f) fun _ x => x.evacuate .schedule r.clock)

def Rgc.promote (m : Memory) (r : Rgc) : Rgc := promoteSteps m r.queue r

/-- R32: whether a floor joins the promotion queue: present, in ALERT, due and not yet queued. An unscheduled floor is
due when the clock stands at 65535 (assumption 20). -/
def Rgc.joins (m : Memory) (r : Rgc) (f : Nat) : Bool :=
  floorPresent m f && (r.floor f).phase = .alert && decide ((r.floor f).evacuateAt ≤ r.clock) && !(r.queue.contains f)

/-- R32: the due floors join the queue, each counting as an insert. -/
def Rgc.joinDue (m : Memory) (r : Rgc) : Rgc :=
  let due := floorIndices.filter (r.joins m)
  { ({ r with queue := r.queue ++ due } : Rgc).sortQueue with
    stats := { r.stats with inserts := satAdd statLimit r.stats.inserts due.length } }

/-- R46: the statistics of a clock second. -/
def Stats.second (s : Stats) (length : Nat) : Stats :=
  { s with
    occupancy := satAdd statLimit s.occupancy length
    nonempty := satAdd statLimit s.nonempty (if length = 0 then 0 else 1) }

/-- R27, R32, R35, R46: a clock second. -/
def Rgc.second (m : Memory) (r : Rgc) : Rgc :=
  let r1 := (({ r with clock := satAdd 65535 r.clock 1 } : Rgc).joinDue m).promote m
  { r1 with stats := r1.stats.second r1.queue.length }

/-- R36, R37: a floor becomes CLEARED, and promotion is evaluated. -/
def Rgc.clearFloor (m : Memory) (f : Nat) (why : Cause) (r : Rgc) : Rgc :=
  (r.mapFloors (fun g => g = f) fun _ x => { x with phase := .cleared, cause := some why }).promote m

/-- R44: the return to QUIET. -/
def Rgc.toQuiet (m : Memory) (r : Rgc) : Rgc :=
  let r1 := r.mapFloors (floorPresent m) fun _ x =>
    { x with phase := .none, cause := none, evacuatingSince := none, evacuateAt := unscheduled, schedRank := 0 }
  let r2 := r1.mapFloors (fun _ => true) fun _ x =>
    { x with alarmLatch := false, lobbyAlarm := false, firstAlarmAt := none, alarmZones := 0 }
  { r2 with state := .quiet, queue := [], hold := false, muteUntil := none }

/-- R24: the regime state re-examined after a floor's fire state changed. -/
def Rgc.reexamine (m : Memory) (r : Rgc) : Rgc :=
  let present (st : FireState) : Bool := floorIndices.any fun f => floorPresent m f && (r.floor f).fireState = st
  match r.state with
  | .quiet => if present .preAlarm && !(present .alarm) then { r with state := .alerted } else r
  | .alerted => if present .preAlarm then r else { r with state := .quiet, hold := false }
  | .active => r
  | .general => r

/-- R19: the alarm record of a floor whose zone has become CONFIRMED, at the clock after any regime start. -/
def Floor.alarmed (x : Floor) (clock : Nat) (lobby : Bool) : Floor :=
  { x with
    fireState := .alarm, alarmLatch := true, lobbyAlarm := x.lobbyAlarm || lobby
    firstAlarmAt := some (x.firstAlarmAt.getD clock)
    alarmZones := if x.firstAlarmAt.isSome then satAdd 32 x.alarmZones 1 else 1 }

/-- R18, R19, R21, R25, R30: a floor zone of floor f has become CONFIRMED. -/
def Rgc.confirmFloor (m : Memory) (escalating lobby : Bool) (f : Nat) (r : Rgc) : Rgc :=
  let r1 :=
    if r.state.running then (if (r.floor f).fireState = .alarm then r else r.origin m f)
    else r.begin m (some f) escalating
  r1.mapFloors (fun g => g = f) fun _ x => x.alarmed r1.clock lobby

/-- R40: the regime enters GENERAL: a start from QUIET or ALERTED, the entry of R41 from ACTIVE, nothing in GENERAL. -/
def Rgc.enterGeneral (m : Memory) (r : Rgc) : Rgc :=
  match r.state with
  | .quiet => r.begin m none true
  | .alerted => r.begin m none true
  | .active => r.entryGeneral m
  | .general => r

/-! ## The event -/

/-- What an RGC event knows beside the records it changed. -/
structure News where
  causeFloor : Option Nat := none
  started : Bool := false
  returned : Bool := false
  machineBank : Option Nat := none
  regimeNotice : Bool := false
deriving DecidableEq, Repr

/-- R29: whether a floor is owed a FLOOR notice. -/
def floorNoticed (a b : Floor) : Bool :=
  !(decide (a.fireState = b.fireState ∧ a.lobbyAlarm = b.lobbyAlarm ∧ a.phase = b.phase ∧ a.cause = b.cause))

/-- R29: whether the event owes a REGIME notice. -/
def regimeNoticed (a b : Rgc) : Bool :=
  !(decide (a.state = b.state ∧ a.hold = b.hold ∧ a.muteUntil = b.muteUntil))

def Work.postFloors (w : Work) (floors : List Nat) : Work :=
  floors.foldl (fun w f => w.post .floor (floorBody w.toState f)) w

/-- R29: the notices of an RGC event, in their order. -/
def Work.postRegime (w : Work) (old : Rgc) (n : News) : Work :=
  let changed := floorIndices.filter fun f => floorNoticed (old.floor f) (w.rgc.floor f)
  let first := changed.filter fun f => n.causeFloor = some f
  let others := changed.filter fun f => n.causeFloor ≠ some f
  let w := w.postFloors first
  let w := if n.regimeNotice || regimeNoticed old w.rgc then w.post .regime (regimeBody w.toState) else w
  w.postFloors others

/-- R29, R188: the hand-off of an RGC event's changes: DRU's part, ANS's part, CRU's part, in one event. -/
def Work.handOff (w : Work) (old : Rgc) (n : News) : Work :=
  let phases := floorIndices.filter fun f => (old.floor f).phase ≠ (w.rgc.floor f).phase
  let leftNone := phases.any fun f => (old.floor f).phase = .none
  let fires := floorIndices.any fun f =>
    (old.floor f).fireState ≠ (w.rgc.floor f).fireState || (old.floor f).lobbyAlarm ≠ (w.rgc.floor f).lobbyAlarm
  let toAns := !phases.isEmpty || old.latestOrigin ≠ w.rgc.latestOrigin || old.muteUntil ≠ w.rgc.muteUntil || n.returned
  let w := w.druPhases phases
  let w := if toAns then w.ansPhases leftNone n.returned else w
  (w.cruPart n.machineBank n.started (fires || n.returned)).endEvent

/-- An RGC event: the records settled, the notices posted, the changes handed on. -/
def Work.rgcEvent (w : Work) (r : Rgc) (n : News) : Work :=
  ((w.setRgc r).postRegime w.rgc n).handOff w.rgc n

/-! ## Zones handed to RGC -/

/-- Whether some floor zone of floor f stands in an evaluation state. -/
def State.someFloorZone (s : State) (f : Nat) (e : Eval) : Bool :=
  (List.range 128).any fun z => (s.zone z).eval = e && zoneClass s.map z = .floorZone f

/-- R18: a floor's fire state. -/
def State.deriveFire (s : State) (f : Nat) : FireState :=
  if (s.floor f).alarmLatch then .alarm
  else if s.someFloorZone f .verifying then .preAlarm
  else .normal

/-- R18, R21: ZEV hands RGC the change of a zone's evaluation state to `e`. -/
def Work.zoneHandOff (w : Work) (z : Nat) (e : Eval) : Work :=
  let starting := !w.rgc.state.running
  match zoneClass w.map z with
  | .floorZone f =>
    if e = .confirmed then
      w.rgcEvent (w.rgc.confirmFloor w.map w.escalating (zoneKind w.map z = .liftLobby) f)
        { causeFloor := some f, started := starting }
    else
      let fire := w.deriveFire f
      if fire = (w.floor f).fireState then w
      else
        w.rgcEvent ((w.rgc.mapFloors (fun g => g = f) fun _ x => { x with fireState := fire }).reexamine w.map)
          { causeFloor := some f }
  | .floorless =>
    if e = .confirmed then
      if w.rgc.state = .general then w else w.rgcEvent (w.rgc.enterGeneral w.map) { started := starting }
    else w
  | .machine b =>
    if e = .confirmed then
      let r := if starting then w.rgc.begin w.map none w.escalating else w.rgc
      w.rgcEvent r { started := starting, machineBank := some b }
    else w

/-- R20: a floor re-derived after ZEV has freed zones. -/
def State.rederiveFloor (s : State) (f : Nat) (x : Floor) : Floor :=
  if s.someFloorZone f .confirmed then x
  else
    { x with
      alarmLatch := false, lobbyAlarm := false
      fireState := if s.someFloorZone f .verifying then .preAlarm else .normal }

/-- R20: every floor re-derived. -/
def State.rederive (s : State) : Rgc := s.rgc.mapFloors (fun _ => true) s.rederiveFloor

/-- The number of zones of a class that stand CONFIRMED. -/
def State.confirmedCount (s : State) (p : ZoneClass → Bool) : Nat :=
  ((List.range 128).filter fun z => (s.zone z).eval = .confirmed && p (zoneClass s.map z)).length

def ZoneClass.isMachine : ZoneClass → Bool
  | .machine _ => true
  | .floorless => false
  | .floorZone _ => false

def ZoneClass.isFloorless : ZoneClass → Bool
  | .floorless => true
  | .machine _ => false
  | .floorZone _ => false

/-- R189: the set of present floors in a fire state. -/
def fireSet (m : Memory) (r : Rgc) (st : FireState) : FloorSet :=
  floorSetWhere fun f => floorPresent m f && (r.floor f).fireState = st

/-- R43: nothing remains to hold the regime. -/
def State.nothingRemains (s : State) (r : Rgc) : Bool :=
  fireSet s.map r .alarm = 0 && fireSet s.map r .preAlarm = 0 && s.confirmedCount ZoneClass.isMachine = 0 &&
    s.confirmedCount ZoneClass.isFloorless = 0

/-- R42: RGC is told of a change of link mode: a REGIME notice, and with ESCALATE an ACTIVE regime enters GENERAL. -/
def Work.modeToRgc (w : Work) : Work :=
  let r := if w.escalating && w.rgc.state = .active then w.rgc.entryGeneral w.map else w.rgc
  w.rgcEvent r { regimeNotice := true }

end Sys2Proof.Machine
end

