-- ==== Sys2Proof/Machine/Zones.lean ====
section
/-! DEFINITION. ZEV's mechanisms (Chapter 1): the evaluation of a report (R4, R6 to R8, R11, R12), the expiry of a
window (R9), freeing (R13), the loss of a panel (R5) and the restart by a map write (R2). -/

namespace Sys2Proof.Machine

def zoneIndices : List Nat := List.range 128

/-- R7: an ALARM edge on a QUIET zone; `startup` for a start-up confirmation (R12). -/
def State.edgeOnQuiet (s : State) (z : Nat) (r : Zone) (startup : Bool) : Zone :=
  if startup || zoneKind s.map z = .manual || effectiveConfirm s.map z = 1 then
    { r with eval := .confirmed, count := 0, deadline := none }
  else { r with eval := .verifying, count := 1, deadline := some (s.uptime + zoneWindow s.map z) }

/-- R8: an ALARM edge on a VERIFYING zone. -/
def State.edgeOnVerifying (s : State) (z : Nat) (r : Zone) : Zone :=
  if r.count + 1 = effectiveConfirm s.map z then { r with eval := .confirmed, count := 0, deadline := none }
  else { r with count := r.count + 1 }

/-- R6, R13, R14: a zone taken out of verification. -/
def Zone.settledIn (r : Zone) (e : Eval) : Zone := { r with eval := e, count := 0, deadline := none }

/-- R4, R6 to R8, R11, R12: the evaluation of a change of condition already recorded in `r`; `before` is the condition
it replaced. -/
def State.evaluate (s : State) (z : Nat) (before : Condition) (r : Zone) : Zone :=
  match r.eval with
  | .disabled => r
  | .confirmed => r
  | .quiet => if r.condition = .alarm then s.edgeOnQuiet z r (before = .unknown) else r
  | .verifying =>
    if r.condition = .alarm then s.edgeOnVerifying z r
    else if r.condition = .isolated then r.settledIn .quiet
    else r

/-- R6: the details a change of condition makes active or inactive, ZONE_TROUBLE before ZONE_ISOLATED (assumption
50). -/
def Work.zoneDetails (w : Work) (z : Nat) (before after : Condition) : Work :=
  (w.reportChange .zoneTrouble z (before = .trouble) (after = .trouble)).reportChange .zoneIsolated z
    (before = .isolated) (after = .isolated)

/-- R16: a zone's changed record, its ZONE notice, and its change of eval handed to RGC. -/
def Work.zoneChanged (w : Work) (z : Nat) (r : Zone) (cause : ZoneCause) : Work :=
  let before := (w.zone z).eval
  let w := w.setZone z r
  let w := w.post .zone (zoneBody w.toState z cause)
  if r.eval = before then w else w.zoneHandOff z r.eval

/-- R4, R16: one zone of a PANEL reply. The cause is STARTUP for a start-up confirmation (R12); a DISABLED zone's first
report has the cause REPORT even when it shows ALARM (assumption 36). -/
def Work.zoneReport (w : Work) (z : Nat) (c : Condition) : Work :=
  let old := w.zone z
  if old.condition = c then w
  else
    let r := w.evaluate z old.condition { old with condition := c }
    let startup := old.condition = .unknown ∧ c = .alarm ∧ old.eval = .quiet
    (w.zoneDetails z old.condition c).zoneChanged z r (if startup then .startup else .report)

/-- The zone records of a panel, ascending. -/
def panelZones (p : Nat) : List Nat := (List.range 32).map fun i => 32 * p + i

def Work.setPanelStale (w : Work) (p : Nat) (stale : Bool) : Work :=
  (panelZones p).foldl (fun w z => w.setZone z { w.zone z with stale := stale }) w

/-- The panel trouble flag of a panel whose node has the given address (R4). -/
def Work.setPanelTrouble (w : Work) (p address : Nat) (flag : Bool) : Work :=
  let old := vget w.zev.panelTrouble p false
  (w.setZev { w.zev with panelTrouble := vset w.zev.panelTrouble p flag }).reportChange .panelTrouble
    address old flag

/-- R4, R5: a good PANEL reply: stale cleared on all 32 zones, each zone in ascending order, then the panel flag,
whose PANEL_TROUBLE is handed behind the zones' conditions (assumption 48). -/
def Work.panelReport (w : Work) (p address : Nat) (conditions : List Condition) (trouble : Bool) : Work :=
  let w := w.setPanelStale p false
  let w := (panelZones p).foldl (fun w z => w.zoneReport z (conditions.getD (z % 32) .normal)) w
  w.setPanelTrouble p address trouble

/-- R9: the record after the expiry of a window. -/
def Zone.expired (r : Zone) : Zone :=
  if r.condition = .alarm then r.settledIn .confirmed
  else { r.settledIn .quiet with nuisance := satAdd 255 r.nuisance 1 }

/-- R13: whether RESET_REGIME frees a zone. -/
def Zone.freeable (r : Zone) : Bool := r.eval = .confirmed && r.condition ≠ .alarm

/-- R13: a freed zone, with its ZONE notice. -/
def Work.freeZone (w : Work) (z : Nat) : Work :=
  let w := w.setZone z ((w.zone z).settledIn .quiet)
  w.post .zone (zoneBody w.toState z .resetRegime)

/-- R2: the record a restart by a map write leaves: QUIET, or the evaluation of a standing ALARM as an edge under the
new entry. -/
def State.restarted (s : State) (z : Nat) (r : Zone) : Zone :=
  let q := r.settledIn .quiet
  if r.condition = .alarm then s.edgeOnQuiet z q false else q

/-- R2: a restarted zone, with its ZONE notice. Its evaluation is handed to RGC even when it ends in the state it began
in, because the restart passes through QUIET and the zone may have come to another floor. -/
def Work.restartZone (w : Work) (z : Nat) : Work :=
  let r := w.restarted z (w.zone z)
  let w := w.setZone z r
  let w := w.post .zone (zoneBody w.toState z .map)
  w.zoneHandOff z r.eval

/-- R2: a zone at a map write. A zone in VERIFYING, and a zone in QUIET with condition ALARM, is restarted when its
effective entry changed. -/
def Work.zoneAtWrite (old : Memory) (w : Work) (z : Nat) : Work :=
  let r := w.zone z
  if effectiveEntry old z = effectiveEntry w.map z then w
  else
    match r.eval with
    | .verifying => w.restartZone z
    | .quiet => if r.condition = .alarm then w.restartZone z else w
    | .confirmed => w
    | .disabled => w

/-- R2: ZEV takes a map change, zone by zone in ascending index. While an earlier zone is handed to RGC, a later zone
that the same write will restart still stands as it was, but under its new entry (assumption 33). -/
def Work.zevAtWrite (w : Work) (old : Memory) : Work := zoneIndices.foldl (Work.zoneAtWrite old) w

end Sys2Proof.Machine
end

