-- ==== Sys2Proof/Machine/Operands.lean ====
section
/-! DEFINITION. The operand forms: what a host frame (R161, R162), a riser-bus reply (R132, R185) and the body of a
request (R184) spell. -/

namespace Sys2Proof.Machine

/-! ## Host frames -/

/-- The CRC over the covered bytes and the two CRC bytes leaves the register at 0 in a good frame (R161). -/
def crcGood (bytes : List Byte) : Bool := crc16 bytes = 0#16

/-- A valid frame: its class, its code, its TAG and its body (R161, R162). -/
structure HostMessage where
  cls : Nat
  code : Nat
  tag : Byte
  body : List Byte
deriving DecidableEq, Repr

/-- R162: the message of a frame given from LENGTH through the second CRC byte; absent when LENGTH is out of range, the
size disagrees with it or the CRC is wrong. -/
def parseHostFrame (frame : List Byte) : Option HostMessage :=
  match frame with
  | length :: kind :: tag :: rest =>
    if 2 ≤ length.toNat ∧ length.toNat ≤ 200 ∧ frame.length = length.toNat + 3 ∧ crcGood frame = true then
      some ⟨kind.toNat / 64, kind.toNat % 64, tag, rest.take (length.toNat - 2)⟩
    else none
  | _ => none

/-- R162: whether a fault abandons a frame: LENGTH outside 2 to 200, a framing error, or a frame of agreeing size whose
CRC is wrong. -/
def abandons : HostFrameFault → Bool
  | .badLength length => length.toNat < 2 || 200 < length.toNat
  | .framingError => true
  | .badCrc frame =>
    match frame with
    | length :: _ =>
      2 ≤ length.toNat && length.toNat ≤ 200 && frame.length = length.toNat + 3 && !(crcGood frame)
    | [] => false

/-! ## Request bodies (R184) -/

def byteAt (body : List Byte) (i : Nat) : Nat := (body.getD i 0).toNat
def word16At (body : List Byte) (i : Nat) : Nat := 256 * byteAt body i + byteAt body (i + 1)
def setAt (body : List Byte) (i : Nat) : FloorSet :=
  BitVec.ofNat 32 (65536 * word16At body i + word16At body (i + 2))

/-- R164: whether a body has the length its layout gives. -/
def lengthIs (n : Nat) (body : List Byte) : Bool := body.length = n

/-- R184: a MAP_WRITE body is block, offset, count n and n data bytes. -/
def mapWriteLength (body : List Byte) : Bool := 3 ≤ body.length && body.length = 3 + byteAt body 2

/-- R184: a group code, or 0xFF for all groups. -/
def groupScope (n : Nat) : Option (List Group) :=
  if n = 0xFF then some Group.all else (Group.ofCode n).map fun g => [g]

/-! ## Riser-bus replies -/

/-- A reply that passes every check of R132. -/
structure NodeReply where
  toggle : Bool
  fault : Bool
  fresh : Bool
  payload : List Byte
deriving DecidableEq, Repr

/-- R132: the outcome of the checks. -/
inductive ReplyCheck where
  | good (reply : NodeReply)
  | typeWrong
  | bad
deriving DecidableEq, Repr

/-- 11.2: the reply payload length of a type. -/
def NodeType.replyLength : NodeType → Nat
  | .floor => 4
  | .panel => 9
  | .lift => 6
  | .power => 2

/-- R132: the checks of a reply, in their order: SYNC, ADDRESS and direction, LENGTH, CRC, node type, payload length.
Bytes given are those received from the first byte of the reply on. -/
def checkReply (address : Nat) (type : NodeType) (bytes : List Byte) : ReplyCheck :=
  match bytes with
  | sync :: addr :: control :: second :: length :: rest =>
    let n := length.toNat
    let covered := addr :: control :: second :: length :: rest
    if sync ≠ 0x3A then .bad
    else if addr.toNat ≠ address ∨ control.getLsbD 7 = false then .bad
    else if 40 < n then .bad
    else if rest.length ≠ n + 2 then .bad
    else if crcGood covered = false then .bad
    else if control.toNat / 32 % 4 ≠ type.code then .typeWrong
    else if n ≠ type.replyLength then .bad
    else .good ⟨control.getLsbD 4, control.getLsbD 3, control.getLsbD 2, rest.take n⟩
  | _ => .bad

/-- R185: a reported selector; 0xFF is OFF, and a code from 6 to 0xFE is recorded as none. -/
def decodeSelector (n : Nat) : Option Selector :=
  if n = 0xFF then some .off else if n < 6 then some (.channel n) else none

/-- 11.2: a door byte of a FLOOR reply. -/
def decodeStrike (n : Nat) : Strike := if n.testBit 0 then .unlocked else .locked
def decodePosition (n : Nat) : DoorPosition := if n.testBit 1 then .opened else .closed

/-- 11.2: a zone condition, four to a byte, zone 0 in bits 7 and 6 of the first byte. -/
def decodeCondition (payload : List Byte) (i : Nat) : Condition :=
  match byteAt payload (i / 4) / 4 ^ (3 - i % 4) % 4 with
  | 0 => .normal
  | 1 => .alarm
  | 2 => .trouble
  | _ => .isolated

def decodeConditions (payload : List Byte) : List Condition := (List.range 32).map (decodeCondition payload)

def decodeMotion : Nat → Option Motion
  | 0 => some .stopped
  | 1 => some .up
  | 2 => some .down
  | _ => none

def decodeCarDoor : Nat → Option CarDoor
  | 0 => some .opened
  | 1 => some .closed
  | 2 => some .opening
  | 3 => some .closing
  | _ => none

/-- R185: a mode code not listed is recorded as OUT_OF_SERVICE. -/
def decodeMode : Nat → CarMode
  | 0 => .auto
  | 1 => .independent
  | 2 => .inspection
  | _ => .outOfService

def decodeApplied : Nat → Option Applied
  | 0 => some .normal
  | 1 => some .recall
  | 2 => some .holdOpen
  | 3 => some .shutdown
  | 4 => some .firefighterEnable
  | _ => none

/-- R185: a LIFT reply payload; a position that is not a present floor is none, a key code above 1 is OFF. -/
def decodeCar (m : Memory) (payload : List Byte) : CarReport where
  position := if floorPresent m (byteAt payload 0) then some (byteAt payload 0) else none
  motion := decodeMotion (byteAt payload 1)
  door := decodeCarDoor (byteAt payload 2)
  mode := decodeMode (byteAt payload 3)
  key := byteAt payload 4 = 1
  applied := decodeApplied (byteAt payload 5)

/-- R185: a POWER reply payload; a source code above 1 is BATTERY. -/
def decodePower (payload : List Byte) : PowerReport where
  source := if byteAt payload 0 = 0 then .mains else .battery
  low := (byteAt payload 1).testBit 0

end Sys2Proof.Machine
end

