-- ==== Sys2Proof/Machine/Budget.lean ====
section
/-! DEFINITION. LBU's events: a POWER report and a change of mode (R48, R49), and the BUDGET block written (R63). -/

namespace Sys2Proof.Machine

/-- R60: the claimants shed are told, in the shed order. -/
def Work.tellShed (w : Work) (shed : List Claimant) : Work := shed.foldl Work.handShed w

/-- R49, R63: the end of an LBU event that may have shed: the claimants told, the grant pass, the payloads settled, the
BUDGET notice, and the notices the claimants owe behind it (assumption 10). A claim that a shed door places anew in the
same event (R70) is not in the wait list at the grant pass of the shedding: it is placed behind that pass and has a pass
of its own. The notice carries the ledger sums and the wait list as they stand after both (assumption 37). -/
def Work.budgetEvent (w : Work) (cause : BudgetCause) (old : BudgetMode) (r : ShedResult) : Work :=
  let w := (((w.setLbu r.lbu).tellShed r.shed).runPass).settle
  (w.post .budget (budgetBody w.toState cause old r.shed.length r.resourced)).endEvent

/-- R49: a change of the mode, as one LBU event. -/
def Work.setMode (w : Work) (mode : BudgetMode) : Work :=
  if w.lbu.mode = mode then w
  else
    let lbu := { w.lbu with mode := mode }
    w.budgetEvent .mode w.lbu.mode (shedShared (capacityOf w.map mode) ⟨lbu, [], 0⟩)

/-- The power node's entry. -/
def State.powerEntry (s : State) : Option NodeEntry := s.entryOf .power

/-- R48: the mode taken again from the power node's state and last report. -/
def Work.judgeMode48 (w : Work) : Work := w.setMode (powerMode w.powerEntry w.lbu.power)

def reportedBattery (r : Option PowerReport) : Bool := r.any fun p => p.source = .battery
def reportedLow (r : Option PowerReport) : Bool := r.any fun p => p.low

/-- R48: the recorded source and LOW flag, and the two POWER details they drive; the subject is the node's address,
and ON_BATTERY is handed first (assumption 50). -/
def Work.recordPower (w : Work) (address : Nat) (p : Option PowerReport) : Work :=
  let old := w.lbu.power
  let w := w.setLbu { w.lbu with power := p }
  (w.reportChange .onBattery address (reportedBattery old) (reportedBattery p)).reportChange .batteryLow address
    (reportedLow old) (reportedLow p)

/-- R48, R49: a good POWER reply. -/
def Work.powerReport (w : Work) (address : Nat) (p : PowerReport) : Work :=
  (w.recordPower address (some p)).judgeMode48

/-- R48: the power node is no longer configured. -/
def Work.powerRemoved (w : Work) (address : Nat) : Work := (w.recordPower address none).judgeMode48

/-- R63: whether a write changed a stored figure of R50. -/
def figuresChanged (old new : Memory) : Bool := (List.range 7).any fun k => budgetFigure old k ≠ budgetFigure new k

/-- R63: the BUDGET block written, as one LBU event. Where both reserves are overdrawn the door reserve is brought within
its figure first, then the audio reserve (assumption 54). -/
def Work.lbuAtWrite (w : Work) (old : Memory) : Work :=
  if figuresChanged old w.map then
    let cap := capacityOf w.map w.lbu.mode
    let r := unreserve cap .audioReserve (unreserve cap .doorReserve ⟨w.lbu, [], 0⟩)
    w.budgetEvent .map w.lbu.mode (shedShared cap r)
  else w

end Sys2Proof.Machine
end

