-- ==== Sys2Proof/Machine/Riser.lean ====
section
/-! DEFINITION. RBM's mechanisms (Chapter 7): the desired payload and the request of a poll (R131), the end of a poll,
misses and loss (R137), good replies (R136, R138, R141, R143, R144), and a change of the node set (R146). -/

namespace Sys2Proof.Machine

/-! ## Entries and requests -/

/-- R134: an entry as it is created. FLOOR and LIFT entries begin in flight. -/
def NodeEntry.fresh (c : NodeConfig) : NodeEntry where
  address := c.address
  type := c.type
  owner := c.owner
  state := .unknown
  outToggle := false
  echo := none
  freshMark := false
  inFlight := c.type = .floor || c.type = .lift
  misses := 0
  reported := none
  stale := false
  nodeFault := false
  typeActive := false
  lastGoodCycle := none
  totalMisses := 0
  slips := 0

/-- The node set in ascending address order (R133, R135). -/
def sortedNodeSet (m : Memory) : List NodeConfig := sortBy (fun a b => decide (a.address ≤ b.address)) (nodeSet m)

/-- R121: the speaker byte of a FLOOR request. -/
def selectorByte : Selector → Byte
  | .channel c => byte c
  | .off => 0xFF

/-- R131, 11.2: the desired payload of an entry as its owners hold it now. -/
def State.desiredPayload (s : State) (o : NodeOwner) : List Byte :=
  match o with
  | .floor f =>
    [byte (s.door (2 * f)).desired.code, byte (s.door (2 * f + 1)).desired.code, selectorByte (s.join f).sent]
  | .car c => eCommand (s.car c).command
  | .panel _ => []
  | .power => []

/-- R131: a request to the address is sent and its reply window opens. -/
def Work.sendRequest (w : Work) (a : Nat) : Work :=
  match w.entryAt a with
  | some e =>
    w.setRbm { w.rbm with
      polling := some ⟨a, w.rbm.cycle, riserRequest a e.type e.outToggle w.rbm.cycle (w.desiredPayload e.owner)⟩ }
  | none => w.setRbm { w.rbm with polling := none }

/-- R135: the end of a poll: the next address of the cycle is polled; after the last, the cycle ends and its number
increases by one. -/
def Work.nextPoll (w : Work) : Work :=
  match w.rbm.toPoll with
  | a :: rest => (w.setRbm { w.rbm with toPoll := rest }).sendRequest a
  | [] => w.setRbm { w.rbm with polling := none, cycle := (w.rbm.cycle + 1) % 65536 }

def Work.setEntry (w : Work) (e : NodeEntry) : Work :=
  w.setRbm { w.rbm with nodes := w.rbm.nodes.map fun x => if x.address = e.address then e else x }

/-! ## Misses -/

/-- R137: an entry after a miss. -/
def NodeEntry.missed (e : NodeEntry) : NodeEntry :=
  let misses := satAdd 3 e.misses 1
  let lost := e.state = .lost || ((e.state = .unknown || e.state = .missing) && misses = 3)
  { e with
    misses := misses
    totalMisses := satAdd 65535 e.totalMisses 1
    state := if lost then .lost else if e.state = .ok then .missing else e.state
    stale := e.stale || lost }

/-- R137: the loss handed to the owners, DRU before ANS for a floor node. -/
def Work.handLoss (w : Work) : NodeOwner → Work
  | .floor f => ((doorsOf [f]).foldl Work.doorLost w).joinLost f
  | .panel p => w.setPanelStale p true
  | .car c => w.carLost c
  | .power => w.judgeMode48

/-- R137: a miss. -/
def Work.missEvent (w : Work) (e : NodeEntry) : Work :=
  let e' := e.missed
  let w := w.setEntry e'
  if e'.state = .lost ∧ e.state ≠ .lost then ((w.report .nodeLost e.address true).handLoss e.owner).endEvent else w

/-- R132: a reply of the wrong node type makes NODE_TYPE active, and the poll is a miss. -/
def Work.typeWrongEvent (w : Work) (e : NodeEntry) : Work :=
  let e' : NodeEntry := { e with typeActive := true }
  ((w.setEntry e').reportChange .nodeType e.address e.typeActive true).missEvent e'

/-! ## Good replies -/

/-- R136: what a good reply is in the toggle handling. -/
inductive ReplyKind where
  | heard
  | confirms
  | slip
  | plain
deriving DecidableEq, Repr

/-- R138, R141, R143: the kind of a good reply to a FLOOR or LIFT entry. -/
def NodeEntry.classify (e : NodeEntry) (r : NodeReply) : ReplyKind :=
  match e.state with
  | .unknown => .heard
  | .lost => .heard
  | _ =>
    if r.fresh then .slip
    else if e.inFlight then (if r.toggle = e.outToggle then .confirms else .plain)
    else if r.toggle = e.outToggle then .plain
    else .slip

/-- R138, R141, R143: the toggle handling of a FLOOR or LIFT entry. -/
def NodeEntry.toggled (e : NodeEntry) (r : NodeReply) : ReplyKind → NodeEntry
  | .heard => { e with outToggle := !r.toggle, inFlight := true }
  | .confirms => { e with inFlight := false }
  | .slip =>
    { e with
      slips := satAdd 255 e.slips 1, inFlight := true
      outToggle := if e.outToggle = r.toggle then !e.outToggle else e.outToggle }
  | .plain => e

/-- R136, R139: the entry settled by a good reply to the request of a cycle. -/
def NodeEntry.settled (e : NodeEntry) (r : NodeReply) (cycle : Nat) : NodeEntry :=
  { e with
    state := .ok, misses := 0, lastGoodCycle := some cycle, echo := some r.toggle, freshMark := r.fresh
    reported := some r.payload, stale := false, typeActive := false, nodeFault := r.fault }

/-- R136: the NODE conditions a good reply settles, in the order of the rule (assumption 50). -/
def Work.settleConditions (w : Work) (e : NodeEntry) (r : NodeReply) : Work :=
  ((w.reportChange .nodeType e.address e.typeActive false).reportChange .nodeFault e.address e.nodeFault r.fault)
    |>.reportChange .nodeLost e.address (e.state = .lost) false

/-- R138, R141, R143, R144: a good reply of a floor node, DRU before ANS. In a first heard or a return the payload that
RBM sends next carries whatever the owners change in the event, under the one new toggle. The doors take the whole step
of R81 before the delivery of the reply, so that a DOOR_HELD ended by a queued door of that step is handed before one
ended by the report of the other door, whatever their indices (assumption 55). -/
def Work.floorReply (w : Work) (f : Nat) (kind : ReplyKind) (payload : List Byte) : Work :=
  let w :=
    match kind with
    | .heard => ((doorsOf [f]).foldl Work.doorReturned (w.addGiven f)).joinReturned f
    | .confirms => ((w.floorConfirmed f).joinConfirmed f).settle
    | .slip => ((doorsOf [f]).foldl Work.doorSlip w).joinSlip f
    | .plain => w
  let w := (doorsOf [f]).foldl
    (fun w d => w.doorReport d (decodeStrike (byteAt payload (d % 2))) (decodePosition (byteAt payload (d % 2)))) w
  w.speakerReport f (decodeSelector (byteAt payload 2)) ((byteAt payload 3).testBit 0)

/-- R138: the first heard of a car or its return. The payload RBM sends next carries the command held until then, and at
a return (R104) the command the car wants at the end of the event; a change judged from a first reply is held, since
that payload is in flight (R90). -/
def Work.carHeard (w : Work) (c : Nat) (returning : Bool) (p : CarReport) : Work :=
  if returning || (w.car c).readdressed then w.carReturned c p
  else
    let before := (w.car c).motion
    let w := w.carFirstHeard c p
    ((w.judgeMode c).judgeParking c).judgeFirefighter c before

/-- R138, R141, R143, R144: a good reply of a lift node. A car that has stopped being present takes nothing (R88). -/
def Work.liftReply (w : Work) (c : Nat) (before : NodeState) (kind : ReplyKind) (payload : List Byte) : Work :=
  let p := decodeCar w.map payload
  if carPresent w.map c then
    match kind with
    | .heard => w.carHeard c (before = .lost) p
    | .confirms => w.carReply c p true
    | .slip => (w.carSlip c).carReply c p false
    | .plain => w.carReply c p false
  else w

/-- R136, R144: a good reply, as one RBM event. PANEL and POWER entries keep their toggle and are never in flight. -/
def Work.replyEvent (w : Work) (e : NodeEntry) (cycle : Nat) (r : NodeReply) : Work :=
  let kind := e.classify r
  let settled := e.settled r cycle
  let w := w.settleConditions e r
  let w :=
    match e.owner with
    | .floor f => (w.setEntry (settled.toggled r kind)).floorReply f kind r.payload
    | .car c => (w.setEntry (settled.toggled r kind)).liftReply c e.state kind r.payload
    | .panel p =>
      (w.setEntry settled).panelReport p e.address (decodeConditions r.payload) ((byteAt r.payload 8).testBit 0)
    | .power => (w.setEntry settled).powerReport e.address (decodePower r.payload)
  w.endEvent

/-! ## The node set (R146) -/

/-- R146: an entry is kept when its address, its expected type and its owner are unchanged. -/
def NodeEntry.isOf (e : NodeEntry) (c : NodeConfig) : Bool :=
  e.address = c.address && e.type = c.type && e.owner = c.owner

/-- R146: the entry of a configured address: the old one kept, or a fresh one. -/
def entryFor (old : List NodeEntry) (c : NodeConfig) : NodeEntry :=
  (old.find? fun e => e.isOf c).getD (NodeEntry.fresh c)

/-- R67, R121, R146: the doors and the join of a floor whose node has another address, or no longer one: the changes held
until then move into the desired values, unconfirmed. -/
def Work.floorReaddressed (w : Work) (f : Nat) : Work := ((doorsOf [f]).foldl Work.doorReaddressed w).joinReaddressed f

/-- R146: an entry that was removed: its conditions inactive, in the order of the rule (assumption 50), and its owner
told. A floor left without a node is taken as one whose address changed (assumption 56). -/
def Work.entryRemoved (w : Work) (e : NodeEntry) : Work :=
  let w := w.reportChange .nodeLost e.address (e.state = .lost) false
  let w := (w.reportChange .nodeType e.address e.typeActive false).reportChange .nodeFault e.address e.nodeFault false
  match e.owner with
  | .floor f =>
    let hasNode := (w.entryOf (.floor f)).isSome
    let w := w.speakerRemoved f hasNode
    if hasNode then w else w.floorReaddressed f
  | .panel p => (w.setPanelStale p true).setPanelTrouble p e.address false
  | .car _ => w
  | .power => w.powerRemoved e.address

/-- R146, R67, R88, R121: the owner of an added entry is told: the changes held until then move into the desired values.
A change the owners make in this event is held, because the entry is UNKNOWN (R134). A car of which the old table still
held an entry, present at the time or not, is taken as a return when it is first heard, and any other car, readdressed
by a later write or not, as first heard (assumption 39). -/
def Work.entryAdded (old : List NodeEntry) (w : Work) (c : NodeConfig) : Work :=
  match c.owner with
  | .floor f => w.floorReaddressed f
  | .car i => w.carReaddressed i (old.any fun e => e.owner = .car i)
  | .panel _ => w
  | .power => w

/-- R146: the node set taken at a cycle start. The owners of all removed entries are told before those of any added one,
each in ascending address (assumption 51). -/
def Work.takeNodeSet (w : Work) : Work :=
  let old := w.rbm.nodes
  let set := sortedNodeSet w.map
  let removed := old.filter fun e => !(set.any e.isOf)
  let added := set.filter fun c => !(old.any fun e => e.isOf c)
  let w := w.setRbm { w.rbm with nodes := set.map (entryFor old) }
  (added.foldl (Work.entryAdded old) (removed.foldl Work.entryRemoved w)).endEvent

/-- R135: a cycle starts with the node set it takes; its first address is polled. A cycle without addresses is empty and
ends at once. -/
def Work.startCycle (w : Work) : Work :=
  let w := w.takeNodeSet
  (w.setRbm { w.rbm with toPoll := w.rbm.nodes.map NodeEntry.address }).nextPoll

end Sys2Proof.Machine
end

