-- ==== Sys2Proof/Machine/Store.lean ====
section
/-! DEFINITION. MST's mechanisms (Chapter 10): the load (R182), the state after a reset (R160, R174), START (R169), the
store operation (R180, R181), and an accepted MAP_WRITE with its hand-ons (R176, R178, R67). -/

namespace Sys2Proof.Machine

def blockIndices : List Nat := List.range 11

/-! ## Loading -/

/-- R182: the result of a block's load. -/
def Store.loadResult (st : Store) (b : Nat) : LoadResult :=
  if !(vget st.marks b false) then .defaulted
  else if st.errors.any fun e => e.block = b && e.error = .uncorrectable then .defaulted
  else if st.errors.any fun e => e.block = b then .corrected
  else .clean

/-- R182, R183: one block of the working map loaded; a DEFAULTED block keeps the defaults. -/
def loadBlock (st : Store) (m : Memory) (b : Nat) : Memory :=
  if st.loadResult b = .defaulted then m else m.storeBlock b fun o => mapByte st.bytes b o

/-- R182: the working map as loaded. -/
def Store.load (st : Store) : Memory := blockIndices.foldl (loadBlock st) []

/-- R174: what MST keeps of a block after its load. -/
def BlockStatus.loaded (r : LoadResult) : BlockStatus := ⟨r, r ≠ .clean, false, r = .corrected, r = .defaulted⟩

/-- MST after a reset: the store as it stands, with the words whose cells have gone bad. -/
def Mst.afterReset (m : Mst) (inputs : ResetInputs) : Mst :=
  let st : Store := { m.store with errors := m.store.errors ++ inputs.cellErrors }
  { map := st.load, blocks := Vector.ofFn fun b : Fin 11 => BlockStatus.loaded (st.loadResult b), writing := none,
    lastStore := .none, store := st }

/-- R91: the banks' recall floors of a map while no lobby is in alarm. -/
def banksOf (m : Memory) : Vector Bank 2 := Vector.ofFn fun b : Fin 2 => ⟨effectivePrimary m b, .primary⟩

/-- R160, R166: any of the three resets. Every block takes its after-reset values under the map as loaded; the store
outlives the reset, and so does the queue of commands, which is no part of the TF240. -/
def State.afterReset (s : State) (cause : ResetCause) (inputs : ResetInputs) : State :=
  let mst := s.mst.afterReset inputs
  { State.reset with
    mst := mst
    cru := { Cru.reset with banks := banksOf mst.map }
    rbm := { Rbm.reset with nodes := (sortedNodeSet mst.map).map NodeEntry.fresh }
    hlc := { Hlc.reset with speed := if inputs.baudselHigh then .baud115200 else .baud19200, resetCause := cause }
    pending := s.pending }

/-- R159: the STORE conditions of the load, in ascending block index. -/
def Work.reportLoads (w : Work) : Work :=
  blockIndices.foldl
    (fun w b =>
      (w.reportChange .blockCorrected b false (w.block b).correctedActive).reportChange .blockDefaulted b false
        (w.block b).defaultedActive) w

/-- R169: START is posted, reception and host-silence supervision begin, and TRC takes the STORE conditions. -/
def State.startUp (s : State) : State :=
  let w := Work.begin s
  let w := w.post .start (startBody s)
  let w := w.setHlc { w.hlc with started := true, lastValidAt := w.uptime }
  w.reportLoads.finish

/-! ## The store operation -/

/-- R180: the writing of a block begins: its completion mark is cleared. -/
def Work.beginBlock (w : Work) (b : Nat) : Work :=
  w.setMst { w.mst with
    writing := some b, store := { w.mst.store with marks := vset w.mst.store.marks b false } }

/-- R180 step 4: block `b` of the store holds the working map's words, each sound, and its completion mark is set. -/
def Store.verified (st : Store) (m : Memory) (b : Nat) : Store :=
  { bytes := st.bytes.setBlock b fun o => m.read (256 * b + o), marks := vset st.marks b true,
    errors := st.errors.filter fun e => e.block ≠ b }

/-- R180: the status of a block that was written and verified. -/
def BlockStatus.verified (r : BlockStatus) : BlockStatus :=
  { r with modified := false, writeFailed := false, correctedActive := false, defaultedActive := false }

/-- R180, R181: the store operation ends, with its MAP_STORED notice. -/
def Work.endStore (w : Work) (result : LastStore) (b : Nat) : Work :=
  (w.setMst { w.mst with writing := none, lastStore := result }).post .mapStored
    (mapStoredBody result b)

/-- R180: the block being written was verified; its conditions go inactive in the order of the rule (assumption 50). -/
def Work.blockVerified (w : Work) (b : Nat) : Work :=
  let r := w.block b
  let w := w.setMst { w.mst with store := w.mst.store.verified w.map b }
  let w := w.setBlock b r.verified
  let w := (w.reportChange .writeFailed b r.writeFailed false).reportChange .blockCorrected b r.correctedActive false
  let w := w.reportChange .blockDefaulted b r.defaultedActive false
  if b < 10 then w.beginBlock (b + 1) else w.endStore .ok 10

/-- R181, R174: the block's read-back did not agree: the store ends FAILED at it, and the block stands modified, since
the store would load it DEFAULTED (assumption 35). -/
def Work.blockFailed (w : Work) (b : Nat) : Work :=
  let r := w.block b
  let w := (w.setBlock b { r with modified := true, writeFailed := true }).reportChange .writeFailed b r.writeFailed true
  w.endStore (.failed b) b

/-! ## An accepted MAP_WRITE -/

/-- R67: a door that stops being present: its claim returned, its conditions inactive, its record reset but for the
strike, which is settled with LOCK as the wanted value. The conditions are handed in the order of the rule (assumption
50). -/
def Work.removeDoor (w : Work) (d : Nat) : Work :=
  let r := w.door d
  let w := w.setDoor d
    { Door.reset with desired := r.desired, confirmed := r.confirmed, pendingDesired := r.pendingDesired }
  let w := (w.reportChange .strikeMismatch d r.faulted false).reportChange .doorHeld d r.held false
  let w := w.reportChange .doorDisabled d (r.state = .disabled) false
  ((w.addMoved d).markDoor d).returnClaim (.door d)

/-- R67: a door at a map write. A door that becomes present enters LOCKED as its after-reset record has it; one that a
regime start of the same write has already taken up (R2, R75) keeps the state it took (assumption 18). The reset record
also drops a LOCK held since the door was removed, while its RELEASE is in flight (assumption 46). -/
def Work.doorAtWrite (old : Memory) (w : Work) (d : Nat) : Work :=
  match doorPresent old d, doorPresent w.map d with
  | true, false => w.removeDoor d
  | false, true => if (w.door d).state = .locked then w.setDoor d .reset else w
  | _, _ => w

/-- R67: DRU takes a map change as one event. -/
def Work.druAtWrite (w : Work) (old : Memory) : Work := (doorIndices.foldl (Work.doorAtWrite old) w).endEvent

/-- Whether two maps differ in a block. -/
def blockDiffers (a b : Memory) (k : Nat) : Bool := (List.range 256).any fun o => mapByte a k o ≠ mapByte b k o

/-- R88: whether CRU reads a field that changed: LIFTS, the floor count, the direct_exit set, or which entries the node
set configures for its cars. -/
def cruReads (old new : Memory) : Bool :=
  blockDiffers old new 6 || floorCount old ≠ floorCount new || directExitMask old ≠ directExitMask new ||
    carIndices.any fun c => carPresent old c ≠ carPresent new c

/-- R110: ANS recomputes its floor sets when the floor count changed. -/
def Work.ansAtWrite (w : Work) (old : Memory) : Work :=
  if floorCount old = floorCount w.map then w else (w.recompute becauseEmptied).endEvent

/-- R178: the change handed to the blocks that read it, each as an event of its own, in the order of 10.1. RGC and HLC
keep no copy of their figures, templates are read slot by slot, and RBM takes the node set at the next cycle start. -/
def Work.handOn (w : Work) (old : Memory) : Work :=
  let w := (w.zevAtWrite old).druAtWrite old
  let w := if cruReads old w.map then w.cruAtWrite old else w
  (w.ansAtWrite old).lbuAtWrite old

/-- R176: the bytes of a block under a write, before its fields take their stored values. -/
def writtenByte (m : Memory) (b offset : Nat) (data : List Byte) (o : Nat) : Nat :=
  if offset ≤ o ∧ o < offset + data.length then byteAt data (o - offset) else mapByte m b o

/-- R176: the working map after a write. -/
def mapWritten (m : Memory) (b offset : Nat) (data : List Byte) : Memory :=
  m.storeBlock b (writtenByte m b offset data)

/-- R178: an accepted write: the map changed, the modified flag set and the change handed on, if any stored byte
changed. -/
def Work.acceptWrite (w : Work) (b : Nat) (m : Memory) : Work :=
  let old := w.map
  if m = old then w
  else
    let w := w.setBlock b { w.block b with modified := true }
    (w.setMst { w.mst with map := m }).handOn old

end Sys2Proof.Machine
end

