-- ==== Sys2Proof/Machine/Serve.lean ====
section
/-! DEFINITION. HLC's serving of the oldest buffered request (R163, R164, R172): which request may be served, the
response, and the return to HOSTED. -/

namespace Sys2Proof.Machine

/-- 9.3.1: the codes of the request catalogue. -/
def catalogue : List Nat :=
  [0x01, 0x02, 0x04, 0x05, 0x06, 0x07] ++ ([0x10, 0x11, 0x12, 0x13, 0x14, 0x15, 0x16, 0x17, 0x18, 0x19] ++
    ([0x20, 0x21, 0x24, 0x25, 0x26, 0x27, 0x28, 0x29] ++ ([0x2C, 0x2D, 0x2E, 0x2F, 0x30, 0x31, 0x32] ++
      [0x34, 0x35, 0x36, 0x37, 0x38, 0x3C, 0x3D, 0x3E])))

def Transmitter.sendingResponseNow : Transmitter → Bool
  | .sendingResponse _ => true
  | .sendingNotice _ => false
  | .idle => false

/-- R163: the request that may be served: the oldest in the buffer, while no response is pending or being sent. -/
def State.servable (s : State) : Option Request :=
  if s.hlc.started && s.hlc.response.isNone && !s.hlc.transmitter.sendingResponseNow then s.hlc.buffer.head? else none

/-- What an owning rule makes of a request: the work it leaves, the RESULT, and what the response carries after it. -/
structure Answer where
  work : Work
  result : Result
  fields : List Byte := []

/-- R164: a refusal carries out none of the changes asked for and carries RESULT alone. -/
def Answer.refuse (w : Work) (r : Result) : Answer := ⟨w, r, []⟩

/-- R164: the response becomes pending, with the request's code and TAG. -/
def Work.respond (w : Work) (req : Request) (r : Result) (fields : List Byte) : Work :=
  w.setHlc { w.hlc with response := some ⟨req.code, req.tag, byte r.code :: fields⟩ }

/-- R172: a request served in AUTONOMOUS returns the mode to HOSTED at the end of its event. -/
def Work.returnToHosted (w : Work) : Work :=
  if w.hlc.mode = .autonomous then
    let w := w.setHlc { w.hlc with mode := .hosted }
    (w.post .link (linkBody w.toState .request)).modeToRgc
  else w

/-- R164: a request answered by a rule: the rule's event, the response, and the return to HOSTED. The response is formed
before that return (R165, assumption 41). -/
def State.answer (s : State) (req : Request) (rule : Work → List Byte → Answer) : State :=
  let a := rule (Work.begin s) req.body
  (a.work.respond req a.result a.fields).returnToHosted.finish

/-- R164: the oldest request is served when its code is among those accepted; otherwise the event does not occur
(assumption 3). -/
def State.serveWhere (s : State) (accepts : Nat → Bool) (rule : Work → List Byte → Answer) : State :=
  match s.servable with
  | some req => if accepts req.code then s.answer req rule else s
  | none => s

/-- R164: the body length is checked before the owning rule takes the request. -/
def checked (lengthOk : List Byte → Bool) (rule : Work → List Byte → Answer) (w : Work) (body : List Byte) : Answer :=
  if lengthOk body then rule w body else .refuse w .refusedRange

/-- A request of one code, with the length check of R164. -/
def State.serve (s : State) (code : Nat) (lengthOk : List Byte → Bool) (rule : Work → List Byte → Answer) : State :=
  s.serveWhere (fun c => c = code) (checked lengthOk rule)

/-- A request without a body that changes nothing but what its rule does. -/
def State.serveEmpty (s : State) (code : Nat) (rule : Work → Answer) : State :=
  s.serve code (lengthIs 0) fun w _ => rule w

/-- A request whose body is one byte. -/
def State.serveByte (s : State) (code : Nat) (rule : Work → Nat → Answer) : State :=
  s.serve code (lengthIs 1) fun w body => rule w (byteAt body 0)

/-- A query: it changes nothing, and refuses the values that a test does not admit. -/
def query (admits : Nat → Bool) (fields : State → Nat → List Byte) (w : Work) (n : Nat) : Answer :=
  if admits n then ⟨w, .ok, fields w.toState n⟩ else .refuse w .refusedRange

/-- An event that occurs while the part is started and a condition holds; otherwise the state stays (assumption 3). -/
def State.onEvent (s : State) (occurs : Bool) (f : Work → Work) : State := if occurs then s.whenStarted f else s

/-- The outcome of every command of this part. -/
abbrev Outcome := Host.Outcome State Fault Refusal

end Sys2Proof.Machine
end

