-- ==== Sys2Proof/Machine/BusCommands.lean ====
section
/-! DEFINITION. The commands of the riser bus (R132, R135 to R137) and the uptime second (R64). -/

namespace Sys2Proof.Machine

/-- R135: the next cycle starts when the last poll of the one before has ended. -/
def execCycleStart (s : State) : Outcome := .next (s.onEvent s.rbm.polling.isNone Work.startCycle)

/-- The end of a poll of a configured address, followed by the next request. -/
def State.onPoll (s : State) (f : Poll → NodeEntry → Work → Work) : State :=
  match s.rbm.polling with
  | some p =>
    match s.entryAt p.address with
    | some e => s.whenStarted fun w => (f p e w).nextPoll
    | none => s
  | none => s

/-- R136: a reply that passes every check; one that does not is no good reply. -/
def execGoodReply (reply : List Byte) (s : State) : Outcome :=
  .next (match s.rbm.polling with
    | some p =>
      match s.entryAt p.address with
      | some e =>
        match checkReply p.address e.type reply with
        | .good r => s.whenStarted fun w => (w.replyEvent e p.cycle r).nextPoll
        | .typeWrong => s
        | .bad => s
      | none => s
    | none => s)

/-- R132, R137: a reply that fails a check. -/
def execBadReply (reply : List Byte) (s : State) : Outcome :=
  .next (match s.rbm.polling with
    | some p =>
      match s.entryAt p.address with
      | some e =>
        match checkReply p.address e.type reply with
        | .good _ => s
        | .typeWrong => s.whenStarted fun w => (w.typeWrongEvent e).nextPoll
        | .bad => s.whenStarted fun w => (w.missEvent e).nextPoll
      | none => s
    | none => s)

/-- R132, R137: no reply within 8 ms. -/
def execReplyTimeout (s : State) : Outcome := .next (s.onPoll fun _ e w => w.missEvent e)

/-- R132, R137: a gap of more than 1 ms within a reply. -/
def execReplyGapTimeout (s : State) : Outcome := .next (s.onPoll fun _ e w => w.missEvent e)

/-- 0.8: the uptime after the next second. After 4,294,967,295 it is a free value. -/
def nextUptime (t : Nat) : Nat := if t < statLimit then t + 1 else Config.uptimeAfterLast.toNat

/-- R64: an uptime second, with the wait-list statistics. -/
def Work.uptimeSecond (w : Work) : Work :=
  Work.setLbu { w with uptime := nextUptime w.uptime }
    { w.lbu with stats := w.lbu.stats.second w.lbu.waitList.length }

/-- R64. -/
def execUptimeSecond (s : State) : Outcome := .next (s.whenStarted Work.uptimeSecond)

end Sys2Proof.Machine
end

