-- ==== Sys2Proof/Machine/DoorCarCommands.lean ====
section
/-! DEFINITION. The commands of the stair doors and the lift cars: the requests (R76 to R79, R99, R101, R102) and the
supervision timers (R83, R97). -/

namespace Sys2Proof.Machine

/-! ## Doors -/

/-- A request on a present door; any other index is refused with REFUSED_RANGE (R67). -/
def onDoor (rule : Work → Nat → Answer) (w : Work) (d : Nat) : Answer :=
  if doorPresent w.map d then rule w d else .refuse w .refusedRange

/-- R76: a manual release set on a door. -/
def Work.releaseDoor (w : Work) (d : Nat) : Work :=
  if (w.door d).manual then w
  else
    let w := w.setDoor d { w.door d with manual := true }
    match (w.door d).state with
    | .locked => (w.tryQueue d).endEvent
    | .relocking => (w.setDoor d { w.door d with reRequest := true }).endEvent
    | _ => w

def doorReleaseRule (w : Work) (d : Nat) : Answer :=
  if w.rgc.state ≠ .quiet then .refuse w .refusedState else ⟨w.releaseDoor d, .ok, []⟩

/-- R76. -/
def execDoorRelease (s : State) : Outcome := .next (s.serveByte 0x2C (onDoor doorReleaseRule))

/-- R77: the end of a manual release. -/
def Work.lockDoor (w : Work) (d : Nat) : Work :=
  if (w.door d).manual then ((w.setDoor d { w.door d with manual := false }).endOfDemand d).endEvent else w

def doorLockRule (w : Work) (d : Nat) : Answer :=
  if (w.floor (d / 2)).phase ≠ .none then .refuse w .refusedState else ⟨w.lockDoor d, .ok, []⟩

/-- R77. -/
def execDoorLock (s : State) : Outcome := .next (s.serveByte 0x2D (onDoor doorLockRule))

/-- R78: a door taken out of service. Its conditions are handed STRIKE_MISMATCH, DOOR_HELD, DOOR_DISABLED (assumption
50). -/
def Work.disableDoor (w : Work) (d : Nat) : Work :=
  if (w.door d).state = .disabled then w
  else
    let w := w.returnClaim (.door d)
    let r := w.door d
    let w := w.setDoor d { r with reRequest := false, mismatch := 0, faulted := false }
    let w := (w.reportChange .strikeMismatch d r.faulted false).setDoorState d .disabled
    (w.report .doorDisabled d true).endEvent

def doorDisableRule (w : Work) (d : Nat) : Answer := ⟨w.disableDoor d, .ok, []⟩

/-- R78. -/
def execDoorDisable (s : State) : Outcome := .next (s.serveByte 0x2E (onDoor doorDisableRule))

/-- R79: a disabled door returned to service. -/
def Work.enableDoor (w : Work) (d : Nat) : Work :=
  if (w.door d).state = .disabled then
    (((w.setDoorState d .locked).report .doorDisabled d false).tryQueue d).endEvent
  else w

def doorEnableRule (w : Work) (d : Nat) : Answer := ⟨w.enableDoor d, .ok, []⟩

/-- R79. -/
def execDoorEnable (s : State) : Outcome := .next (s.serveByte 0x2F (onDoor doorEnableRule))

/-- R83: whether a door has stood open for door_open_time. -/
def State.heldDue (s : State) (d : Nat) : Bool :=
  doorPresent s.map d && (s.door d).state.watched && !(s.door d).held &&
    (s.door d).heldSince.any fun t => t + doorOpenTime s.map ≤ s.uptime

/-- R83: held is set. -/
def Work.holdDoor (w : Work) (d : Nat) : Work :=
  (((w.setDoor d { w.door d with held := true }).markDoor d).report .doorHeld d true).endEvent

/-- R83. -/
def execDoorHeldExpiry (d : Nat) (s : State) : Outcome := .next (s.onEvent (s.heldDue d) fun w => w.holdDoor d)

/-! ## Cars -/

/-- A request on a present car; any other index is refused with REFUSED_RANGE (R86). -/
def onCar (rule : Work → Nat → Answer) (w : Work) (c : Nat) : Answer :=
  if carPresent w.map c then rule w c else .refuse w .refusedRange

/-- R99: whether a car may be granted to the firefighters. -/
def State.grantable (s : State) (c : Nat) : Bool :=
  (s.car c).state = .parked && carEligible s.map c && (s.car c).key = some true &&
    (carIndices.filter fun i => (s.car i).state = .firefighter).length < eligibleCount s.map

/-- R99: the car handed to the firefighters; its target is kept. -/
def Work.grantCar (w : Work) (c : Nat) : Work :=
  ((w.setCar c { w.car c with state := .firefighter }).settleCar c).endEvent

def grantRule (w : Work) (c : Nat) : Answer :=
  if w.grantable c then ⟨w.grantCar c, .ok, []⟩ else .refuse w .refusedState

/-- R99. -/
def execFirefighterGrant (s : State) : Outcome := .next (s.serveByte 0x30 (onCar grantRule))

/-- R101. -/
def endRule (w : Work) (c : Nat) : Answer :=
  if (w.car c).state = .firefighter then ⟨(w.issueRecall c).endEvent, .ok, []⟩ else .refuse w .refusedState

/-- R101. -/
def execFirefighterEnd (s : State) : Outcome := .next (s.serveByte 0x31 (onCar endRule))

/-- R102: the states from which a car is returned. -/
def CarState.returnable : CarState → Bool
  | .parked => true
  | .shutDown => true
  | .heldOut => true
  | .recallIssued => true
  | .recalling => true
  | .inService => false
  | .firefighter => false
  | .lost => false

/-- R102: a car returned to service, if its state is returnable. Its conditions are handed in the order in which R102
names them (assumption 50). -/
def Work.returnCar (w : Work) (c : Nat) : Work :=
  if (w.car c).state.returnable then
    let w := (w.setHeldOut c false).clearLate c
    let w := w.setCar c
      { w.car c with state := .inService, target := none, recallStarted := none, shutdownDue := false }
    w.settleCar c
  else w

/-- R102: one car named. -/
def returnOneRule (w : Work) (c : Nat) : Answer :=
  match (w.car c).state with
  | .firefighter => .refuse w .refusedState
  | .lost => .refuse w .refusedState
  | _ => ⟨(w.returnCar c).endEvent, .ok, []⟩

/-- R102: CAR_RETURN of one car, or of all cars (0xFF). -/
def carReturnRule (w : Work) (n : Nat) : Answer :=
  if n ≠ 0xFF ∧ carPresent w.map n = false then .refuse w .refusedRange
  else if w.rgc.state ≠ .quiet then .refuse w .refusedState
  else if n = 0xFF then ⟨((presentCars w.map).foldl Work.returnCar w).endEvent, .ok, []⟩
  else returnOneRule w n

/-- R102. -/
def execCarReturn (s : State) : Outcome := .next (s.serveByte 0x32 carReturnRule)

/-- R97: the states in which a late recall is watched. -/
def CarState.underRecall : CarState → Bool
  | .recallIssued => true
  | .recalling => true
  | .lost => true
  | .inService => false
  | .parked => false
  | .firefighter => false
  | .heldOut => false
  | .shutDown => false

/-- R97: whether a recall is late. -/
def State.lateDue (s : State) (c : Nat) : Bool :=
  carPresent s.map c && (s.car c).state.underRecall && !(s.car c).late &&
    (s.car c).recallStarted.any fun t => t + recallTime s.map ≤ s.uptime

/-- R97: late is set. -/
def Work.becomeLate (w : Work) (c : Nat) : Work :=
  ((w.setCar c { w.car c with late := true }).report .recallLate c true).endEvent

/-- R97. -/
def execRecallLateExpiry (c : Nat) (s : State) : Outcome := .next (s.onEvent (s.lateDue c) fun w => w.becomeLate c)

end Sys2Proof.Machine
end

