-- ==== Sys2Proof/Machine/FireCommands.lean ====
section
/-! DEFINITION. The commands of the zones and the regime: disablement (R14, R15), the regime requests (R36, R38 to R40,
R43), the window expiry (R9), and the events of the regime clock (R27, R37, R39, R40). -/

namespace Sys2Proof.Machine

/-! ## Zones -/

/-- R14. -/
def Work.disableZone (w : Work) (z : Nat) : Work :=
  if (w.zone z).eval = .disabled then w
  else (w.report .zoneDisabled z true).zoneChanged z ((w.zone z).settledIn .disabled) .disable

def zoneDisableRule (w : Work) (z : Nat) : Answer :=
  if z < 128 then ⟨w.disableZone z, .ok, []⟩ else .refuse w .refusedRange

/-- R14. -/
def execZoneDisable (s : State) : Outcome := .next (s.serveByte 0x20 zoneDisableRule)

/-- R15: the record of an enabled zone: QUIET, or a recorded ALARM taken as an edge. -/
def State.enabled (s : State) (z : Nat) : Zone := s.restarted z (s.zone z)

/-- R15. -/
def Work.enableZone (w : Work) (z : Nat) : Work :=
  if (w.zone z).eval = .disabled then (w.report .zoneDisabled z false).zoneChanged z (w.enabled z) .enable else w

def zoneEnableRule (w : Work) (z : Nat) : Answer :=
  if z < 128 then ⟨w.enableZone z, .ok, []⟩ else .refuse w .refusedRange

/-- R15. -/
def execZoneEnable (s : State) : Outcome := .next (s.serveByte 0x21 zoneEnableRule)

/-- R9: whether a zone's window has expired. -/
def State.windowOver (s : State) (z : Nat) : Bool :=
  z < 128 && (s.zone z).eval = .verifying && (s.zone z).deadline.any fun t => t ≤ s.uptime

/-- R9. -/
def execZoneWindowExpiry (z : Nat) (s : State) : Outcome :=
  .next (s.onEvent (s.windowOver z) fun w => w.zoneChanged z (w.zone z).expired .expiry)

/-! ## The regime requests -/

/-- R40. -/
def generalRule (w : Work) : Answer :=
  ⟨if w.rgc.state = .general then w
    else w.rgcEvent (w.rgc.enterGeneral w.map) { started := !w.rgc.state.running }, .ok, []⟩

/-- R40. -/
def execGeneralEvacuation (s : State) : Outcome := .next (s.serveEmpty 0x24 generalRule)

/-- R38: HOLD_EXTENSION. -/
def holdRule (w : Work) : Answer :=
  if w.rgc.state = .quiet then .refuse w .refusedState
  else if w.rgc.hold then ⟨w, .ok, []⟩
  else ⟨w.rgcEvent { w.rgc with hold := true } {}, .ok, []⟩

/-- R38. -/
def execHoldExtension (s : State) : Outcome := .next (s.serveEmpty 0x25 holdRule)

/-- R38: RELEASE_EXTENSION, with the promotions that fall due. -/
def releaseRule (w : Work) : Answer :=
  if w.rgc.state = .quiet then .refuse w .refusedState
  else if w.rgc.hold then ⟨w.rgcEvent (({ w.rgc with hold := false } : Rgc).promote w.map) {}, .ok, []⟩
  else ⟨w, .ok, []⟩

/-- R38. -/
def execReleaseExtension (s : State) : Outcome := .next (s.serveEmpty 0x26 releaseRule)

/-- R36: FLOOR_CLEAR. -/
def floorClearRule (w : Work) (f : Nat) : Answer :=
  if !(floorPresent w.map f) then .refuse w .refusedRange
  else if (w.floor f).phase ≠ .evacuate then .refuse w .refusedState
  else ⟨w.rgcEvent (w.rgc.clearFloor w.map f .host) {}, .ok, []⟩

/-- R36. -/
def execFloorClear (s : State) : Outcome := .next (s.serveByte 0x27 floorClearRule)

/-- R39: ALERT_MUTE. -/
def muteRule (w : Work) (body : List Byte) : Answer :=
  let t := word16At body 0
  if t < 30 ∨ 900 < t then .refuse w .refusedRange
  else if w.rgc.state ≠ .active then .refuse w .refusedState
  else ⟨w.rgcEvent { w.rgc with muteUntil := some (min (w.rgc.clock + t) 65535) } { regimeNotice := true }, .ok, []⟩

/-- R39. -/
def execAlertMute (s : State) : Outcome := .next (s.serve 0x28 (lengthIs 2) muteRule)

/-- R13: ZEV frees the confirmations whose conditions have gone, each with its ZONE notice, in ascending zone index
(assumption 43). -/
def Work.freeZones (w : Work) : Work :=
  (zoneIndices.filter fun z => (w.zone z).freeable).foldl Work.freeZone w

/-- R189: the fields of the response, with the number of zones freed; the counts are a byte each (assumption 12). -/
def resetFields (s : State) (freed : Nat) : List Byte :=
  e8 freed ++ eSet (fireSet s.map s.rgc .alarm) ++ eSet (fireSet s.map s.rgc .preAlarm) ++
    e8 (s.confirmedCount ZoneClass.isMachine) ++ e8 (s.confirmedCount ZoneClass.isFloorless)

/-- R43 to R45: RESET_REGIME. -/
def resetRule (w : Work) : Answer :=
  if w.rgc.state = .quiet then .refuse w .refusedState
  else
    let freed := (zoneIndices.filter fun z => (w.zone z).freeable).length
    let w := w.freeZones
    let r := w.rederive
    if w.nothingRemains r then
      let w := w.rgcEvent (r.toQuiet w.map) { returned := true }
      ⟨w, .ok, resetFields w.toState freed⟩
    else
      let w := w.rgcEvent r {}
      ⟨w, .partly, resetFields w.toState freed⟩

/-- R43. -/
def execResetRegime (s : State) : Outcome := .next (s.serveEmpty 0x29 resetRule)

/-! ## The regime clock -/

/-- R27: a clock second, while the regime is ACTIVE or GENERAL. -/
def execClockSecond (s : State) : Outcome :=
  .next (s.onEvent s.rgc.state.running fun w => w.rgcEvent (w.rgc.second w.map) {})

/-- R27: an expiry against the clock is taken when the clock second that reaches its time has been taken, or before
it. -/
def Rgc.reaches (r : Rgc) (t : Nat) : Bool := t ≤ r.clock + 1

/-- R37: whether a floor's clear timer expires. -/
def State.clearDue (s : State) (f : Nat) : Bool :=
  clearTime s.map ≠ 0 && floorPresent s.map f && (s.floor f).phase = .evacuate &&
    (s.floor f).evacuatingSince.any fun t => s.rgc.reaches (min (t + clearTime s.map) 65535)

/-- R37. -/
def execClearTimerExpiry (f : Nat) (s : State) : Outcome :=
  .next (s.onEvent (s.clearDue f) fun w => w.rgcEvent (w.rgc.clearFloor w.map f .timer) {})

/-- R39: whether the mute's time is reached. -/
def State.muteDue (s : State) : Bool := s.rgc.muteUntil.any s.rgc.reaches

/-- R39. -/
def execMuteExpiry (s : State) : Outcome :=
  .next (s.onEvent s.muteDue fun w => w.rgcEvent { w.rgc with muteUntil := none } {})

/-- R40: whether the auto-general time is reached. -/
def State.autoGeneralDue (s : State) : Bool :=
  s.rgc.state = .active && autoGeneralTime s.map ≠ 0 && s.rgc.reaches (autoGeneralTime s.map)

/-- R40. -/
def execAutoGeneralExpiry (s : State) : Outcome :=
  .next (s.onEvent s.autoGeneralDue fun w => w.rgcEvent (w.rgc.enterGeneral w.map) {})

end Sys2Proof.Machine
end

