-- ==== Sys2Proof/Machine/LinkCommands.lean ====
section
/-! DEFINITION. The commands of the resets, START and the host link: reception, PING, RESTART, unknown codes, the ends of
transmissions, and host-silence supervision (Chapter 9). -/

namespace Sys2Proof.Machine

def Work.setReceiver (w : Work) (r : Receiver) : Work := w.setHlc { w.hlc with receiver := r }

/-- R160: power-on reset. -/
def execPowerOnReset (i : ResetInputs) (s : State) : Outcome := .next (s.afterReset .powerOn i)

/-- R160: reset by nRST. -/
def execPinReset (i : ResetInputs) (s : State) : Outcome := .next (s.afterReset .pin i)

/-- R169: START, once after each reset. -/
def execStart (s : State) : Outcome := .next (if s.hlc.started then s else s.startUp)

/-- R170: host-silence supervision restarts, and HOST_SILENT becomes inactive. -/
def Work.restartSilence (w : Work) : Work :=
  (w.setHlc { w.hlc with lastValidAt := w.uptime, hostSilent := false }).reportChange .hostSilent 0
    w.hlc.hostSilent false

/-- R163: a valid request takes a place of the receive buffer, or is discarded while both are occupied. -/
def Work.buffer (w : Work) (r : Request) : Work :=
  if w.hlc.buffer.length < 2 then w.setHlc { w.hlc with buffer := w.hlc.buffer ++ [r] } else w

/-- R162: a valid frame has arrived; those of class 1 to 3 are discarded. -/
def Work.frameArrived (m : HostMessage) (w : Work) : Work :=
  let w := w.setReceiver .hunting
  if m.cls = 0 then w.restartSilence.buffer ⟨m.code, m.tag, m.body⟩ else w

/-- R162: the arrival of a valid frame. -/
def execRequestArrival (frame : List Byte) (s : State) : Outcome :=
  .next (match parseHostFrame frame with
    | some m => s.whenStarted (Work.frameArrived m)
    | none => s)

/-- R162: a frame abandoned for a gap. -/
def execFrameGapTimeout (s : State) : Outcome :=
  .next (s.onEvent (s.hlc.receiver = .receiving) fun w => w.setReceiver .hunting)

/-- R162: a frame abandoned for its LENGTH, a framing error or its CRC. -/
def execBadHostFrame (f : HostFrameFault) (s : State) : Outcome :=
  .next (s.onEvent (s.hlc.receiver = .receiving && abandons f) fun w => w.setReceiver .hunting)

/-- R162: SYNC in HUNTING. -/
def execHostSyncReceived (s : State) : Outcome :=
  .next (s.onEvent (s.hlc.receiver = .hunting) fun w => w.setReceiver .receiving)

/-- R164: a code outside the catalogue; the body is not read. -/
def execUnknownRequest (s : State) : Outcome :=
  .next (s.serveWhere (fun c => !(catalogue.contains c)) fun w _ => .refuse w .unknownRequest)

/-- R165: the fields of a PING response, as they stand before the return to HOSTED of R172: neither the link mode nor
the notices of that return are in them (assumption 41). The number of notices and the next sequence are a byte each
(assumption 12). -/
def pingFields (s : State) : List Byte :=
  let h := s.hlc
  e32 s.uptime ++ e8 h.mode.code ++ e8 h.resetCause.code ++ e8 h.speed.code ++ e8 h.notices.length ++ eFlag h.lost ++
    e8 h.seq ++ e16 partCode

/-- R165. -/
def execPing (s : State) : Outcome := .next (s.serveEmpty 0x01 fun w => ⟨w, .ok, pingFields w.toState⟩)

/-- R166: RESTART is accepted; the reset takes place when the response has been sent. -/
def execRestart (s : State) : Outcome :=
  .next (s.serveEmpty 0x02 fun w => ⟨w.setHlc { w.hlc with restartDue := true }, .ok, []⟩)

/-- R163, R167: a response has been sent: its request leaves the buffer and the transmitter is IDLE. With another
request in the buffer the arbiter chooses behind its serving, so that its response goes ahead of the notices; with none
it chooses at once (assumption 9). -/
def Hlc.responseEnded (h : Hlc) : Hlc :=
  let h : Hlc := { h with buffer := h.buffer.tail, transmitter := .idle }
  if h.buffer = [] then h.arbitrate else h

/-- R166, R167: the end of a response; that of an accepted RESTART resets the part. -/
def execResponseSent (i : ResetInputs) (s : State) : Outcome :=
  .next (match s.hlc.transmitter with
    | .sendingResponse _ =>
      if s.hlc.restartDue then s.afterReset .restart i
      else if s.hlc.started then { s with hlc := s.hlc.responseEnded }
      else s
    | .sendingNotice _ => s
    | .idle => s)

/-- R167: the end of a notice. -/
def execNoticeSent (s : State) : Outcome :=
  .next (match s.hlc.transmitter with
    | .sendingNotice _ => s.whenStarted fun w => w.setHlc { w.hlc with transmitter := .idle }
    | .sendingResponse _ => s
    | .idle => s)

/-- Whether a silence time has run out since the last valid request. -/
def State.silentFor (s : State) (t : Nat) : Bool := s.hlc.lastValidAt + t ≤ s.uptime

/-- R170: HOST_SILENT becomes active. -/
def Work.becomeSilent (w : Work) : Work :=
  (w.setHlc { w.hlc with hostSilent := true }).reportChange .hostSilent 0 w.hlc.hostSilent true

/-- R170: the short expiry. -/
def execShortExpiry (s : State) : Outcome :=
  .next (s.onEvent (s.silentFor (shortSilence s.map)) Work.becomeSilent)

/-- R128: ANS is told of the entry to AUTONOMOUS: TENANT ends. -/
def Work.endTenant (w : Work) : Work :=
  ((w.setGiven .tenant 0).recompute (becauseFor .tenant .autonomy)).endEvent

/-- R171: the entry to AUTONOMOUS: LINK, then RGC's part, then ANS's part. -/
def Work.becomeAutonomous (w : Work) : Work :=
  let w := w.setHlc { w.hlc with mode := .autonomous }
  (w.post .link (linkBody w.toState .silence)).modeToRgc.endTenant

/-- R171: the long expiry, while the mode is HOSTED. -/
def execLongExpiry (s : State) : Outcome :=
  .next (s.onEvent (s.hlc.mode = .hosted && s.silentFor (longSilence s.map)) Work.becomeAutonomous)

end Sys2Proof.Machine
end

