-- ==== Sys2Proof/Machine/MapCommands.lean ====
section
/-! DEFINITION. The commands of the building map and its store (Chapter 10). -/

namespace Sys2Proof.Machine

/-- R175 step 1: a block index above 10, a count outside 1 to 128, or a range past the block's end. -/
def mapRangeOk (block offset count : Nat) : Bool :=
  block ≤ 10 && 1 ≤ count && count ≤ 128 && offset + count ≤ 256

/-- R175 to R178: the checks of a MAP_WRITE in their order, and its acceptance. -/
def mapWriteRule (w : Work) (body : List Byte) : Answer :=
  let block := byteAt body 0
  let offset := byteAt body 1
  if !(mapRangeOk block offset (byteAt body 2)) then .refuse w .refusedRange
  else if w.rgc.state ≠ .quiet then .refuse w .refusedState
  else if w.mst.writing.isSome then .refuse w .mapBusy
  else
    let m := mapWritten w.map block offset (body.drop 3)
    match firstDuplicate (nodeCandidates m) [] with
    | some a => ⟨w, .refusedRange, e8 a⟩
    | none => ⟨w.acceptWrite block m, .ok, []⟩

/-- R175. -/
def execMapWrite (s : State) : Outcome := .next (s.serve 0x04 mapWriteLength mapWriteRule)

/-- R179: MAP_READ. The data bytes of the response stand without a count byte, as many as the request asked for
(assumption 12). -/
def mapReadRule (w : Work) (body : List Byte) : Answer :=
  let block := byteAt body 0
  let offset := byteAt body 1
  let count := byteAt body 2
  if mapRangeOk block offset count then
    ⟨w, .ok, (List.range count).map fun i => w.map.read (256 * block + offset + i)⟩
  else .refuse w .refusedRange

/-- R179. -/
def execMapRead (s : State) : Outcome := .next (s.serve 0x05 (lengthIs 3) mapReadRule)

/-- R180: MAP_STORE. -/
def mapStoreRule (w : Work) : Answer :=
  if w.mst.writing.isSome then .refuse w .mapBusy else ⟨w.beginBlock 0, .ok, []⟩

/-- R180. -/
def execMapStore (s : State) : Outcome := .next (s.serveEmpty 0x06 mapStoreRule)

/-- R180, R181: the end of the block being written. -/
def execMapStoreBlockDone (agrees : Bool) (s : State) : Outcome :=
  .next (match s.mst.writing with
    | some b => s.whenStarted fun w => if agrees then w.blockVerified b else w.blockFailed b
    | none => s)

/-- R179: the block index of a failed store. -/
def LastStore.block : LastStore → Option Nat
  | .failed b => some b
  | .ok => Option.none
  | .none => Option.none

/-- R179: the fields of a MAP_STATUS response. -/
def mapStatusFields (s : State) : List Byte :=
  (blockIndices.map fun b => e8 (s.block b).load.code ++ eFlag (s.block b).modified).flatten ++
    eFlag s.mst.writing.isSome ++ eOpt8 s.mst.writing ++ e8 s.mst.lastStore.code ++ eOpt8 s.mst.lastStore.block ++
    (blockIndices.map fun b => eFlag (s.block b).writeFailed ++ eFlag (s.block b).correctedActive ++
      eFlag (s.block b).defaultedActive).flatten

/-- R179. -/
def execMapStatus (s : State) : Outcome := .next (s.serveEmpty 0x07 fun w => ⟨w, .ok, mapStatusFields w.toState⟩)

end Sys2Proof.Machine
end

