-- ==== Sys2Proof/Machine/ReadCommands.lean ====
section
/-! DEFINITION. The queries: what each response carries, field by field in the order of its rule (R17, R46, R47, R65,
R85, R107, R130, R147, R158, R184). -/

namespace Sys2Proof.Machine

/-! ## RGC -/

/-- R47: a floor of the promotion queue. -/
def queueEntry (s : State) (f : Nat) : List Byte := e8 f ++ e16 (s.floor f).evacuateAt ++ e8 (s.floor f).schedRank

/-- R47. -/
def regimeFields (s : State) : List Byte :=
  let r := s.rgc
  e8 r.state.code ++ e16 r.clock ++ eFlag r.state.running ++ eFlag r.hold ++
    eOpt16 (r.muteUntil.map fun t => t - r.clock) ++ eOpt8 r.latestOrigin ++ e8 r.origins ++ e8 s.hlc.mode.code ++
    e8 (autonomyCode s.map) ++ e8 (floorCount s.map) ++ e16 (interval s.map) ++ e8 (stairCapacity s.map) ++
    e8 (stairCount s.map r) ++ eList (queueEntry s) r.queue

/-- R47. -/
def execReadRegime (s : State) : Outcome := .next (s.serveEmpty 0x10 fun w => ⟨w, .ok, regimeFields w.toState⟩)

/-- R47. The head of the promotion queue has position 0 (assumption 44). -/
def floorFields (s : State) (f : Nat) : List Byte :=
  let r := s.floor f
  eFlag (floorPresent s.map f) ++ eFlag (directExit s.map f) ++ e8 r.fireState.code ++ eFlag r.alarmLatch ++
    eFlag r.lobbyAlarm ++ eOpt16 r.firstAlarmAt ++ e8 r.alarmZones ++ e8 r.phase.code ++
    eOpt8 (r.cause.map Cause.code) ++ e16 r.evacuateAt ++ e8 r.schedRank ++ eOpt16 r.evacuatingSince ++
    eOpt8 (s.rgc.queue.findIdx? fun g => g = f)

/-- R47. -/
def execReadFloor (s : State) : Outcome := .next (s.serveByte 0x11 (query (fun n => n < 32) floorFields))

/-! ## ZEV -/

/-- R17. -/
def zoneFields (s : State) (z : Nat) : List Byte :=
  let r := s.zone z
  e8 (zoneField s.map z 0) ++ e8 (zoneField s.map z 1) ++ e8 (zoneField s.map z 2) ++ e16 (zoneWindow s.map z) ++
    e8 (zoneBank s.map z) ++ e8 (effectiveConfirm s.map z) ++ eOpt8 (effectiveFloor s.map z) ++
    e8 r.condition.code ++ eFlag r.stale ++ e8 r.eval.code ++ e8 r.count ++
    eOpt16 (r.deadline.map fun t => t - s.uptime) ++ e8 r.nuisance

/-- R17. -/
def execReadZone (s : State) : Outcome := .next (s.serveByte 0x12 (query (fun n => n < 128) zoneFields))

/-! ## DRU -/

/-- R85: a claim as LBU holds it: 0 absent, 1 waiting, 2 granted; then its level and its source. -/
def claimFields : Option Claim → List Byte
  | some c =>
    e8 (if c.waiting then 1 else 2) ++ e8 c.level ++ eOpt8 (c.source.map Source.code)
  | none => [0, 0xFF, 0xFF]

/-- R85. -/
def doorFields (s : State) (d : Nat) : List Byte :=
  let r := s.door d
  eFlag (doorPresent s.map d) ++ e8 r.state.code ++ eFlag r.manual ++ eFlag r.reRequest ++ e8 r.desired.code ++
    eFlag r.confirmed ++ eOpt8 (r.pendingDesired.map StrikeOrder.code) ++ eOpt8 (r.strike.map Strike.code) ++
    eOpt8 (r.position.map DoorPosition.code) ++ eFlag r.stale ++ e8 r.mismatch ++ eFlag r.faulted ++
    eOpt32 r.heldSince ++ eFlag r.held ++ eOpt32 (r.heldSince.map fun t => s.uptime - t) ++
    claimFields (s.lbu.claimOf (.door d))

/-- R85. -/
def execReadDoor (s : State) : Outcome := .next (s.serveByte 0x13 (query (fun n => n < 64) doorFields))

/-! ## CRU -/

/-- R107. The eligible count is one byte (assumption 12). -/
def carFields (s : State) (c : Nat) : List Byte :=
  let r := s.car c
  let b := carBank s.map c
  eFlag (carPresentBit s.map c) ++ e8 b ++ e8 (carNode s.map c) ++ eSet (carLandings s.map c) ++
    eFlag (carMarked s.map c) ++ eFlag (carPresent s.map c) ++ eFlag (carEligible s.map c) ++ e8 r.state.code ++
    eOpt8 (r.priorState.map CarState.code) ++ eOpt8 r.target ++ eCommand r.command ++ eFlag r.confirmed ++
    eOptCommand r.pendingCommand ++ eFlag r.shutdownDue ++ eOpt32 r.recallStarted ++ eFlag r.late ++
    eOpt8 r.position ++ eOpt8 (r.motion.map Motion.code) ++ eOpt8 (r.door.map CarDoor.code) ++
    eOpt8 (r.mode.map CarMode.code) ++ eOpt8 (r.key.map keyCode) ++ eOpt8 (r.applied.map Applied.code) ++
    eFlag r.stale ++ eOpt32 (r.recallStarted.map fun t => s.uptime - t) ++ e8 (s.bank b).recallFloor ++
    e8 (s.bank b).step.code ++ e8 (effectivePrimary s.map b) ++ eOpt8 (effectiveAlternate s.map b) ++
    e8 (eligibleCount s.map)

/-- R107. -/
def execReadCar (s : State) : Outcome := .next (s.serveByte 0x14 (query (fun n => n < 6) carFields))

/-! ## ANS -/

/-- R130: a row of the channel table. -/
def channelFields (c : Channel) : List Byte :=
  e8 c.state.code ++ eOpt8 (c.holder.map ProgramKind.priority) ++ eOpt8 (c.reservedFor.map ProgramKind.priority) ++
    e8 c.awaiting.code ++ eFlag c.busy ++ eFlag c.fault ++ eFlag c.faultCondition

/-- R130: the floors whose speaker_desired is a program's channel. -/
def State.joinedTo (s : State) (p : Program) (f : Nat) : Bool :=
  p.channel.any fun c => (s.join f).desired = .channel c

/-- R130. A field that R109 does not keep for the kind is carried as it stands in the record: an empty set, and 0 for
repeats_left (assumption 12). -/
def programFields (s : State) (k : ProgramKind) : List Byte :=
  let p := s.program k
  e8 p.state.code ++ eSet p.givenSet ++ eSet p.floorSet ++ eOpt8 p.template ++ eOpt8 p.channel ++ e8 p.slot ++
    e8 p.repeatsLeft ++ eFlag p.played ++ eOpt32 p.pauseUntil ++ eOpt32 p.phraseStarted ++
    eOpt8 (p.stopReason.map StopReason.code) ++ eOpt16 (p.pauseUntil.map fun t => t - s.uptime) ++
    eOpt32 (p.phraseStarted.map fun t => s.uptime - t) ++ eSet (floorSetWhere (s.joinedTo p)) ++
    eSet (floorSetWhere fun f => s.joinedTo p f && (s.join f).confirmed) ++
    (floorIndices.map fun f => eSelector (s.join f).selected).flatten ++
    eSet (floorSetWhere fun f => (s.join f).stale) ++ (channelIndices.map fun c => channelFields (s.channel c)).flatten

/-- R130: a code outside the six kinds is refused. -/
def readProgramRule (w : Work) (n : Nat) : Answer :=
  match ProgramKind.ofCode n with
  | some k => ⟨w, .ok, programFields w.toState k⟩
  | none => .refuse w .refusedRange

/-- R130. -/
def execReadProgram (s : State) : Outcome := .next (s.serveByte 0x15 readProgramRule)

/-! ## LBU -/

/-- R65: the claims in the order of the query: granted, then waiting. -/
def Lbu.listed (l : Lbu) : List Claim := l.grantedList ++ l.waitList

/-- R65: a claim of the list. -/
def claimEntry (c : Claim) : List Byte := e8 c.claimant.code ++ e8 c.level ++ eOpt8 (c.source.map Source.code)

/-- R65. The numbers of granted and of waiting claims are a byte each (assumption 12). -/
def budgetFields (s : State) (start : Nat) : List Byte :=
  let l := s.lbu
  let lost := (s.entryOf .power).any fun e => e.state = .lost
  e8 l.mode.code ++ eOpt8 (l.power.map fun p => p.source.code) ++ eOpt8 (l.power.map fun p => if p.low then 1 else 0) ++
    eFlag lost ++ ((List.range 7).map fun k => e8 (budgetFigure s.map k)).flatten ++ e8 (sharedPool s.map l.mode) ++
    e8 (l.used .shared) ++ e8 (l.used .doorReserve) ++ e8 (l.used .audioReserve) ++ e8 l.grantedList.length ++
    e8 l.waitList.length ++ eList claimEntry ((l.listed.drop start).take 40)

/-- R65. -/
def execReadBudget (s : State) : Outcome := .next (s.serveByte 0x16 (query (fun n => n < 70) budgetFields))

/-! ## TRC -/

/-- R158: a detail behind its position. -/
def detailEntry (p : Detail × Nat) : List Byte :=
  e8 p.2 ++ e8 p.1.kind.group.code ++ e8 p.1.subject ++ e8 p.1.kind.code ++ eFlag p.1.active ++ e32 p.1.latchedAt

/-- R158. -/
def troubleFields (s : State) (start : Nat) : List Byte :=
  e32 s.uptime ++ eTroubleState s.trc ++ eList detailEntry ((s.trc.details.zipIdx.drop start).take 16)

/-- R158. -/
def execReadTrouble (s : State) : Outcome := .next (s.serveByte 0x17 (query (fun n => n < 64) troubleFields))

/-! ## Statistics -/

/-- R46, R64: both sets of statistics to zero. -/
def Work.clearStats (w : Work) : Work :=
  (w.setRgc { w.rgc with stats := .zero }).setLbu { w.lbu with stats := .zero }

/-- R46: the statistics, zeroed after they have been read when CLEAR (bit 0) is given. -/
def readStatsRule (w : Work) (flags : Nat) : Answer :=
  ⟨if flags.testBit 0 then w.clearStats else w, .ok, eStats w.rgc.stats ++ eStats w.lbu.stats⟩

/-- R46. -/
def execReadStats (s : State) : Outcome := .next (s.serveByte 0x18 readStatsRule)

/-! ## RBM -/

/-- R147: the fields of a configured address. -/
def nodeFields (s : State) (e : NodeEntry) : List Byte :=
  1 :: (e8 e.type.code ++ e8 e.owner.index ++ e8 e.state.code ++ e8 e.misses ++ e16 e.totalMisses ++ e8 e.slips ++
    eFlag e.outToggle ++ eOpt8 (e.echo.map fun b => if b then 1 else 0) ++ eFlag e.inFlight ++ eFlag e.nodeFault ++
    eFlag e.typeActive ++ eOpt16 e.lastGoodCycle ++ e16 s.rbm.cycle ++ ePayload (s.desiredPayload e.owner) ++
    eFlag e.reported.isSome ++ ePayload (e.reported.getD []) ++ eFlag e.stale)

/-- R147: an address without an entry is said to be not configured, and nothing else. -/
def nodeAnswer (s : State) (a : Nat) : List Byte :=
  match s.entryAt a with
  | some e => nodeFields s e
  | none => [0]

/-- R147. -/
def execReadNode (s : State) : Outcome := .next (s.serveByte 0x19 (query (fun n => 1 ≤ n && n ≤ 48) nodeAnswer))

end Sys2Proof.Machine
end

