-- ==== Sys2Proof/Machine/TroubleCommands.lean ====
section
/-! DEFINITION. The commands of the trouble collection: masks (R154) and clearing (R152). -/

namespace Sys2Proof.Machine

/-- A request that names one group or all groups; a code outside the eight is refused with REFUSED_RANGE. -/
def onGroups (rule : Work → Nat → List Group → Work) (w : Work) (n : Nat) : Answer :=
  match groupScope n with
  | some gs => ⟨rule w n gs, .ok, []⟩
  | none => .refuse w .refusedRange

/-- R154: the masks of the named groups set to a value; a change posts one TROUBLE notice. -/
def Work.setMasks (value : Bool) (w : Work) (_ : Nat) (gs : List Group) : Work :=
  let masks := gs.foldl (fun v g => vset v g.code value) w.trc.masks
  if masks = w.trc.masks then w
  else
    let w := w.setTrc { w.trc with masks := masks }
    w.post .trouble (troubleBody .mask w.trc [])

/-- R154. -/
def execTroubleMask (s : State) : Outcome := .next (s.serveByte 0x3C (onGroups (Work.setMasks true)))

/-- R154. -/
def execTroubleUnmask (s : State) : Outcome := .next (s.serveByte 0x3D (onGroups (Work.setMasks false)))

/-- R152 step 1: the details that a clear of a scope keeps. -/
def Trc.keptBy (t : Trc) (gs : List Group) : List Detail :=
  t.details.filter fun d => !(gs.contains d.kind.group) || d.active

/-- R152 step 2: the groups of the scope whose markers a clear resets. -/
def Trc.unmarked (t : Trc) (gs : List Group) : List Group :=
  gs.filter fun g => vget t.markers g.code false && decide ((t.keptBy gs).length < 64)

/-- R152 steps 1 and 2. -/
def Trc.clear (t : Trc) (gs : List Group) : Trc :=
  { t with details := t.keptBy gs, markers := (t.unmarked gs).foldl (fun v g => vset v g.code false) t.markers }

/-- R152 step 3: a group's active conditions reported again. -/
def Work.reReport (w : Work) (g : Group) : Work :=
  let s := (w.activeConditions g).foldl (fun s c => s.takeCondition s.uptime ⟨c.1, c.2, true⟩) w.toState
  { w with toState := s }

/-- R152: TROUBLE_CLEAR of a scope. The CLEARED notice carries the collection as the removals leave it, before the
re-report (assumption 11). -/
def Work.clearTrouble (w : Work) (n : Nat) (gs : List Group) : Work :=
  let t := w.trc
  let removed := t.details.length - (t.keptBy gs).length
  let unmarked := t.unmarked gs
  let w := w.setTrc (t.clear gs)
  let w := if removed = 0 ∧ unmarked = [] then w else w.post .trouble (troubleBody .cleared w.trc (e8 n ++ e8 removed))
  let w := unmarked.foldl Work.reReport w
  if gs.contains .audio then w.returnChannels.endEvent else w

/-- R152. -/
def execTroubleClear (s : State) : Outcome := .next (s.serveByte 0x3E (onGroups Work.clearTrouble))

end Sys2Proof.Machine
end

