-- ==== Sys2Proof/Machine/VoiceCommands.lean ====
section
/-! DEFINITION. The commands of the announcement programs and the player port: LIVE, TENANT and TEST (R127 to R129), the
pause expiry (R117), the port's transactions (R123, R186) and the STATUS reply (R124). -/

namespace Sys2Proof.Machine

/-- R110: a request on a program: the floor sets recomputed, with the reason of an emptying it causes. -/
def Work.programRequest (w : Work) (k : ProgramKind) : Work := (w.recompute (becauseFor k .host)).endEvent

/-- R127: LIVE_START. -/
def liveStartRule (w : Work) (body : List Byte) : Answer :=
  ⟨(w.setGiven .live (setAt body 0)).programRequest .live, .ok, []⟩

/-- R127. -/
def execLiveStart (s : State) : Outcome := .next (s.serve 0x34 (lengthIs 4) liveStartRule)

/-- R127: LIVE_STOP: on LIVE in IDLE it changes nothing (assumption 27). -/
def liveStopRule (w : Work) : Answer :=
  ⟨if (w.program .live).state = .idle then w else (w.setGiven .live 0).programRequest .live, .ok, []⟩

/-- R127. -/
def execLiveStop (s : State) : Outcome := .next (s.serveEmpty 0x35 liveStopRule)

/-- R128: the range checks of a TENANT_START. -/
def tenantRangeOk (m : Memory) (given : FloorSet) (template repeats : Nat) : Bool :=
  template ≤ 15 && 1 ≤ repeats && repeats ≤ 20 && given &&& presentSet m ≠ 0

/-- R128: whether some present floor of a set has phase NONE. -/
def State.someFree (s : State) (given : FloorSet) : Bool :=
  floorIndices.any fun f => given.getLsbD f && floorPresent s.map f && (s.floor f).phase = .none

/-- R128: TENANT_START. -/
def tenantStartRule (w : Work) (body : List Byte) : Answer :=
  let given := setAt body 0
  let template := byteAt body 4
  let repeats := byteAt body 5
  let p := w.program .tenant
  if !(tenantRangeOk w.map given template repeats) then .refuse w .refusedRange
  else if p.state ≠ .idle ∨ w.hlc.mode = .autonomous ∨ w.someFree given = false then .refuse w .refusedState
  else
    let p' : Program := { p with givenSet := given, template := some template, repeatsLeft := repeats }
    ⟨(w.setProgram .tenant p').programRequest .tenant, .ok, []⟩

/-- R128. -/
def execTenantStart (s : State) : Outcome := .next (s.serve 0x36 (lengthIs 6) tenantStartRule)

/-- R128: TENANT_STOP. -/
def tenantStopRule (w : Work) : Answer :=
  ⟨if (w.program .tenant).state = .idle then w else (w.setGiven .tenant 0).programRequest .tenant, .ok, []⟩

/-- R128. -/
def execTenantStop (s : State) : Outcome := .next (s.serveEmpty 0x37 tenantStopRule)

/-- R129: TEST_START. -/
def testStartRule (w : Work) (body : List Byte) : Answer :=
  let given := setAt body 0
  let template := byteAt body 4
  let p := w.program .test
  if 15 < template ∨ given &&& presentSet w.map = 0 then .refuse w .refusedRange
  else if w.rgc.state ≠ .quiet ∨ p.state ≠ .idle then .refuse w .refusedState
  else
    let p' : Program := { p with givenSet := given, template := some template, repeatsLeft := 1 }
    ⟨(w.setProgram .test p').programRequest .test, .ok, []⟩

/-- R129. -/
def execTestStart (s : State) : Outcome := .next (s.serve 0x38 (lengthIs 5) testStartRule)

/-- R117: whether a program's pause ends. -/
def State.pauseDue (s : State) (k : ProgramKind) : Bool :=
  (s.program k).state = .playing && (s.program k).pauseUntil.any fun t => t ≤ s.uptime

/-- R117: the end of a PAUSE slot, or of the silent second before a repetition. -/
def Work.pauseEnds (w : Work) (k : ProgramKind) : Work :=
  let w :=
    if (w.program k).played then w.slotComplete k
    else (w.setProgram k { w.program k with pauseUntil := none }).beginSlot slotBound k 0
  w.runDuePass.endEvent

/-- R117. -/
def execPauseExpiry (k : ProgramKind) (s : State) : Outcome := .next (s.onEvent (s.pauseDue k) fun w => w.pauseEnds k)

/-! ## The player port -/

/-- R123: the command at the head of the list is sent. Once the list is empty the next STATUS transaction begins. -/
def Work.sendCommand (c : PlayerCommand) (w : Work) : Work :=
  w.setPlp ⟨w.plp.commands.tail, some c.bytes, w.plp.commands.tail.isEmpty⟩

/-- R123: PLAY. -/
def execPlay (s : State) : Outcome :=
  .next (match s.plp.commands.head? with
    | some (.play c n) => s.whenStarted (Work.sendCommand (.play c n))
    | _ => s)

/-- R123: STOP. -/
def execStop (s : State) : Outcome :=
  .next (match s.plp.commands.head? with
    | some (.stop c) => s.whenStarted (Work.sendCommand (.stop c))
    | _ => s)

/-- R123: ROUTE_LIVE. -/
def execRouteLive (s : State) : Outcome :=
  .next (match s.plp.commands.head? with
    | some (.routeLive c) => s.whenStarted (Work.sendCommand (.routeLive c))
    | _ => s)

/-- R186: the four bytes of a STATUS transaction. -/
def statusBytes : List Byte := [0x04, 0, 0, 0]

/-- R123: whether a STATUS transaction can have begun: the list is empty, or was so after the last transaction. -/
def Plp.statusBegins (p : Plp) : Bool := p.drained || p.commands.isEmpty

/-- R124: a STATUS transaction and its reply. Commands that the reply makes ANS issue are sent before the next one. -/
def Work.statusTransaction (w : Work) (r : StatusReply) : Work :=
  let w := (w.setPlp { w.plp with lastSent := some statusBytes }).takeStatus r
  w.setPlp { w.plp with drained := w.plp.commands.isEmpty }

/-- R123, R124. -/
def execStatus (r : StatusReply) (s : State) : Outcome :=
  .next (s.onEvent s.plp.statusBegins fun w => w.statusTransaction r)

/-- R124: whether a reply finds a channel busy for max_phrase_time after the command it awaits. -/
def State.phraseOver (s : State) (r : StatusReply) (c : Nat) : Bool :=
  let ch := s.channel c
  r.busy.getLsbD c && !(r.fault.getLsbD c) && s.timedOut c &&
    (ch.state = .stopping || (ch.state = .held && ch.awaiting = .phrase))

/-- R123, R124: a good STATUS reply at which a channel times out. -/
def execPhraseTimeout (r : StatusReply) (s : State) : Outcome :=
  .next (s.onEvent (s.plp.statusBegins && (!(badStatus r) && channelIndices.any (s.phraseOver r))) fun w =>
    w.statusTransaction r)

end Sys2Proof.Machine
end

