-- ==== Sys2Proof/Machine/Dispatch.lean ====
section
/-! DEFINITION. The meaning of every command: one arm per row of spec/opcode_table.json. -/

namespace Sys2Proof.Machine

def exec (i : Instr) (s : State) : Host.Outcome State Fault Refusal :=
  match i with
  | .powerOnReset inputs => Sys2Proof.Machine.execPowerOnReset inputs s
  | .pinReset inputs => Sys2Proof.Machine.execPinReset inputs s
  | .start => Sys2Proof.Machine.execStart s
  | .requestArrival frame => Sys2Proof.Machine.execRequestArrival frame s
  | .frameGapTimeout => Sys2Proof.Machine.execFrameGapTimeout s
  | .unknownRequest => Sys2Proof.Machine.execUnknownRequest s
  | .ping => Sys2Proof.Machine.execPing s
  | .restart => Sys2Proof.Machine.execRestart s
  | .mapWrite => Sys2Proof.Machine.execMapWrite s
  | .mapRead => Sys2Proof.Machine.execMapRead s
  | .mapStore => Sys2Proof.Machine.execMapStore s
  | .mapStoreBlockDone agrees => Sys2Proof.Machine.execMapStoreBlockDone agrees s
  | .mapStatus => Sys2Proof.Machine.execMapStatus s
  | .readRegime => Sys2Proof.Machine.execReadRegime s
  | .readFloor => Sys2Proof.Machine.execReadFloor s
  | .readZone => Sys2Proof.Machine.execReadZone s
  | .readDoor => Sys2Proof.Machine.execReadDoor s
  | .readCar => Sys2Proof.Machine.execReadCar s
  | .readProgram => Sys2Proof.Machine.execReadProgram s
  | .readBudget => Sys2Proof.Machine.execReadBudget s
  | .readTrouble => Sys2Proof.Machine.execReadTrouble s
  | .readStats => Sys2Proof.Machine.execReadStats s
  | .readNode => Sys2Proof.Machine.execReadNode s
  | .zoneDisable => Sys2Proof.Machine.execZoneDisable s
  | .zoneEnable => Sys2Proof.Machine.execZoneEnable s
  | .generalEvacuation => Sys2Proof.Machine.execGeneralEvacuation s
  | .holdExtension => Sys2Proof.Machine.execHoldExtension s
  | .releaseExtension => Sys2Proof.Machine.execReleaseExtension s
  | .floorClear => Sys2Proof.Machine.execFloorClear s
  | .alertMute => Sys2Proof.Machine.execAlertMute s
  | .resetRegime => Sys2Proof.Machine.execResetRegime s
  | .doorRelease => Sys2Proof.Machine.execDoorRelease s
  | .doorLock => Sys2Proof.Machine.execDoorLock s
  | .doorDisable => Sys2Proof.Machine.execDoorDisable s
  | .doorEnable => Sys2Proof.Machine.execDoorEnable s
  | .firefighterGrant => Sys2Proof.Machine.execFirefighterGrant s
  | .firefighterEnd => Sys2Proof.Machine.execFirefighterEnd s
  | .carReturn => Sys2Proof.Machine.execCarReturn s
  | .liveStart => Sys2Proof.Machine.execLiveStart s
  | .liveStop => Sys2Proof.Machine.execLiveStop s
  | .tenantStart => Sys2Proof.Machine.execTenantStart s
  | .tenantStop => Sys2Proof.Machine.execTenantStop s
  | .testStart => Sys2Proof.Machine.execTestStart s
  | .troubleMask => Sys2Proof.Machine.execTroubleMask s
  | .troubleUnmask => Sys2Proof.Machine.execTroubleUnmask s
  | .troubleClear => Sys2Proof.Machine.execTroubleClear s
  | .responseSent inputs => Sys2Proof.Machine.execResponseSent inputs s
  | .noticeSent => Sys2Proof.Machine.execNoticeSent s
  | .shortExpiry => Sys2Proof.Machine.execShortExpiry s
  | .longExpiry => Sys2Proof.Machine.execLongExpiry s
  | .cycleStart => Sys2Proof.Machine.execCycleStart s
  | .goodReply reply => Sys2Proof.Machine.execGoodReply reply s
  | .badReply reply => Sys2Proof.Machine.execBadReply reply s
  | .replyTimeout => Sys2Proof.Machine.execReplyTimeout s
  | .replyGapTimeout => Sys2Proof.Machine.execReplyGapTimeout s
  | .zoneWindowExpiry zone => Sys2Proof.Machine.execZoneWindowExpiry zone s
  | .clockSecond => Sys2Proof.Machine.execClockSecond s
  | .clearTimerExpiry floor => Sys2Proof.Machine.execClearTimerExpiry floor s
  | .muteExpiry => Sys2Proof.Machine.execMuteExpiry s
  | .autoGeneralExpiry => Sys2Proof.Machine.execAutoGeneralExpiry s
  | .doorHeldExpiry door => Sys2Proof.Machine.execDoorHeldExpiry door s
  | .recallLateExpiry car => Sys2Proof.Machine.execRecallLateExpiry car s
  | .pauseExpiry kind => Sys2Proof.Machine.execPauseExpiry kind s
  | .uptimeSecond => Sys2Proof.Machine.execUptimeSecond s
  | .play => Sys2Proof.Machine.execPlay s
  | .stop => Sys2Proof.Machine.execStop s
  | .routeLive => Sys2Proof.Machine.execRouteLive s
  | .status reply => Sys2Proof.Machine.execStatus reply s
  | .phraseTimeout reply => Sys2Proof.Machine.execPhraseTimeout reply s
  | .hostSyncReceived => Sys2Proof.Machine.execHostSyncReceived s
  | .badHostFrame fault => Sys2Proof.Machine.execBadHostFrame fault s

end Sys2Proof.Machine
end

