-- ==== Sys2Proof/Safety.lean ====
section
/-! DEFINITION. What counts as a safe run of the TF240: the bounds and the shapes that the manual gives its queues,
buffers, collections and copies of the map, and the account that LBU keeps; and the vocabulary of the statements: when a
request is served, what its response is, and what a command leaves alone. A record update such as
`{ t with trc := s.trc } = s` says that `t` and `s` agree in every field but the named ones. -/

namespace Sys2Proof.Machine

/-- R149: no two details of the collection have one key. -/
def Trc.keysDistinct (t : Trc) : Prop := t.details.Pairwise fun a b => a.keyed b.kind b.subject = false

/-- R148, R149: at most 64 details, no key twice. -/
def Trc.ok (t : Trc) : Prop := t.details.length ≤ 64 ∧ t.keysDistinct

/-- R160, R163, R164: at most 32 notices and two requests; a response is pending or being sent only for a request that
still holds its place, and never both. -/
def Hlc.ok (h : Hlc) : Prop :=
  h.notices.length ≤ 32 ∧ h.buffer.length ≤ 2 ∧
    (h.response.isSome ∨ h.transmitter.sendingResponseNow = true → h.buffer ≠ []) ∧
    (h.response.isSome → h.transmitter.sendingResponseNow = false)

/-- 10.1, R180: both copies of the map in canonical form, and the block being written one of the eleven. -/
def Mst.ok (m : Mst) : Prop := m.map.wf ∧ m.store.bytes.wf ∧ ∀ b, m.writing = some b → b < 11

/-- R51, R53: no claimant has two claims, and no source carries more than its capacity. -/
def Lbu.ok (l : Lbu) (cap : Capacity) : Prop :=
  (l.claims.map Claim.claimant).Nodup ∧ ∀ src, l.used src ≤ cap.of src

/-- What every step keeps. -/
def State.Inv (s : State) : Prop :=
  s.trc.ok ∧ s.hlc.ok ∧ s.mst.ok ∧ s.lbu.ok (capacityOf s.map s.lbu.mode)

end Sys2Proof.Machine

namespace Sys2Proof.Claims

open Sys2Proof Sys2Proof.Machine

/-- A request of a code is the one served next, and the link mode is HOSTED. -/
abbrev Serves (s : State) (code : Nat) (req : Request) : Prop :=
  s.servable = some req ∧ req.code = code ∧ s.hlc.mode = .hosted

/-- A request of a code is the one served next, in either link mode. -/
abbrev Asks (s : State) (code : Nat) (req : Request) : Prop := s.servable = some req ∧ req.code = code

/-- R164: a response copies the code and the TAG of its request and begins with RESULT. -/
def response (req : Request) (r : Result) (fields : List Byte) : Response := ⟨req.code, req.tag, byte r.code :: fields⟩

/-- The part with the response pending, or leaving at once when the transmitter is IDLE, and nothing else changed. -/
def answered (s : State) (req : Request) (r : Result) (fields : List Byte) : State :=
  { s with hlc := ({ s.hlc with response := some (response req r fields) }).arbitrate }

/-- From `s` to `t` the response became pending behind the notice being sent, or is being sent. -/
def Responds (s t : State) (req : Request) (r : Result) (fields : List Byte) : Prop :=
  (s.hlc.transmitter = .idle →
    t.hlc.transmitter = .sendingResponse (response req r fields).frame ∧ t.hlc.response = none) ∧
  ∀ f, s.hlc.transmitter = .sendingNotice f →
    t.hlc.transmitter = .sendingNotice f ∧ t.hlc.response = some (response req r fields)

/-- The link's own records, beside its queue, its response and its transmitter, are unchanged. -/
def LinkKept (s t : State) : Prop :=
  { t.hlc with
    notices := s.hlc.notices, lost := s.hlc.lost, seq := s.hlc.seq, response := s.hlc.response,
    transmitter := s.hlc.transmitter } = s.hlc

/-- The request was answered and the link's own records are unchanged. -/
def Done (s t : State) (req : Request) (r : Result) (fields : List Byte) : Prop :=
  Responds s t req r fields ∧ LinkKept s t

/-- The request was answered and nothing else changed but, in AUTONOMOUS, the link mode, which returns to HOSTED with the
notices of that return (R172). -/
def Reads (s t : State) (req : Request) (r : Result) (fields : List Byte) : Prop :=
  Responds s t req r fields ∧ { t with hlc := s.hlc } = s ∧
    { t.hlc with
      notices := s.hlc.notices, lost := s.hlc.lost, seq := s.hlc.seq, response := s.hlc.response,
      transmitter := s.hlc.transmitter, mode := s.hlc.mode } = s.hlc ∧
    t.hlc.mode = .hosted ∧ (s.hlc.mode = .hosted → t = answered s req r fields)

/-- Nothing changed but doors, programs, the account, payloads, the collection and the link. -/
def SupplyOnly (s t : State) : Prop :=
  { t with doors := s.doors, lbu := s.lbu, ans := s.ans, plp := s.plp, rbm := s.rbm, trc := s.trc, hlc := s.hlc } = s

/-- Nothing changed but what an RGC event and its hand-off may change. -/
def RegimeOnly (s t : State) : Prop :=
  { t with
    rgc := s.rgc, doors := s.doors, lbu := s.lbu, cru := s.cru, ans := s.ans, plp := s.plp, rbm := s.rbm, trc := s.trc,
    hlc := s.hlc } = s

/-- Nothing changed but the cars, their payloads, the collection and the link. -/
def CarsOnly (s t : State) : Prop := { t with cru := s.cru, rbm := s.rbm, trc := s.trc, hlc := s.hlc } = s

/-- R135, R137: a poll has ended: the next address of the cycle that has an entry is polled under the same cycle number,
or after the last the cycle has ended; the map, the uptime and the link's own records are unchanged. -/
def PollEnded (s t : State) : Prop :=
  t.rbm.polling.map Poll.address = (s.rbm.toPoll.head?.filter fun a => (s.entryAt a).isSome) ∧
    (∀ q, t.rbm.polling = some q → q.cycle = s.rbm.cycle) ∧ t.rbm.toPoll = s.rbm.toPoll.tail ∧
    t.rbm.cycle = (if s.rbm.toPoll = [] then (s.rbm.cycle + 1) % 65536 else s.rbm.cycle) ∧
    t.mst = s.mst ∧ t.uptime = s.uptime ∧ LinkKept s t

/-- Whether a command resets the part in a state (R160, R166). -/
def resets (s : State) : Instr → Bool
  | .powerOnReset _ => true
  | .pinReset _ => true
  | .responseSent _ =>
    s.hlc.restartDue && match s.hlc.transmitter with
      | .sendingResponse _ => true
      | _ => false
  | _ => false

/-- The code of each request (9.3.1). -/
def codeOf : Instr → Option Nat
  | .ping => some 0x01
  | .restart => some 0x02
  | .mapWrite => some 0x04
  | .mapRead => some 0x05
  | .mapStore => some 0x06
  | .mapStatus => some 0x07
  | .readRegime => some 0x10
  | .readFloor => some 0x11
  | .readZone => some 0x12
  | .readDoor => some 0x13
  | .readCar => some 0x14
  | .readProgram => some 0x15
  | .readBudget => some 0x16
  | .readTrouble => some 0x17
  | .readStats => some 0x18
  | .readNode => some 0x19
  | .zoneDisable => some 0x20
  | .zoneEnable => some 0x21
  | .generalEvacuation => some 0x24
  | .holdExtension => some 0x25
  | .releaseExtension => some 0x26
  | .floorClear => some 0x27
  | .alertMute => some 0x28
  | .resetRegime => some 0x29
  | .doorRelease => some 0x2C
  | .doorLock => some 0x2D
  | .doorDisable => some 0x2E
  | .doorEnable => some 0x2F
  | .firefighterGrant => some 0x30
  | .firefighterEnd => some 0x31
  | .carReturn => some 0x32
  | .liveStart => some 0x34
  | .liveStop => some 0x35
  | .tenantStart => some 0x36
  | .tenantStop => some 0x37
  | .testStart => some 0x38
  | .troubleMask => some 0x3C
  | .troubleUnmask => some 0x3D
  | .troubleClear => some 0x3E
  | _ => none

/-- The requests that read and change nothing, with what follows RESULT in their response to a body. -/
def queryFields (s : State) (body : List Byte) : Instr → Option (List Byte)
  | .mapRead =>
    let b := byteAt body 0
    let o := byteAt body 1
    let n := byteAt body 2
    if body.length = 3 ∧ b ≤ 10 ∧ 1 ≤ n ∧ n ≤ 128 ∧ o + n ≤ 256 then
      some ((List.range n).map fun i => Memory.read s.map (256 * b + o + i))
    else none
  | .mapStatus => if body = [] then some (mapStatusFields s) else none
  | .readRegime => if body = [] then some (regimeFields s) else none
  | .readFloor => if body.length = 1 ∧ byteAt body 0 < 32 then some (floorFields s (byteAt body 0)) else none
  | .readZone => if body.length = 1 ∧ byteAt body 0 < 128 then some (zoneFields s (byteAt body 0)) else none
  | .readDoor => if body.length = 1 ∧ byteAt body 0 < 64 then some (doorFields s (byteAt body 0)) else none
  | .readCar => if body.length = 1 ∧ byteAt body 0 < 6 then some (carFields s (byteAt body 0)) else none
  | .readProgram =>
    if body.length = 1 then (ProgramKind.ofCode (byteAt body 0)).map (programFields s) else none
  | .readBudget => if body.length = 1 ∧ byteAt body 0 < 70 then some (budgetFields s (byteAt body 0)) else none
  | .readTrouble => if body.length = 1 ∧ byteAt body 0 < 64 then some (troubleFields s (byteAt body 0)) else none
  | .readNode =>
    if body.length = 1 ∧ 1 ≤ byteAt body 0 ∧ byteAt body 0 ≤ 48 then some (nodeAnswer s (byteAt body 0)) else none
  | _ => none

/-- The commands whose event belongs to no fire rule: they read, or act on doors, cars, programs, the collection, the
store, the player or the link. -/
def noFireCommand : Instr → Bool
  | .requestArrival _ => true
  | .frameGapTimeout => true
  | .hostSyncReceived => true
  | .badHostFrame _ => true
  | .unknownRequest => true
  | .ping => true
  | .restart => true
  | .mapRead => true
  | .mapStore => true
  | .mapStoreBlockDone _ => true
  | .mapStatus => true
  | .readRegime => true
  | .readFloor => true
  | .readZone => true
  | .readDoor => true
  | .readCar => true
  | .readProgram => true
  | .readBudget => true
  | .readTrouble => true
  | .readNode => true
  | .doorRelease => true
  | .doorLock => true
  | .doorDisable => true
  | .doorEnable => true
  | .firefighterGrant => true
  | .firefighterEnd => true
  | .carReturn => true
  | .liveStart => true
  | .liveStop => true
  | .tenantStart => true
  | .tenantStop => true
  | .testStart => true
  | .troubleMask => true
  | .troubleUnmask => true
  | .troubleClear => true
  | .noticeSent => true
  | .shortExpiry => true
  | .doorHeldExpiry _ => true
  | .recallLateExpiry _ => true
  | .pauseExpiry _ => true
  | .uptimeSecond => true
  | .play => true
  | .stop => true
  | .routeLive => true
  | .status _ => true
  | .phraseTimeout _ => true
  | _ => false

/-- A reply frame of the riser bus (11.2): SYNC, ADDRESS, CONTROL with the direction, the type, the toggle, the fault and
the fresh flags, the second CONTROL byte, LENGTH, the payload and the CRC. -/
def replyFrame (address : Nat) (type : NodeType) (r : NodeReply) (second : Byte) : List Byte :=
  let control := 128 + 32 * type.code + (if r.toggle then 16 else 0) + (if r.fault then 8 else 0) +
    (if r.fresh then 4 else 0)
  let covered := byte address :: byte control :: second :: byte r.payload.length :: r.payload
  0x3A :: (covered ++ crcBytes covered)

/-- R41: the regime record at the entry to GENERAL: every present floor in ALERT in EVACUATE with cause GENERAL at the
clock, nothing queued, no mute. -/
def generalEntered (m : Memory) (r : Rgc) : Rgc :=
  { r.mapFloors (fun f => floorPresent m f && (r.floor f).phase = .alert) fun _ x =>
      { x with phase := .evacuate, cause := some .general, evacuatingSince := some r.clock } with
    state := .general, queue := [], muteUntil := none }

/-- R25, R26, R30: the regime record that a start leaves: the clock and the statistics at 0, no origin, no mute and hold
as it stood; the phases of the present floors set; the floor that caused the start, where one did, applied as an origin;
and, where the start enters GENERAL, that entry. -/
def regimeStarted (m : Memory) (general : Bool) (cause : Option Nat) (r : Rgc) : Rgc :=
  let zeroed : Rgc := { r with clock := 0, stats := ⟨0, 0, 0⟩, latestOrigin := none, origins := 0, muteUntil := none }
  let phased := zeroed.startPhases m
  let applied := match cause with
    | some o => phased.origin m o
    | none => phased
  if general then generalEntered m applied else { applied with state := .active }

/-- R18, R19: a floor's record after one of its floor zones has become CONFIRMED at a clock value. -/
def alarmRecorded (x : Floor) (clock : Nat) (lobby : Bool) : Floor :=
  { x with
    fireState := .alarm, alarmLatch := true, lobbyAlarm := x.lobbyAlarm || lobby,
    firstAlarmAt := if x.firstAlarmAt = none then some clock else x.firstAlarmAt,
    alarmZones := if x.firstAlarmAt = none then 1 else min (x.alarmZones + 1) 32 }

/-- R18: at least one floor zone of a floor is VERIFYING. -/
abbrev Verifies (s : State) (f : Nat) : Prop :=
  ∃ z < 128, zoneClass s.map z = .floorZone f ∧ (s.zone z).eval = .verifying

/-- R18: a floor's fire state, by its latch and the evaluation of its floor zones. -/
abbrev FireIs (s : State) (f : Nat) (fire : FireState) : Prop :=
  ((s.floor f).alarmLatch = true → fire = .alarm) ∧
    ((s.floor f).alarmLatch = false → Verifies s f → fire = .preAlarm) ∧
    ((s.floor f).alarmLatch = false → ¬ Verifies s f → fire = .normal)

/-- R24: from `u`, where a floor's fire state has just changed, to `r` the regime state is re-examined. -/
def Reexamined (m : Memory) (u r : Rgc) : Prop :=
  let among := fun st => ∃ g < 32, floorPresent m g = true ∧ (u.floor g).fireState = st
  (u.state = .quiet → among .preAlarm → ¬ among .alarm → r = { u with state := .alerted }) ∧
    (u.state = .quiet → ¬ among .preAlarm ∨ among .alarm → r = u) ∧
    (u.state = .alerted → ¬ among .preAlarm → r = { u with state := .quiet, hold := false }) ∧
    (u.state = .alerted → among .preAlarm → r = u) ∧ (u.state = .active ∨ u.state = .general → r = u)

/-- R18, R19, R21, R24, R25, R40: from `s` to `t` the evaluation of zone `z` alone has changed, and RGC has taken the
change. A confirmed floor zone starts the regime from QUIET or ALERTED with its floor as the cause, or its floor, where
it enters ALARM, is applied as an origin; and the floor's alarm record is taken at the clock that results. Another
change of a floor zone sets its floor's fire state by R18, and a changed fire state re-examines the regime. A confirmed
machine zone starts the regime without an origin, a confirmed floorless zone takes it to GENERAL from any state, and
another change of theirs leaves the regime and the floors as they are. -/
def ZoneToRegime (s t : State) (z : Nat) : Prop :=
  let starts := s.rgc.state = .quiet ∨ s.rgc.state = .alerted
  let confirmed := (t.zone z).eval = .confirmed
  let general := s.hlc.mode = .autonomous && escalates s.map
  (∀ f, zoneClass s.map z = .floorZone f → confirmed →
    let applied := if starts then regimeStarted s.map general (some f) s.rgc
      else if (s.floor f).fireState = .alarm then s.rgc
      else s.rgc.origin s.map f
    t.rgc = applied.mapFloors (fun g => g = f) fun _ x =>
      alarmRecorded x applied.clock (zoneKind s.map z = .liftLobby)) ∧
  (∀ f fire, zoneClass s.map z = .floorZone f → ¬ confirmed → FireIs { s with zev := t.zev } f fire →
    (fire = (s.floor f).fireState → t.rgc = s.rgc) ∧
    (fire ≠ (s.floor f).fireState →
      Reexamined s.map (s.rgc.mapFloors (fun g => g = f) fun _ x => { x with fireState := fire }) t.rgc)) ∧
  (∀ b, zoneClass s.map z = .machine b → confirmed →
    t.rgc = if starts then regimeStarted s.map general none s.rgc else s.rgc) ∧
  (zoneClass s.map z = .floorless → confirmed →
    t.rgc = if starts then regimeStarted s.map true none s.rgc
      else if s.rgc.state = .active then generalEntered s.map s.rgc
      else s.rgc) ∧
  ((∀ f, zoneClass s.map z ≠ .floorZone f) → ¬ confirmed → t.rgc = s.rgc)

/-- R21, R91, R93, R98: from `s` to `t` the evaluation of zone `z` alone has changed, and RGC has handed the change on to
CRU. A confirmed machine zone of bank b sets shutdown_due of every present car of the bank and shuts a PARKED one down; a
confirmation that starts the regime issues a recall to every present car IN_SERVICE, to its bank's recall floor, or holds
it out; and at such a start, and where a lobby_alarm changes, both recall floors are chosen anew. -/
def ZoneToCars (s t : State) (z : Nat) : Prop :=
  let confirmed := (t.zone z).eval = .confirmed
  let started := confirmed ∧ (s.rgc.state = .quiet ∨ s.rgc.state = .alerted)
  (∀ b, zoneClass s.map z = .machine b → confirmed → ∀ c < 6, carPresent s.map c = true → carBank s.map c = b →
    (t.car c).shutdownDue = true ∧
    ((s.car c).state = .parked → (s.car c).shutdownDue = false →
      (t.car c).state = .shutDown ∧ (t.car c).wanted = .shutdown)) ∧
  (started → ∀ c < 6, carPresent s.map c = true → (s.car c).state = .inService →
    let o := (t.bank (carBank s.map c)).recallFloor
    if (s.car c).mode = none ∨ (s.car c).mode = some .auto then
      (t.car c).target = some o ∧ (t.car c).recallStarted = some s.uptime ∧
        (t.car c).state =
          (if (s.car c).confirmed = true ∧ (s.car c).command = .recall o then .recalling else .recallIssued)
    else (t.car c).state = .heldOut ∧ (t.car c).target = none) ∧
  ((started ∨ ∃ f < 32, (t.floor f).lobbyAlarm ≠ (s.floor f).lobbyAlarm) → ∀ b < 2, t.bank b = t.chooseRecall b)

/-- The condition of a detail is active in the collection. -/
def Latched (t : Trc) (k : Kind) (n : Nat) : Prop := ∃ d ∈ t.details, d.kind = k ∧ d.subject = n ∧ d.active = true

end Sys2Proof.Claims
end

