-- ==== Sys2Proof/Certificates/Slice0/Obligations.lean ====
section
/-! DEFINITION. The statements for the provers, in the vocabulary of Safety.lean. A whole-state equation says that nothing
else changes. -/

open Sys2Proof Sys2Proof.Machine Sys2Proof.Claims

/-! ## The machine -/

/-- The queue of commands is the model's (assumption 7): a step takes the command in front and executes it with the rest
of the queue; with none waiting the part idles. -/
def Obligations.StepTakesTheFront : Prop :=
  ∀ (s : State) (c : Instr) (rest : List Instr),
    step { s with pending := c :: rest } = exec c { s with pending := rest } ∧
    step { s with pending := [] } = .next { s with pending := [] }

/-- The working map changes at MAP_WRITE and at a reset only (R174); the store changes at MAP_STORE, at the end of one
of its blocks, and at a reset, which adds the cells gone bad; the uptime advances at its own second and at nothing else
but a reset (0.8). A command leaves the queue of commands as it found it (the queue is the model's, assumption 7). -/
def Obligations.CommandsLeaveQueueMapAndUptime : Prop :=
  ∀ (c : Instr) (s t : State), exec c s = .next t →
    t.pending = s.pending ∧
    (resets s c = false →
      (c ≠ .mapWrite → t.mst.map = s.mst.map) ∧
      (c ≠ .mapStore → (∀ b, c ≠ .mapStoreBlockDone b) → t.mst.store = s.mst.store ∧ t.mst.writing = s.mst.writing) ∧
      (c ≠ .uptimeSecond → t.uptime = s.uptime))

/-- The state after reset meets what every step keeps. -/
def Obligations.ResetMeetsInvariant : Prop := State.reset.Inv

/-- Every step keeps the bounds and shapes that the manual gives the trouble collection (R148, R149), the notice queue,
the receive buffer and the response (R160, R163, R164), the two copies of the map (10.1), and LBU's ledger: no claimant
with two claims (R51), no source above its capacity (R53). It holds from every state that meets them. -/
def Obligations.StepKeepsInvariant : Prop := ∀ s t : State, s.Inv → step s = .next t → t.Inv

/-- Requests on doors, cars, programs, troubles, the store and the player, queries, and the link's own events reach
neither a zone nor the regime nor a floor, in either link mode. -/
def Obligations.OtherCommandsKeepFireRecords : Prop :=
  ∀ (c : Instr) (s t : State), exec c s = .next t → noFireCommand c = true → t.zev = s.zev ∧ t.rgc = s.rgc

/-- R11: a CONFIRMED zone stays CONFIRMED whatever its condition does: only a reset, a ZONE_DISABLE that names it, and a
RESET_REGIME served while its condition is not ALARM end it. -/
def Obligations.ConfirmedZoneStays : Prop :=
  ∀ (c : Instr) (s t : State) (z : Nat), exec c s = .next t → (s.zone z).eval = .confirmed → resets s c = false →
    (c = .zoneDisable → ∀ req, s.servable = some req → byteAt req.body 0 ≠ z) →
    (c = .resetRegime → (s.zone z).condition = .alarm) →
    (t.zone z).eval = .confirmed

/-- A regime that is ACTIVE or GENERAL stays so until a RESET_REGIME or a reset, and a GENERAL one stays GENERAL
(R22, R41, R44). The ALARM pin is asserted in those two states and released in QUIET and ALERTED (R156). -/
def Obligations.RegimeEndsOnlyByReset : Prop :=
  (∀ (c : Instr) (s t : State), exec c s = .next t → resets s c = false → c ≠ .resetRegime →
    (s.rgc.state.running = true → t.rgc.state.running = true) ∧ (s.rgc.state = .general → t.rgc.state = .general)) ∧
  ∀ s : State, s.alarmPin = true ↔ s.rgc.state = .active ∨ s.rgc.state = .general

/-! ## Resets and START -/

/-- What the blocks hold after any of the three resets, whole: the three leave the same part, each with its own cause
(R3, R22, R28, R53, R66, R89, R109, R112, R121, R123, R148, R160, R174), the map loaded among it. The node table holds
a fresh entry for every configured address of the loaded map, ascending, FLOOR and LIFT in flight (R134); each bank's
recall floor is the effective primary of that map (R91). The store outlives the reset, the speed is that of the BAUDSEL
strap, and the queue of commands stays (assumption 7). The model's own fields, and the values the tables do not give,
are clear or absent (assumptions 2, 32 and 42). -/
def Obligations.ResetsGiveResetValues : Prop :=
  ∀ (s : State) (i : ResetInputs) (f : List Byte), ∃ t : State,
    exec (.powerOnReset i) s = .next t ∧
    exec (.pinReset i) s = .next { t with hlc := { t.hlc with resetCause := .pin } } ∧
    exec (.responseSent i) { s with hlc := { s.hlc with transmitter := .sendingResponse f, restartDue := true } } =
      .next { t with hlc := { t.hlc with resetCause := .restart } } ∧
    t.uptime = 0 ∧ (∀ z, t.zone z = ⟨.unknown, false, .quiet, 0, none, 0⟩) ∧
    (∀ p, vget t.zev.panelTrouble p false = false) ∧
    (∀ n, t.floor n = ⟨.normal, false, false, none, 0, .none, none, 65535, 0, none⟩) ∧
    t.rgc.state = .quiet ∧ t.rgc.clock = 0 ∧ t.rgc.hold = false ∧ t.rgc.muteUntil = none ∧ t.rgc.latestOrigin = none ∧
    t.rgc.origins = 0 ∧ t.rgc.queue = [] ∧ t.rgc.stats = ⟨0, 0, 0⟩ ∧
    t.lbu = ⟨.battery, none, [], 0, 0, ⟨0, 0, 0⟩⟩ ∧
    (∀ d, t.door d = ⟨.locked, false, false, .lock, false, none, none, none, false, 0, false, none, false⟩) ∧
    (∀ c, t.car c = ⟨.inService, none, none, .normal, false, none, false, none, false, none, none, none, none, none,
      none, false, false, false⟩) ∧
    (∀ b < 2, t.bank b = ⟨effectivePrimary t.map b, .primary⟩) ∧
    (∀ k, t.program k = ⟨.idle, 0, 0, none, none, 0, 0, false, none, none, none⟩) ∧
    (∀ c, t.channel c = ⟨.free, none, none, .nothing, none, false, false, false⟩) ∧
    (∀ n, t.join n = ⟨.off, .off, none, false, none, false, false⟩) ∧ t.ans.playerLost = false ∧
    t.plp = ⟨[.stop 0, .stop 1, .stop 2, .stop 3, .stop 4, .stop 5], none, false⟩ ∧
    t.rbm = ⟨(sortedNodeSet t.map).map fun c => ⟨c.address, c.type, c.owner, .unknown, false, none, false,
      decide (c.type = .floor ∨ c.type = .lift), 0, none, false, false, false, none, 0, 0⟩, 0, [], none⟩ ∧
    t.trc.details = [] ∧ (∀ g, vget t.trc.masks g false = false) ∧ (∀ g, vget t.trc.markers g false = false) ∧
    (∀ b < 11, (t.block b).writeFailed = false) ∧ t.mst.writing = none ∧ t.mst.lastStore = .none ∧
    t.mst.store.bytes = s.mst.store.bytes ∧ t.mst.store.marks = s.mst.store.marks ∧
    t.mst.store.errors = s.mst.store.errors ++ i.cellErrors ∧
    t.hlc = ⟨if i.baudselHigh then .baud115200 else .baud19200, .hunting, [], none, .idle, [], false, 0, .hosted, 0,
      .powerOn, false, false, false⟩ ∧
    t.pending = s.pending

/-- The load of R182 at a power-on reset, a pin reset and the reset of a RESTART alike: a block whose completion mark
is clear, or with a word in uncorrectable error, loads its defaults; any other block holds the stored value of each
field of the store's bytes (R187); and each block's result and modified flag follow. Which cells have gone bad is an
operand of the reset (assumption 28). -/
def Obligations.ResetLoadsTheStore : Prop :=
  ∀ (s t : State) (i : ResetInputs) (b : Nat),
    exec (.powerOnReset i) s = .next t ∨ exec (.pinReset i) s = .next t ∨
      (resets s (.responseSent i) = true ∧ exec (.responseSent i) s = .next t) → b < 11 →
    let bad := fun e : WordError => ∃ x ∈ s.mst.store.errors ++ i.cellErrors, x.block = b ∧ x.error = e
    (vget s.mst.store.marks b false = false ∨ bad .uncorrectable →
      (t.block b).load = .defaulted ∧ (t.block b).defaultedActive = true ∧
      ∀ o < 256, Memory.read t.map (256 * b + o) = mapDefault (256 * b + o)) ∧
    (vget s.mst.store.marks b false = true → ¬ bad .uncorrectable →
      ((t.block b).load = .corrected ↔ bad .single) ∧ ((t.block b).load = .clean ↔ ¬ bad .single) ∧
      ∀ o < 256, Memory.read t.map (256 * b + o) = byte (normByte b (mapByte s.mst.store.bytes b) o)) ∧
    (t.block b).modified = decide ((t.block b).load ≠ .clean)

/-- START (R169): it is posted with the sequence value standing and, with an empty queue and an idle transmitter, leaves
at once; reception and host-silence supervision begin; TRC holds the
STORE conditions of the load. It occurs once. That it does nothing a second time is assumption 3. -/
def Obligations.StartBeginsTheWork : Prop :=
  ∀ s : State,
    (s.hlc.started = true → exec .start s = .next s) ∧
    (s.hlc.started = false → s.hlc.transmitter = .idle → s.hlc.response = none → s.hlc.notices = [] →
      s.trc.details = [] →
      ∃ t, exec .start s = .next t ∧ t.hlc.started = true ∧ t.hlc.lastValidAt = s.uptime ∧
        t.hlc.transmitter =
          .sendingNotice (hostFrame 2 0x01 (byte s.hlc.seq) (eFlag s.hlc.lost ++ startBody s)) ∧
        (∀ b < 11, (Latched t.trc .blockDefaulted b ↔ (s.block b).defaultedActive = true) ∧
          (Latched t.trc .blockCorrected b ↔ (s.block b).correctedActive = true)) ∧
        { t with trc := s.trc, hlc := s.hlc } = s)

/-! ## Frames and the host link -/

/-- A list of bytes followed by its two CRC bytes leaves the register at 0, so that a receiver finds the frame good. -/
def Obligations.CrcClosesEveryFrame : Prop := ∀ l : List Byte, crc16 (l ++ crcBytes l) = 0#16

/-- Every frame of R161 is read back by the receiver's checks of R162: class, code, TAG and body. -/
def Obligations.HostFramesReadBack : Prop :=
  ∀ (cls code : Nat) (tag : Byte) (body : List Byte), cls < 4 → code < 64 → body.length ≤ 198 →
    parseHostFrame (hostFrame cls code tag body).tail = some ⟨cls, code, tag, body⟩

/-- Every reply frame of 11.2 with the payload length of its type passes every check of R132 at a poll of its address,
with its flags and payload; at a poll that expects another type it is of the wrong type. -/
def Obligations.RiserRepliesReadBack : Prop :=
  ∀ (address : Nat) (type want : NodeType) (r : NodeReply) (second : Byte), address < 256 →
    r.payload.length = type.replyLength →
    checkReply address want (replyFrame address type r second) = if want = type then .good r else .typeWrong

/-- R162, R163, R170: SYNC takes the receiver from HUNTING to RECEIVING; a gap, and a frame abandoned for its LENGTH, a
framing error or its CRC, take it from RECEIVING to HUNTING, and nothing else changes. A valid frame ends reception; one
of class 0 restarts host-silence supervision and takes a free place of the receive buffer, or is discarded when both are
taken; one of another class is discarded. Nothing outside the link and the collection changes. A valid frame is taken in
either state of the receiver (assumption 21). -/
def Obligations.ReceptionFramesAndBuffers : Prop :=
  ∀ s : State, s.hlc.started = true →
    (s.hlc.receiver = .hunting →
      exec .hostSyncReceived s = .next { s with hlc := ({ s.hlc with receiver := .receiving }).arbitrate }) ∧
    (s.hlc.receiver = .receiving →
      exec .frameGapTimeout s = .next { s with hlc := ({ s.hlc with receiver := .hunting }).arbitrate } ∧
      ∀ f, abandons f = true →
        exec (.badHostFrame f) s = .next { s with hlc := ({ s.hlc with receiver := .hunting }).arbitrate }) ∧
    ∀ (frame : List Byte) (m : HostMessage), parseHostFrame frame = some m →
      ∃ t, exec (.requestArrival frame) s = .next t ∧ t.hlc.receiver = .hunting ∧
        t.hlc.buffer = (if m.cls = 0 ∧ s.hlc.buffer.length < 2 then s.hlc.buffer ++ [⟨m.code, m.tag, m.body⟩]
          else s.hlc.buffer) ∧
        t.hlc.lastValidAt = (if m.cls = 0 then s.uptime else s.hlc.lastValidAt) ∧
        t.hlc.hostSilent = (if m.cls = 0 then false else s.hlc.hostSilent) ∧
        t.hlc.mode = s.hlc.mode ∧ { t with trc := s.trc, hlc := s.hlc } = s

/-- R166, R167, R163: RESTART is answered OK and its reset falls due; the end of any other response frees the request's
place in the buffer, and the end of a notice frees the transmitter; the arbiter then chooses again, behind the serving
of the next request where the end of a response leaves one in the buffer (assumption 9). A request of a code
outside the catalogue is answered UNKNOWN_REQUEST with RESULT alone and changes nothing (R164). -/
def Obligations.TransmissionsEnd : Prop :=
  ∀ (s : State) (req : Request) (f : List Byte) (i : ResetInputs),
    (Serves s 0x02 req → req.body = [] →
      exec .restart s = .next (answered { s with hlc := { s.hlc with restartDue := true } } req .ok [])) ∧
    (Serves s 0x02 req → req.body ≠ [] → exec .restart s = .next (answered s req .refusedRange [])) ∧
    (s.hlc.started = true → s.hlc.transmitter = .sendingResponse f → s.hlc.restartDue = false →
      let h : Hlc := { s.hlc with buffer := s.hlc.buffer.tail, transmitter := .idle }
      exec (.responseSent i) s = .next { s with hlc := if s.hlc.buffer.length ≤ 1 then h.arbitrate else h }) ∧
    (s.hlc.started = true → s.hlc.transmitter = .sendingNotice f →
      exec .noticeSent s = .next { s with hlc := ({ s.hlc with transmitter := .idle }).arbitrate }) ∧
    (s.servable = some req → catalogue.contains req.code = false → s.hlc.mode = .hosted →
      exec .unknownRequest s = .next (answered s req .unknownRequest []))

/-- R167, R168: every posting takes a sequence value, the 33rd waiting notice too, which is dropped and sets the lost
mark. An idle transmitter takes a pending response before any notice; with none pending it takes the oldest notice,
whose LOST byte reports the lost mark and clears it, and with no notice queued it stays idle; a busy transmitter takes
nothing. -/
def Obligations.NoticesQueueAndArbitrate : Prop :=
  ∀ (h : Hlc) (k : NoticeKind) (body : List Byte),
    (h.post k body).seq = (h.seq + 1) % 256 ∧
    (h.notices.length < 32 → (h.post k body).notices = h.notices ++ [⟨k, h.seq, body⟩] ∧ (h.post k body).lost = h.lost) ∧
    (32 ≤ h.notices.length → (h.post k body).notices = h.notices ∧ (h.post k body).lost = true) ∧
    (h.transmitter ≠ .idle → h.arbitrate = h) ∧
    (∀ r, h.transmitter = .idle → h.response = some r →
      h.arbitrate = { h with response := none, transmitter := .sendingResponse (hostFrame 1 r.code r.tag r.body) }) ∧
    (h.transmitter = .idle → h.response = none → h.notices = [] → h.arbitrate = h) ∧
    (∀ n rest, h.transmitter = .idle → h.response = none → h.notices = n :: rest →
      h.arbitrate = { h with
        notices := rest, lost := false,
        transmitter := .sendingNotice (hostFrame 2 n.kind.code (byte n.seq) (eFlag h.lost ++ n.body)) })

/-- R170, R171, R42, R128: the short expiry makes HOST_SILENT active, its detail taken into the collection unless it was
active already, and changes nothing else but the notices this posts. The long expiry of a HOSTED part makes it
AUTONOMOUS, empties TENANT's given set, and takes an ACTIVE regime to GENERAL when the autonomy action is ESCALATE, any
other regime keeping its record; of the link only the mode, the notices and the transmitter change. Before their times
they do nothing. That an expiry before its time changes nothing is assumption 3. -/
def Obligations.SilenceExpiries : Prop :=
  ∀ s : State,
    (s.hlc.started = true → s.hlc.lastValidAt + shortSilence s.map ≤ s.uptime →
      ∃ t, exec .shortExpiry s = .next t ∧ LinkKept { s with hlc := { s.hlc with hostSilent := true } } t ∧
        t.trc = (if s.hlc.hostSilent = true then s.trc else (s.trc.activate s.uptime .hostSilent 0).1) ∧
        { t with trc := s.trc, hlc := s.hlc } = s) ∧
    (s.uptime < s.hlc.lastValidAt + shortSilence s.map → exec .shortExpiry s = .next s) ∧
    (s.hlc.started = true → s.hlc.mode = .hosted → s.hlc.lastValidAt + longSilence s.map ≤ s.uptime →
      ∃ t, exec .longExpiry s = .next t ∧ LinkKept { s with hlc := { s.hlc with mode := .autonomous } } t ∧
        (t.program .tenant).givenSet = 0 ∧ RegimeOnly s t ∧
        (escalates s.map = true → s.rgc.state = .active → t.rgc.state = .general) ∧
        (escalates s.map = false ∨ s.rgc.state ≠ .active → t.rgc = s.rgc)) ∧
    (s.hlc.mode = .autonomous ∨ s.uptime < s.hlc.lastValidAt + longSilence s.map → exec .longExpiry s = .next s)

/-- R164, R172: every request that is served, one of a code outside the catalogue among them, is answered with its own
code and TAG, and a request served in AUTONOMOUS returns the mode to HOSTED, whatever its result; an unknown code is
answered UNKNOWN_REQUEST with RESULT alone. -/
def Obligations.ServedRequestsReturnToHosted : Prop :=
  ∀ (c : Instr) (s : State) (req : Request), s.servable = some req →
    codeOf c = some req.code ∨ (c = .unknownRequest ∧ catalogue.contains req.code = false) →
    ∃ t r fields, exec c s = .next t ∧ Responds s t req r fields ∧ t.hlc.mode = .hosted ∧
      t.hlc.buffer = s.hlc.buffer ∧ (c = .unknownRequest → r = .unknownRequest ∧ fields = [])

/-! ## Queries -/

/-- The queries (R17, R47, R65, R85, R107, R130, R147, R158, R179), MAP_READ among them: in either link mode each is
answered OK with the fields of its rule in every state, or REFUSED_RANGE for a value outside its range or a body of
another length, and the whole part is otherwise unchanged. The bytes of the fields are encoded by R184 and assumption
12; the queue position in READ_FLOOR counts from 0 (assumption 44). -/
def Obligations.QueriesChangeNothing : Prop :=
  ∀ (c : Instr) (code : Nat) (s : State) (req : Request),
    c ∈ [.mapRead, .mapStatus, .readRegime, .readFloor, .readZone, .readDoor, .readCar, .readProgram, .readBudget,
      .readTrouble, .readNode] → codeOf c = some code → Asks s code req →
    ∃ t, exec c s = .next t ∧ match queryFields s req.body c with
      | some fields => Reads s t req .ok fields
      | none => Reads s t req .refusedRange []

/-- R165: PING, with an empty body, is answered OK in either link mode, with the mode as it stood, and changes nothing;
its arrival restarts the silence timers. The widths and codes of its fields are those of R184 and, where R184 names no
field, of assumption 12; that they are taken before the return to HOSTED is assumption 41. -/
def Obligations.PingAnswers : Prop :=
  (∀ (s : State) (req : Request), Asks s 0x01 req → req.body = [] →
    ∃ t, exec .ping s = .next t ∧ Reads s t req .ok
      (e32 s.uptime ++ e8 s.hlc.mode.code ++ e8 s.hlc.resetCause.code ++ e8 s.hlc.speed.code ++
        e8 s.hlc.notices.length ++ eFlag s.hlc.lost ++ e8 s.hlc.seq ++ e16 0x0F24)) ∧
  ∀ (s : State) (tag : Byte), s.hlc.started = true →
    ∃ t, exec (.requestArrival (hostFrame 0 0x01 tag []).tail) s = .next t ∧ t.hlc.lastValidAt = s.uptime

/-- R85: READ_DOOR carries present, every field of R66, the seconds since held_since and the claim as LBU holds it, in
every state and either link mode, and changes nothing; an index above 63 is refused. The codes of the claim, absent,
waiting or granted, are the model's (assumption 12). -/
def Obligations.ReadDoorCarriesTheRecord : Prop :=
  ∀ (s : State) (req : Request) (d : Byte), Asks s 0x13 req → req.body = [d] →
    let r := s.door d.toNat
    (64 ≤ d.toNat → ∃ t, exec .readDoor s = .next t ∧ Reads s t req .refusedRange []) ∧
    (d.toNat < 64 → ∃ t, exec .readDoor s = .next t ∧ Reads s t req .ok
      (eFlag (doorPresent s.map d.toNat) ++ e8 r.state.code ++ eFlag r.manual ++ eFlag r.reRequest ++ e8 r.desired.code ++
        eFlag r.confirmed ++ eOpt8 (r.pendingDesired.map StrikeOrder.code) ++ eOpt8 (r.strike.map Strike.code) ++
        eOpt8 (r.position.map DoorPosition.code) ++ eFlag r.stale ++ e8 r.mismatch ++ eFlag r.faulted ++
        eOpt32 r.heldSince ++ eFlag r.held ++ eOpt32 (r.heldSince.map fun t => s.uptime - t) ++
        (match s.lbu.claimOf (.door d.toNat) with
          | none => [0, 0xFF, 0xFF]
          | some c => (if c.source = none then [1] else [2]) ++ e8 c.level ++ eOpt8 (c.source.map Source.code))))

/-- R46: READ_STATS answers with both sets of statistics, and CLEAR zeroes both after they were read. -/
def Obligations.ReadStatsReadsThenClears : Prop :=
  ∀ (s : State) (req : Request) (flags : Byte), Serves s 0x18 req → req.body = [flags] →
    let fields := eStats s.rgc.stats ++ eStats s.lbu.stats
    exec .readStats s = .next (answered
      (if flags.getLsbD 0 then
        { s with rgc := { s.rgc with stats := ⟨0, 0, 0⟩ }, lbu := { s.lbu with stats := ⟨0, 0, 0⟩ } }
      else s) req .ok fields)

/-! ## The map and the store -/

/-- R175 to R177: the checks of a MAP_WRITE in their order. A refused write changes nothing. Which of several duplicated
addresses its response names is assumption 49. -/
def Obligations.MapWriteChecksInOrder : Prop :=
  ∀ (s : State) (req : Request), Serves s 0x04 req →
    let b := byteAt req.body 0
    let o := byteAt req.body 1
    let n := byteAt req.body 2
    let data := req.body.drop 3
    let sized := 3 ≤ req.body.length ∧ req.body.length = 3 + n
    let inRange := b ≤ 10 ∧ 1 ≤ n ∧ n ≤ 128 ∧ o + n ≤ 256
    (¬ sized ∨ ¬ inRange → exec .mapWrite s = .next (answered s req .refusedRange [])) ∧
    (sized → inRange → s.rgc.state ≠ .quiet → exec .mapWrite s = .next (answered s req .refusedState [])) ∧
    (sized → inRange → s.rgc.state = .quiet → s.mst.writing ≠ none →
      exec .mapWrite s = .next (answered s req .mapBusy [])) ∧
    (sized → inRange → s.rgc.state = .quiet → s.mst.writing = none →
      ∀ a, firstDuplicate (nodeCandidates (mapWritten s.map b o data)) [] = some a →
        exec .mapWrite s = .next (answered s req .refusedRange [byte a]))

/-- R176, R187: an accepted MAP_WRITE is answered OK. Every byte of the block takes its stored value under the written
bytes, every byte of another block reads as before, and the store, its operation and the other blocks' records stay. -/
def Obligations.MapWriteStoresTheFields : Prop :=
  ∀ (s : State) (req : Request), Serves s 0x04 req →
    let b := byteAt req.body 0
    let o := byteAt req.body 1
    let data := req.body.drop 3
    3 ≤ req.body.length → req.body.length = 3 + byteAt req.body 2 →
    b ≤ 10 → 1 ≤ data.length → data.length ≤ 128 → o + data.length ≤ 256 →
    s.rgc.state = .quiet → s.mst.writing = none →
    firstDuplicate (nodeCandidates (mapWritten s.map b o data)) [] = none →
    ∃ t, exec .mapWrite s = .next t ∧ Done s t req .ok [] ∧
      (∀ k < 256, Memory.read t.map (256 * b + k) =
        byte (normByte b (fun j => if o ≤ j ∧ j < o + data.length then byteAt data (j - o) else mapByte s.map b j) k)) ∧
      (∀ a, a < 256 * b ∨ 256 * b + 256 ≤ a → Memory.read t.map a = Memory.read s.map a) ∧
      t.mst.store = s.mst.store ∧ t.mst.writing = none ∧ (∀ k, k ≠ b → t.block k = s.block k) ∧
      t.uptime = s.uptime

/-- R180, R181: MAP_STORE begins with block 0, whose completion mark is cleared, while no store is under way; otherwise
it is refused with MAP_BUSY. A block that reads back as written holds the working map's bytes, with its completion mark
set and its modified flag clear, and the store goes on with the next block or ends OK after block 10; a block that does
not ends the store FAILED at it, with its WRITE_FAILED condition and its modified flag set (assumption 35). The
working map stays. The words are copied at the end of a block's operation (assumption 28). -/
def Obligations.MapStoreWritesBlockByBlock : Prop :=
  (∀ (s : State) (req : Request), Serves s 0x06 req → req.body = [] →
    (s.mst.writing ≠ none → exec .mapStore s = .next (answered s req .mapBusy [])) ∧
    (s.mst.writing = none → exec .mapStore s = .next (answered
      { s with mst := { s.mst with
        writing := some 0, store := { s.mst.store with marks := vset s.mst.store.marks 0 false } } } req .ok []))) ∧
  ∀ (s : State) (b : Nat), s.hlc.started = true → s.mst.writing = some b → b < 11 →
    (∃ t, exec (.mapStoreBlockDone true) s = .next t ∧ t.mst.map = s.mst.map ∧
      (∀ o < 256, Memory.read t.mst.store.bytes (256 * b + o) = Memory.read s.map (256 * b + o)) ∧
      (∀ a, a < 256 * b ∨ 256 * b + 256 ≤ a → Memory.read t.mst.store.bytes a = Memory.read s.mst.store.bytes a) ∧
      vget t.mst.store.marks b false = true ∧ (t.block b).modified = false ∧ (t.block b).writeFailed = false ∧
      t.mst.writing = (if b < 10 then some (b + 1) else none) ∧
      (b < 10 → vget t.mst.store.marks (b + 1) false = false ∧ t.mst.lastStore = s.mst.lastStore) ∧
      (b = 10 → t.mst.lastStore = .ok) ∧ { t with mst := s.mst, trc := s.trc, hlc := s.hlc } = s) ∧
    (∃ t, exec (.mapStoreBlockDone false) s = .next t ∧ t.mst.map = s.mst.map ∧ t.mst.store = s.mst.store ∧
      (t.block b).writeFailed = true ∧ (t.block b).modified = true ∧ (∀ k, k ≠ b → t.block k = s.block k) ∧
      t.mst.writing = none ∧ t.mst.lastStore = .failed b ∧
      { t with mst := s.mst, trc := s.trc, hlc := s.hlc } = s)

/-! ## Zones -/

/-- R9: at the expiry of its window a VERIFYING zone in ALARM becomes CONFIRMED, and any other returns to QUIET with
one more nuisance, up to 255; count and deadline go, and no other zone changes. RGC takes the change by `ZoneToRegime`
(R18, R19, R21, R24, R25, R40), in either link mode, and CRU by `ZoneToCars` (R21, R91, R93, R98). A zone whose window
has not run out keeps everything. That it does is assumption 3. -/
def Obligations.ZoneWindowExpires : Prop :=
  ∀ (s : State) (z : Nat),
    (s.hlc.started = true → z < 128 → (s.zone z).eval = .verifying →
      (∃ d, (s.zone z).deadline = some d ∧ d ≤ s.uptime) →
      ∃ t, exec (.zoneWindowExpiry z) s = .next t ∧
        t.zone z = (if (s.zone z).condition = .alarm then
            { s.zone z with eval := .confirmed, count := 0, deadline := none }
          else { s.zone z with
            eval := .quiet, count := 0, deadline := none, nuisance := min ((s.zone z).nuisance + 1) 255 }) ∧
        (∀ y, y ≠ z → t.zone y = s.zone y) ∧ t.zev.panelTrouble = s.zev.panelTrouble ∧ ZoneToRegime s t z ∧
        ZoneToCars s t z ∧ t.mst = s.mst ∧ t.uptime = s.uptime ∧ LinkKept s t) ∧
    ((s.zone z).eval ≠ .verifying ∨ (∀ d, (s.zone z).deadline = some d → s.uptime < d) →
      exec (.zoneWindowExpiry z) s = .next s)

/-- R14: ZONE_DISABLE takes a zone out of evaluation, keeping its condition and its nuisance count, and changes no
other zone; a DISABLED zone is left as it is. R15, R7: ZONE_ENABLE returns a DISABLED zone to QUIET; a recorded ALARM
is taken as an edge: CONFIRMED for a MANUAL zone or an effective confirm_n of 1, else VERIFYING with count 1 and the
window ahead; a zone not DISABLED is left as it is. RGC takes each change by `ZoneToRegime` (R18, R19, R21, R24, R25,
R40), and CRU by `ZoneToCars` (R21, R91, R93, R98). Both refuse an index above 127. -/
def Obligations.ZoneDisableAndEnable : Prop :=
  ∀ (s : State) (req : Request) (z : Byte), req.body = [z] →
    (Serves s 0x20 req →
      (128 ≤ z.toNat → exec .zoneDisable s = .next (answered s req .refusedRange [])) ∧
      (z.toNat < 128 → (s.zone z.toNat).eval = .disabled → exec .zoneDisable s = .next (answered s req .ok [])) ∧
      (z.toNat < 128 → (s.zone z.toNat).eval ≠ .disabled →
        ∃ t, exec .zoneDisable s = .next t ∧ Done s t req .ok [] ∧
          t.zone z.toNat = { s.zone z.toNat with eval := .disabled, count := 0, deadline := none } ∧
          (∀ y, y ≠ z.toNat → t.zone y = s.zone y) ∧ ZoneToRegime s t z.toNat ∧
          ZoneToCars s t z.toNat ∧ t.mst = s.mst ∧ t.uptime = s.uptime)) ∧
    (Serves s 0x21 req →
      (128 ≤ z.toNat → exec .zoneEnable s = .next (answered s req .refusedRange [])) ∧
      (z.toNat < 128 → (s.zone z.toNat).eval ≠ .disabled → exec .zoneEnable s = .next (answered s req .ok [])) ∧
      (z.toNat < 128 → (s.zone z.toNat).eval = .disabled →
        ∃ t, exec .zoneEnable s = .next t ∧ Done s t req .ok [] ∧
          t.zone z.toNat =
            (if (s.zone z.toNat).condition ≠ .alarm then
              { s.zone z.toNat with eval := .quiet, count := 0, deadline := none }
            else if zoneKind s.map z.toNat = .manual ∨ effectiveConfirm s.map z.toNat = 1 then
              { s.zone z.toNat with eval := .confirmed, count := 0, deadline := none }
            else { s.zone z.toNat with
              eval := .verifying, count := 1, deadline := some (s.uptime + zoneWindow s.map z.toNat) }) ∧
          (∀ y, y ≠ z.toNat → t.zone y = s.zone y) ∧ ZoneToRegime s t z.toNat ∧
          ZoneToCars s t z.toNat ∧ t.mst = s.mst ∧ t.uptime = s.uptime))

/-! ## The regime -/

/-- R26: the phases at a regime start: every present direct-exit floor in EVACUATE with cause DIRECT and
evacuating_since 0, every other present floor in ALERT, unscheduled with rank 0; absent floors and every fire state
stay. -/
def Obligations.RegimeStartSetsPhases : Prop :=
  ∀ (m : Memory) (r : Rgc) (f : Nat), f < 32 →
    let x := r.floor f
    (r.startPhases m).floor f =
      if directExit m f then { x with phase := .evacuate, cause := some .direct, evacuatingSince := some 0 }
      else if floorPresent m f then { x with phase := .alert, evacuateAt := 65535, schedRank := 0 }
      else x

/-- R30, R31: applying an origin: the origin and the present floor above it enter EVACUATE unless they are in EVACUATE
or CLEARED, and leave the queue; every other present ALERT floor takes an earlier time of evacuation, or the smaller
rank of an equal one, so that no schedule moves later; latest_origin, origins and the mute follow. -/
def Obligations.OriginSchedulesFloors : Prop :=
  ∀ (m : Memory) (r : Rgc) (o f : Nat), f < 32 →
    let x := r.floor f
    let y := (r.origin m o).floor f
    let rank := if o + 2 ≤ f then f - o - 1 else o - f
    let candidate := min (r.clock + rank * interval m) 65534
    ((f = o ∨ f = o + 1) → floorPresent m f = true →
      (x.phase = .evacuate ∨ x.phase = .cleared → y = x) ∧
      (x.phase = .none ∨ x.phase = .alert →
        y = { x with phase := .evacuate, cause := some .origin, evacuatingSince := some r.clock } ∧
        f ∉ (r.origin m o).queue)) ∧
    (f ≠ o → f ≠ o + 1 → floorPresent m f = true → x.phase = .alert →
      y.phase = .alert ∧ y.evacuateAt = min x.evacuateAt candidate ∧
      y.schedRank = (if candidate < x.evacuateAt then rank
        else if candidate = x.evacuateAt then min x.schedRank rank else x.schedRank)) ∧
    (floorPresent m f = false ∨ x.phase ≠ .alert → f ≠ o → f ≠ o + 1 → y = x) ∧
    (r.origin m o).latestOrigin = some o ∧ (r.origin m o).origins = min (r.origins + 1) 32 ∧
    (r.origin m o).muteUntil = none ∧ (r.origin m o).state = r.state ∧ (r.origin m o).clock = r.clock

/-- R33: the promotion queue that a sort leaves holds the same floors, by evacuate_at, then sched_rank, then the higher
floor first. R54: the wait list holds every waiting claim and only those, by level and then by placed_order. -/
def Obligations.QueuesAreOrdered : Prop :=
  (∀ r : Rgc, r.sortQueue.queue.Perm r.queue ∧
    r.sortQueue.queue.Pairwise fun a b =>
      (r.floor a).evacuateAt < (r.floor b).evacuateAt ∨
        ((r.floor a).evacuateAt = (r.floor b).evacuateAt ∧
          ((r.floor a).schedRank < (r.floor b).schedRank ∨ ((r.floor a).schedRank = (r.floor b).schedRank ∧ b ≤ a)))) ∧
  ∀ l : Lbu, l.waitList.Perm (l.claims.filter fun c => c.source = none) ∧
    l.waitList.Pairwise fun a b => a.level < b.level ∨ (a.level = b.level ∧ a.placed ≤ b.placed)

/-- R34: promotion takes floors from the head of the queue, each into EVACUATE with cause SCHEDULE at the clock, until
hold is set, the stair count has reached K or the queue is empty; it never takes the stair count above K, and it changes
no floor but those it promotes. -/
def Obligations.PromotionStopsAtCapacity : Prop :=
  ∀ (m : Memory) (r : Rgc),
    let p := r.promote m
    (p.hold = true ∨ stairCapacity m ≤ stairCount m p ∨ p.queue = []) ∧
    stairCount m p ≤ max (stairCount m r) (stairCapacity m) ∧
    (r.hold = true → p = r) ∧
    ∃ taken, r.queue = taken ++ p.queue ∧
      ∀ f < 32, p.floor f = if f ∈ taken then
        { r.floor f with phase := .evacuate, cause := some .schedule, evacuatingSince := some r.clock } else r.floor f

/-- R27, R32, R35 to R37, R39, R40, R46: the events of the regime clock. A clock second of a running regime advances
the clock, stopping at 65535; the present ALERT floors that are due and not queued join the queue, which is put in
order, each counting as an insert; promotion is evaluated; then the statistics take the queue's length; nothing else of
the regime or the floors changes. At clock 65535 an unscheduled floor is due, as R32 reads (assumption 20). Outside a
running regime there is no second. A mute of 30 to 900 seconds is accepted in ACTIVE only, until the clock plus the
time, at most 65535, and its expiry ends it; the clock second itself ends none (assumption 16). A floor's clear timer
makes it CLEARED with cause TIMER and promotion is evaluated; the auto-general time takes an ACTIVE regime to GENERAL.
Each expiry is taken when its time is at most one second ahead of the clock (assumption 16), and changes nothing before
that or where its condition does not hold (assumption 3). A mute's range is judged before the regime's state, which R39
leaves open (assumption 31). -/
def Obligations.RegimeClockAndTimers : Prop :=
  ∀ (s : State) (req : Request),
    (s.rgc.state.running = false → exec .clockSecond s = .next s) ∧
    (s.hlc.started = true → s.rgc.state.running = true →
      let clock := min (s.rgc.clock + 1) 65535
      let due := (List.range 32).filter fun f => floorPresent s.map f ∧ (s.floor f).phase = .alert ∧
        (s.floor f).evacuateAt ≤ clock ∧ f ∉ s.rgc.queue
      let queued : Rgc := { s.rgc with clock := clock, queue := s.rgc.queue ++ due }
      let p := queued.sortQueue.promote s.map
      ∃ t, exec .clockSecond s = .next t ∧ RegimeOnly s t ∧ LinkKept s t ∧
        t.rgc.state = s.rgc.state ∧ t.rgc.muteUntil = s.rgc.muteUntil ∧
        t.rgc = { p with stats := ⟨min (s.rgc.stats.inserts + due.length) 4294967295,
          min (s.rgc.stats.occupancy + p.queue.length) 4294967295,
          min (s.rgc.stats.nonempty + if p.queue = [] then 0 else 1) 4294967295⟩ }) ∧
    (Serves s 0x28 req → req.body.length = 2 →
      let time := 256 * byteAt req.body 0 + byteAt req.body 1
      (time < 30 ∨ 900 < time → exec .alertMute s = .next (answered s req .refusedRange [])) ∧
      (30 ≤ time → time ≤ 900 → s.rgc.state ≠ .active →
        exec .alertMute s = .next (answered s req .refusedState [])) ∧
      (30 ≤ time → time ≤ 900 → s.rgc.state = .active →
        ∃ t, exec .alertMute s = .next t ∧ Done s t req .ok [] ∧ RegimeOnly s t ∧
          t.rgc = { s.rgc with muteUntil := some (min (s.rgc.clock + time) 65535) })) ∧
    (s.hlc.started = true → (∃ e, s.rgc.muteUntil = some e ∧ e ≤ s.rgc.clock + 1) →
      ∃ t, exec .muteExpiry s = .next t ∧ RegimeOnly s t ∧ LinkKept s t ∧
        t.rgc = { s.rgc with muteUntil := none }) ∧
    ((∀ e, s.rgc.muteUntil = some e → s.rgc.clock + 1 < e) → exec .muteExpiry s = .next s) ∧
    (∀ f, s.hlc.started = true → clearTime s.map ≠ 0 → floorPresent s.map f = true → (s.floor f).phase = .evacuate →
      (∃ e, (s.floor f).evacuatingSince = some e ∧ min (e + clearTime s.map) 65535 ≤ s.rgc.clock + 1) →
      ∃ t, exec (.clearTimerExpiry f) s = .next t ∧ RegimeOnly s t ∧ LinkKept s t ∧
        t.rgc = (s.rgc.mapFloors (fun g => g = f) fun _ x =>
          { x with phase := .cleared, cause := some .timer }).promote s.map) ∧
    (∀ f, clearTime s.map = 0 ∨ floorPresent s.map f = false ∨ (s.floor f).phase ≠ .evacuate ∨
      (∀ e, (s.floor f).evacuatingSince = some e → s.rgc.clock + 1 < min (e + clearTime s.map) 65535) →
      exec (.clearTimerExpiry f) s = .next s) ∧
    (s.hlc.started = true → s.rgc.state = .active → autoGeneralTime s.map ≠ 0 →
      autoGeneralTime s.map ≤ s.rgc.clock + 1 →
      ∃ t, exec .autoGeneralExpiry s = .next t ∧ RegimeOnly s t ∧ LinkKept s t ∧ t.rgc.state = .general ∧
        t.rgc.queue = [] ∧ t.rgc.clock = s.rgc.clock ∧
        ∀ f < 32, floorPresent s.map f = true → (s.floor f).phase = .alert → (t.floor f).cause = some .general) ∧
    (s.rgc.state ≠ .active ∨ autoGeneralTime s.map = 0 ∨ s.rgc.clock + 1 < autoGeneralTime s.map →
      exec .autoGeneralExpiry s = .next s)

/-- R40, R25, R41: GENERAL_EVACUATION is answered OK and leaves the regime GENERAL, with no present floor in ALERT and
no floor queued; from QUIET or ALERTED it is a regime start, with the clock at 0; from ACTIVE every ALERT floor enters
EVACUATE with cause GENERAL; in GENERAL it changes nothing. -/
def Obligations.GeneralEvacuationEntersGeneral : Prop :=
  ∀ (s : State) (req : Request), Serves s 0x24 req → req.body = [] →
    (s.rgc.state = .general → exec .generalEvacuation s = .next (answered s req .ok [])) ∧
    (s.rgc.state ≠ .general →
      ∃ t, exec .generalEvacuation s = .next t ∧ Done s t req .ok [] ∧ RegimeOnly s t ∧ t.rgc.state = .general ∧
        t.rgc.queue = [] ∧ t.rgc.hold = s.rgc.hold ∧ t.rgc.muteUntil = none ∧
        t.rgc.clock = (if s.rgc.state = .active then s.rgc.clock else 0) ∧
        (∀ f < 32, floorPresent s.map f = true → s.rgc.state ≠ .active ∨ (s.floor f).phase ≠ .none →
          (t.floor f).phase = .evacuate ∨ (t.floor f).phase = .cleared) ∧
        (∀ f < 32, floorPresent s.map f = true → s.rgc.state = .active → (s.floor f).phase = .alert →
          (t.floor f).cause = some .general ∧ (t.floor f).evacuatingSince = some s.rgc.clock) ∧
        (∀ f < 32, directExit s.map f = true → s.rgc.state ≠ .active → (t.floor f).cause = some .direct))

/-- R38: HOLD_EXTENSION and RELEASE_EXTENSION are refused in QUIET. A hold already set or already clear is answered OK
with nothing changed. HOLD sets hold and posts the REGIME notice; RELEASE clears it and promotion is evaluated. -/
def Obligations.HoldAndRelease : Prop :=
  ∀ (s : State) (req : Request), req.body = [] →
    (Serves s 0x25 req →
      (s.rgc.state = .quiet → exec .holdExtension s = .next (answered s req .refusedState [])) ∧
      (s.rgc.state ≠ .quiet → s.rgc.hold = true → exec .holdExtension s = .next (answered s req .ok [])) ∧
      (s.rgc.state ≠ .quiet → s.rgc.hold = false →
        let u : State := { s with rgc := { s.rgc with hold := true } }
        exec .holdExtension s = .next (answered { u with hlc := s.hlc.post .regime (regimeBody u) } req .ok []))) ∧
    (Serves s 0x26 req →
      (s.rgc.state = .quiet → exec .releaseExtension s = .next (answered s req .refusedState [])) ∧
      (s.rgc.state ≠ .quiet → s.rgc.hold = false → exec .releaseExtension s = .next (answered s req .ok [])) ∧
      (s.rgc.state ≠ .quiet → s.rgc.hold = true →
        ∃ t, exec .releaseExtension s = .next t ∧ Done s t req .ok [] ∧ RegimeOnly s t ∧
          t.rgc = ({ s.rgc with hold := false } : Rgc).promote s.map))

/-- R36: FLOOR_CLEAR of a present floor in EVACUATE makes it CLEARED with cause HOST, promotion is evaluated and the
answer is OK; an index that is not a present floor is refused with REFUSED_RANGE, and a present floor in any other phase
with REFUSED_STATE, nothing changing. -/
def Obligations.FloorClearClears : Prop :=
  ∀ (s : State) (req : Request) (f : Byte), Serves s 0x27 req → req.body = [f] →
    (floorPresent s.map f.toNat = false → exec .floorClear s = .next (answered s req .refusedRange [])) ∧
    (floorPresent s.map f.toNat = true → (s.floor f.toNat).phase ≠ .evacuate →
      exec .floorClear s = .next (answered s req .refusedState [])) ∧
    (floorPresent s.map f.toNat = true → (s.floor f.toNat).phase = .evacuate →
      ∃ t, exec .floorClear s = .next t ∧ Done s t req .ok [] ∧ RegimeOnly s t ∧
        t.rgc = (s.rgc.mapFloors (fun g => g = f.toNat) fun _ x =>
          { x with phase := .cleared, cause := some .host }).promote s.map)

/-- R13, R43 to R45, R189: RESET_REGIME is refused in QUIET. Otherwise every CONFIRMED zone whose condition is not ALARM
is freed, every other zone stays, and the answer is OK with the regime QUIET, every present floor back in phase NONE,
the queue empty and hold clear, or PARTIAL with the regime's state kept; the response carries the zones freed and what
remains. Each count is one byte (assumption 12). -/
def Obligations.ResetRegimeFreesAndReturns : Prop :=
  ∀ (s : State) (req : Request), Serves s 0x29 req → req.body = [] →
    (s.rgc.state = .quiet → exec .resetRegime s = .next (answered s req .refusedState [])) ∧
    (s.rgc.state ≠ .quiet →
      ∃ t, ∃ ok : Bool, exec .resetRegime s = .next t ∧
        Done s t req (if ok then .ok else .partly)
          (e8 ((List.range 128).filter fun z => (s.zone z).eval = .confirmed ∧ (s.zone z).condition ≠ .alarm).length ++
            eSet (fireSet s.map t.rgc .alarm) ++ eSet (fireSet s.map t.rgc .preAlarm) ++
            e8 (t.confirmedCount ZoneClass.isMachine) ++ e8 (t.confirmedCount ZoneClass.isFloorless)) ∧
        (∀ z < 128, t.zone z = if (s.zone z).eval = .confirmed ∧ (s.zone z).condition ≠ .alarm then
          { s.zone z with eval := .quiet, count := 0, deadline := none } else s.zone z) ∧
        t.mst = s.mst ∧ t.uptime = s.uptime ∧
        (ok = true ↔ fireSet s.map t.rgc .alarm = 0 ∧ fireSet s.map t.rgc .preAlarm = 0 ∧
          t.confirmedCount ZoneClass.isMachine = 0 ∧ t.confirmedCount ZoneClass.isFloorless = 0) ∧
        (ok = true → t.rgc.state = .quiet ∧ t.rgc.queue = [] ∧ t.rgc.hold = false ∧ t.rgc.muteUntil = none ∧
          t.rgc.clock = s.rgc.clock ∧ t.rgc.latestOrigin = s.rgc.latestOrigin ∧ t.rgc.origins = s.rgc.origins ∧
          ∀ f < 32, floorPresent s.map f = true → (t.floor f).phase = .none ∧ (t.floor f).cause = none ∧
            (t.floor f).evacuateAt = 65535 ∧ (t.floor f).alarmLatch = false ∧ (t.floor f).firstAlarmAt = none) ∧
        (ok = false → t.rgc.state = s.rgc.state ∧ t.rgc.queue = s.rgc.queue ∧
          ∀ f < 32, (t.floor f).phase = (s.floor f).phase))

/-! ## The load budget -/

/-- R55 to R58: a grant pass takes no claim from anybody: every claim granted before stays granted, at its cost and its
place in the order of grants, and a claim it grants was waiting. The refill moves reserve-drawn claims into the shared
pool while they fit there, those of the door reserve only when no P0 or P1 claim waited at the start. Claims are tried
in the order of the wait list: the first is granted from the shared pool where it fits, or else from the reserve of its
level where it fits there; and a claim still waiting at the end fits no source open to it. With a P0 or P1 claim
waiting at the end, no claim of level P2 or lower has been granted from the shared pool in it. -/
def Obligations.GrantPassOnlyGrants : Prop :=
  ∀ (l : Lbu) (cap : Capacity), (l.claims.map Claim.claimant).Nodup →
    let after := (l.pass cap).1
    let refilled := l.refill cap
    List.Sublist (l.pass cap).2 (l.waitList.map Claim.claimant) ∧
    ∀ c ∈ l.claims, ∃ d ∈ after.claims,
      d.claimant = c.claimant ∧ d.level = c.level ∧ d.cost = c.cost ∧ d.placed = c.placed ∧
      (c.source ≠ none → d.source ≠ none ∧ d.granted = c.granted) ∧
      (c.claimant ∈ (l.pass cap).2 ↔ c.source = none ∧ d.source ≠ none) ∧
      (c.source = some .shared → d.source = some .shared) ∧
      (c.source = some .audioReserve ∨ (c.source = some .doorReserve ∧ l.urgentWaiting = false) →
        d.source = some .shared ∨ (d.source = c.source ∧ cap.shared < after.used .shared + c.cost)) ∧
      (c.source = some .doorReserve → l.urgentWaiting = true → d.source = some .doorReserve) ∧
      (l.waitList.head? = some c →
        (refilled.used .shared + c.cost ≤ cap.shared → d.source = some .shared) ∧
        (cap.shared < refilled.used .shared + c.cost → ∀ src, reserveOf c.level = some src →
          refilled.used src + c.cost ≤ cap.of src → d.source = some src)) ∧
      (d.source = none →
        ((2 ≤ c.level ∧ after.urgentWaiting = true) ∨ cap.shared < after.used .shared + c.cost) ∧
        ∀ src, reserveOf c.level = some src → cap.of src < after.used src + c.cost) ∧
      (after.urgentWaiting = true → 2 ≤ c.level → c.source = none → d.source ≠ some .shared)

/-- R59, R60: shedding the shared pool takes the first claims of the shed order, the lowest priority first and the
latest grant first within a level, and no more of them than bring the pool within S. A claim taken is re-sourced to the
reserve of its level when it fits there beside those re-sourced before it, keeping its order of grant, and is shed and
gone otherwise. The claims not taken, those drawn from the reserves and those waiting all stay as they are. -/
def Obligations.SheddingFollowsTheOrder : Prop :=
  ∀ (l : Lbu) (cap : Capacity), (l.claims.map Claim.claimant).Nodup →
    let r := shedShared cap ⟨l, [], 0⟩
    let order := l.shedOrder .shared
    order.Pairwise (fun a b =>
      b.level < a.level ∨ (a.level = b.level ∧ b.granted.getD 0 ≤ a.granted.getD 0)) ∧
    r.lbu.used .shared ≤ cap.shared ∧
    ∃ n ≤ order.length,
      (0 < n → cap.shared < ((order.drop (n - 1)).map Claim.cost).sum) ∧
      (∀ c ∈ l.claims, c.source ≠ some .shared ∨ c ∈ order.drop n → c ∈ r.lbu.claims) ∧
      (∀ k < n, ∀ c, order[k]? = some c →
        let fits := ∃ src, reserveOf c.level = some src ∧
          l.used src + (((order.take k).filter fun b => reserveOf b.level = some src ∧ b.claimant ∉ r.shed).map
            Claim.cost).sum + c.cost ≤ cap.of src
        (fits → c.claimant ∉ r.shed ∧
          ∃ src, reserveOf c.level = some src ∧ { c with source := some src } ∈ r.lbu.claims) ∧
        (¬ fits → c.claimant ∈ r.shed ∧ ∀ d ∈ r.lbu.claims, d.claimant ≠ c.claimant)) ∧
      r.shed.length + r.resourced = n

/-! ## Stair doors -/

/-- R76, R67, R68: DOOR_RELEASE. A door that is not present is refused with REFUSED_RANGE, any door outside QUIET with
REFUSED_STATE, and a door already under manual release is left as it is. Otherwise manual is set: a LOCKED door whose
floor node is not LOST is queued and has a claim; a RELOCKING one has re_request set; any other keeps its state. -/
def Obligations.DoorReleaseSetsManual : Prop :=
  ∀ (s : State) (req : Request) (n : Byte), Serves s 0x2C req → req.body = [n] →
    let d := n.toNat
    (doorPresent s.map d = false → exec .doorRelease s = .next (answered s req .refusedRange [])) ∧
    (doorPresent s.map d = true → s.rgc.state ≠ .quiet →
      exec .doorRelease s = .next (answered s req .refusedState [])) ∧
    (doorPresent s.map d = true → s.rgc.state = .quiet → (s.door d).manual = true →
      exec .doorRelease s = .next (answered s req .ok [])) ∧
    (doorPresent s.map d = true → s.rgc.state = .quiet → (s.door d).manual = false →
      ∃ t, exec .doorRelease s = .next t ∧ Done s t req .ok [] ∧ SupplyOnly s t ∧ (t.door d).manual = true ∧
        ((s.door d).state = .locked → s.nodeLost (.floor (d / 2)) = false →
          t.lbu.has (.door d) = true ∧ (t.door d).state ∈ [.releasePending, .releasing, .released]) ∧
        ((s.door d).state = .locked → s.nodeLost (.floor (d / 2)) = true → (t.door d).state = .locked) ∧
        ((s.door d).state = .relocking → t.door d = { s.door d with manual := true, reRequest := true }) ∧
        ((s.door d).state ∉ [.locked, .relocking] → t.door d = { s.door d with manual := true }))

/-- R77, R72: DOOR_LOCK. A floor in a phase refuses it; a door without a manual release is left as it is. Otherwise
manual is cleared and the demand ends: a door on its way to release, or released, returns its claim and relocks; a
RELOCKING door forgets its re_request; a LOCKED or DISABLED one keeps its state. -/
def Obligations.DoorLockEndsDemand : Prop :=
  ∀ (s : State) (req : Request) (n : Byte), Serves s 0x2D req → req.body = [n] →
    let d := n.toNat
    (doorPresent s.map d = false → exec .doorLock s = .next (answered s req .refusedRange [])) ∧
    (doorPresent s.map d = true → (s.floor (d / 2)).phase ≠ .none →
      exec .doorLock s = .next (answered s req .refusedState [])) ∧
    (doorPresent s.map d = true → (s.floor (d / 2)).phase = .none → (s.door d).manual = false →
      exec .doorLock s = .next (answered s req .ok [])) ∧
    (doorPresent s.map d = true → (s.floor (d / 2)).phase = .none → (s.door d).manual = true →
      ∃ t, exec .doorLock s = .next t ∧ Done s t req .ok [] ∧ SupplyOnly s t ∧ (t.door d).manual = false ∧
        ((s.door d).state ∈ [.releasePending, .releasing, .released] →
          t.lbu.has (.door d) = false ∧ (t.door d).state ∈ [.relocking, .locked]) ∧
        ((s.door d).state = .relocking → t.door d = { s.door d with manual := false, reRequest := false }) ∧
        ((s.door d).state ∈ [.locked, .disabled] → t.door d = { s.door d with manual := false }))

/-- R78, R79: DOOR_DISABLE takes a present door out of service from any state, returns its claim and clears its strike
supervision; DOOR_ENABLE returns it: LOCKED, or queued at once when its demand stands and its floor node is not LOST. A
door already so is left as it is. -/
def Obligations.DoorDisableAndEnable : Prop :=
  ∀ (s : State) (req : Request) (n : Byte), req.body = [n] →
    let d := n.toNat
    (Serves s 0x2E req →
      (doorPresent s.map d = false → exec .doorDisable s = .next (answered s req .refusedRange [])) ∧
      (doorPresent s.map d = true → (s.door d).state = .disabled →
        exec .doorDisable s = .next (answered s req .ok [])) ∧
      (doorPresent s.map d = true → (s.door d).state ≠ .disabled →
        ∃ t, exec .doorDisable s = .next t ∧ Done s t req .ok [] ∧ SupplyOnly s t ∧ (t.door d).state = .disabled ∧
          (t.door d).manual = (s.door d).manual ∧ (t.door d).reRequest = false ∧ (t.door d).mismatch = 0 ∧
          (t.door d).faulted = false ∧ t.lbu.has (.door d) = false)) ∧
    (Serves s 0x2F req →
      (doorPresent s.map d = false → exec .doorEnable s = .next (answered s req .refusedRange [])) ∧
      (doorPresent s.map d = true → (s.door d).state ≠ .disabled →
        exec .doorEnable s = .next (answered s req .ok [])) ∧
      (doorPresent s.map d = true → (s.door d).state = .disabled →
        ∃ t, exec .doorEnable s = .next t ∧ Done s t req .ok [] ∧ SupplyOnly s t ∧
          (t.door d).manual = (s.door d).manual ∧
          (s.doorDemand d = none ∨ s.nodeLost (.floor (d / 2)) = true → (t.door d).state = .locked) ∧
          (s.doorDemand d ≠ none → s.nodeLost (.floor (d / 2)) = false →
            t.lbu.has (.door d) = true ∧ (t.door d).state ∈ [.releasePending, .releasing, .released])))

/-- R83: a present LOCKED or DISABLED door that has stood open for door_open_time is held, and nothing else of the doors
changes; a door whose time has not run out, or that is already held, keeps everything. R97: a present car in
RECALL_ISSUED, RECALLING or LOST whose recall has run for recall_time is late, and nothing else of the cars changes;
before its time, or when it is late already, nothing does. That an expiry which does not occur changes nothing is
assumption 3. -/
def Obligations.SupervisionTimers : Prop :=
  (∀ (s : State) (d : Nat),
    (s.hlc.started = true → doorPresent s.map d = true → (s.door d).state ∈ [.locked, .disabled] →
      (s.door d).held = false → (∃ e, (s.door d).heldSince = some e ∧ e + doorOpenTime s.map ≤ s.uptime) →
      ∃ t, exec (.doorHeldExpiry d) s = .next t ∧ t.door d = { s.door d with held := true } ∧
        (∀ e, e ≠ d → t.door e = s.door e) ∧ { t with doors := s.doors, trc := s.trc, hlc := s.hlc } = s) ∧
    ((s.door d).held = true ∨ (∀ e, (s.door d).heldSince = some e → s.uptime < e + doorOpenTime s.map) →
      exec (.doorHeldExpiry d) s = .next s)) ∧
  ∀ (s : State) (c : Nat),
    (s.hlc.started = true → carPresent s.map c = true → (s.car c).state ∈ [.recallIssued, .recalling, .lost] →
      (s.car c).late = false → (∃ e, (s.car c).recallStarted = some e ∧ e + recallTime s.map ≤ s.uptime) →
      ∃ t, exec (.recallLateExpiry c) s = .next t ∧ t.car c = { s.car c with late := true } ∧
        (∀ i, i ≠ c → t.car i = s.car i) ∧ t.cru.banks = s.cru.banks ∧
        { t with cru := s.cru, trc := s.trc, hlc := s.hlc } = s) ∧
    ((s.car c).late = true ∨ (∀ e, (s.car c).recallStarted = some e → s.uptime < e + recallTime s.map) →
      exec (.recallLateExpiry c) s = .next s)

/-! ## Cars -/

/-- R91: the choice of a bank's recall floor: the effective primary while its lobby_alarm is clear; else the effective
alternate when there is one and its lobby_alarm is clear; else the landing of the bank nearest the ground floor g, the
lower index of two at one distance, whose lobby_alarm is clear and whose fire state is not ALARM; and the effective
primary where there is none. -/
def Obligations.RecallFloorChoice : Prop :=
  ∀ (s : State) (b : Nat),
    let primary := effectivePrimary s.map b
    let g := groundFloor s.map
    let distance := fun f : Nat => (f - g) + (g - f)
    let safe := fun f => f < 32 ∧ bankServes s.map b f = true ∧ (s.floor f).lobbyAlarm = false ∧
      (s.floor f).fireState ≠ .alarm
    ((s.floor primary).lobbyAlarm = false → s.chooseRecall b = ⟨primary, .primary⟩) ∧
    ((s.floor primary).lobbyAlarm = true → ∀ a, effectiveAlternate s.map b = some a → (s.floor a).lobbyAlarm = false →
      s.chooseRecall b = ⟨a, .alternate⟩) ∧
    ((s.floor primary).lobbyAlarm = true →
      (∀ a, effectiveAlternate s.map b = some a → (s.floor a).lobbyAlarm = true) →
      ((∀ f, ¬ safe f) → s.chooseRecall b = ⟨primary, .primaryForced⟩) ∧
      ∀ f, safe f → (∀ k, safe k → distance f < distance k ∨ (distance f = distance k ∧ f ≤ k)) →
        s.chooseRecall b = ⟨f, .nearest⟩)

/-- R99: FIREFIGHTER_GRANT of a PARKED, effectively eligible car whose reported key is ON, while fewer cars are in
FIREFIGHTER than are eligible, hands it over, its target kept; the command FIREFIGHTER_ENABLE is sent, or held while a
change is in flight. R101, R93, R96: FIREFIGHTER_END of a car in FIREFIGHTER recalls it toward its bank's recall floor,
or holds it out when its mode is not AUTO. Any other present car is refused with REFUSED_STATE. Other cars stay. -/
def Obligations.FirefighterGrantAndEnd : Prop :=
  ∀ (s : State) (req : Request) (n : Byte), req.body = [n] →
    let c := n.toNat
    (Serves s 0x30 req →
      let may := (s.car c).state = .parked ∧ carEligible s.map c = true ∧ (s.car c).key = some true ∧
        ((List.range 6).filter fun i => (s.car i).state = .firefighter).length < eligibleCount s.map
      (carPresent s.map c = false → exec .firefighterGrant s = .next (answered s req .refusedRange [])) ∧
      (carPresent s.map c = true → ¬ may → exec .firefighterGrant s = .next (answered s req .refusedState [])) ∧
      (carPresent s.map c = true → may →
        ∃ t, exec .firefighterGrant s = .next t ∧ Done s t req .ok [] ∧ CarsOnly s t ∧
          (t.car c).state = .firefighter ∧ (t.car c).target = (s.car c).target ∧
          ((t.car c).command = .firefighterEnable ∨ (t.car c).pendingCommand = some .firefighterEnable) ∧
          (∀ i, i ≠ c → t.car i = s.car i) ∧ t.cru.banks = s.cru.banks)) ∧
    (Serves s 0x31 req →
      (carPresent s.map c = false → exec .firefighterEnd s = .next (answered s req .refusedRange [])) ∧
      (carPresent s.map c = true → (s.car c).state ≠ .firefighter →
        exec .firefighterEnd s = .next (answered s req .refusedState [])) ∧
      (carPresent s.map c = true → (s.car c).state = .firefighter →
        ∃ t, exec .firefighterEnd s = .next t ∧ Done s t req .ok [] ∧ CarsOnly s t ∧
          ((s.car c).inAuto = true →
            (t.car c).state ∈ [.recallIssued, .recalling] ∧ (t.car c).recallStarted = some s.uptime ∧
            (t.car c).target = some (s.bank (carBank s.map c)).recallFloor) ∧
          ((s.car c).inAuto = false →
            (t.car c).state = .heldOut ∧ (t.car c).target = none ∧ (t.car c).recallStarted = none ∧
            (t.car c).heldOutActive = true) ∧
          (t.car c).late = false ∧ (∀ i, i ≠ c → t.car i = s.car i) ∧ t.cru.banks = s.cru.banks))

/-- R102: CAR_RETURN outside QUIET is refused; in QUIET a named car in FIREFIGHTER or LOST is refused, a recalled,
parked, held-out or shut-down one enters IN_SERVICE with no target and NORMAL wanted, one in service stays; 0xFF does
so for every present car and leaves those in FIREFIGHTER and LOST. A car's index is judged before the regime's state,
which R102 leaves open (assumption 31). -/
def Obligations.CarReturnEndsRecall : Prop :=
  ∀ (s : State) (req : Request) (n : Byte), Serves s 0x32 req → req.body = [n] →
    let c := n.toNat
    (c ≠ 0xFF → carPresent s.map c = false → exec .carReturn s = .next (answered s req .refusedRange [])) ∧
    (c = 0xFF ∨ carPresent s.map c = true → s.rgc.state ≠ .quiet →
      exec .carReturn s = .next (answered s req .refusedState [])) ∧
    (carPresent s.map c = true → s.rgc.state = .quiet → (s.car c).state ∈ [.firefighter, .lost] →
      exec .carReturn s = .next (answered s req .refusedState [])) ∧
    (c = 0xFF ∨ (carPresent s.map c = true ∧ (s.car c).state ∉ [.firefighter, .lost]) → s.rgc.state = .quiet →
      ∃ t, exec .carReturn s = .next t ∧ Done s t req .ok [] ∧ CarsOnly s t ∧ t.cru.banks = s.cru.banks ∧
        ∀ i, if (i = c ∨ c = 0xFF) ∧ carPresent s.map i = true ∧
            (s.car i).state ∈ [.parked, .shutDown, .heldOut, .recallIssued, .recalling] then
          (t.car i).state = .inService ∧ (t.car i).target = none ∧ (t.car i).recallStarted = none ∧
          (t.car i).late = false ∧ (t.car i).shutdownDue = false ∧ (t.car i).heldOutActive = false ∧
          ((t.car i).command = .normal ∨ (t.car i).pendingCommand = some .normal)
        else t.car i = s.car i)

/-! ## Programs and the player port -/

/-- R127: LIVE_START replaces LIVE's given set in every state and LIVE's floor set becomes its present floors; LIVE_STOP
changes nothing on LIVE in IDLE and empties both sets otherwise. Zones, regime and cars stay. For IDLE the model follows
the last sentence of R127 on LIVE_STOP (assumption 27). -/
def Obligations.LiveSetsItsFloors : Prop :=
  ∀ (s : State) (req : Request),
    (Serves s 0x34 req → req.body.length = 4 →
      ∃ t, exec .liveStart s = .next t ∧ Done s t req .ok [] ∧ SupplyOnly s t ∧
        (t.program .live).givenSet = setAt req.body 0 ∧
        (t.program .live).floorSet = setAt req.body 0 &&& presentSet s.map ∧
        ((s.program .live).state = .idle → (s.program .live).floorSet = 0 → (t.program .live).floorSet ≠ 0 →
          (t.program .live).state ∈ [.waitingChannel, .waitingBudget, .playing])) ∧
    (Serves s 0x35 req → req.body = [] →
      ((s.program .live).state = .idle → exec .liveStop s = .next (answered s req .ok [])) ∧
      ((s.program .live).state ≠ .idle →
        ∃ t, exec .liveStop s = .next t ∧ Done s t req .ok [] ∧ SupplyOnly s t ∧ (t.program .live).givenSet = 0 ∧
          (t.program .live).floorSet = 0 ∧
          ((s.program .live).floorSet ≠ 0 → (s.program .live).state ∈ [.waitingChannel, .waitingBudget] →
            (t.program .live).state = .idle ∧ (t.program .live).stopReason = some .host) ∧
          ((s.program .live).floorSet ≠ 0 → (s.program .live).state = .playing →
            (t.program .live).state = .stopping ∧ (t.program .live).stopReason = some .host)))

/-- R128: TENANT_START is refused with REFUSED_RANGE for a template above 15, a count outside 1 to 20 or a set with no
present floor, then with REFUSED_STATE while TENANT is not IDLE, in AUTONOMOUS, or when no present floor of the set is
in phase NONE; otherwise TENANT starts with the set, the template and the count. TENANT_STOP leaves an IDLE TENANT as
it is and empties the set of any other. R129: TEST_START is refused with REFUSED_RANGE for a template above 15 or a set
with no present floor, then with REFUSED_STATE outside QUIET or while TEST is not IDLE; otherwise TEST starts with the
set and the template, for one run. A program in IDLE holds no channel (R109), which the start takes as given. The count
left is the whole count while the program waits, and when it begins to play a template whose first slot is not skipped.
-/
def Obligations.TenantAndTestStart : Prop :=
  ∀ (s : State) (req : Request),
    let plays := fun template : Nat =>
      ∃ x, templateSlot s.map template 0 = some x ∧ (x = .originFloor → s.rgc.latestOrigin ≠ none)
    (Serves s 0x36 req → req.body.length = 6 →
      let given := setAt req.body 0
      let inRange := byteAt req.body 4 ≤ 15 ∧ 1 ≤ byteAt req.body 5 ∧ byteAt req.body 5 ≤ 20 ∧
        given &&& presentSet s.map ≠ 0
      let may := (s.program .tenant).state = .idle ∧
        ∃ f < 32, given.getLsbD f = true ∧ floorPresent s.map f = true ∧ (s.floor f).phase = .none
      (¬ inRange → exec .tenantStart s = .next (answered s req .refusedRange [])) ∧
      (inRange → ¬ may → exec .tenantStart s = .next (answered s req .refusedState [])) ∧
      (inRange → may → (s.program .tenant).floorSet = 0 → (∀ c < 6, (s.channel c).holder ≠ some .tenant) →
        ∃ t, exec .tenantStart s = .next t ∧ Done s t req .ok [] ∧ SupplyOnly s t ∧
          (t.program .tenant).template = some (byteAt req.body 4) ∧ (t.program .tenant).state ≠ .idle ∧
          ((t.program .tenant).state ≠ .stopping → (t.program .tenant).givenSet = given) ∧
          ((t.program .tenant).state ∈ [.waitingChannel, .waitingBudget] ∨ plays (byteAt req.body 4) →
            (t.program .tenant).repeatsLeft = byteAt req.body 5))) ∧
    (Serves s 0x37 req → req.body = [] →
      ((s.program .tenant).state = .idle → exec .tenantStop s = .next (answered s req .ok [])) ∧
      ((s.program .tenant).state ≠ .idle →
        ∃ t, exec .tenantStop s = .next t ∧ Done s t req .ok [] ∧ SupplyOnly s t ∧
          (t.program .tenant).givenSet = 0 ∧ (t.program .tenant).floorSet = 0)) ∧
    (s.servable = some req → req.code = 0x36 → s.hlc.mode = .autonomous → req.body.length = 6 →
      byteAt req.body 4 ≤ 15 → 1 ≤ byteAt req.body 5 → byteAt req.body 5 ≤ 20 →
      setAt req.body 0 &&& presentSet s.map ≠ 0 →
      ∃ t, exec .tenantStart s = .next t ∧ Responds s t req .refusedState [] ∧ t.hlc.mode = .hosted ∧
        t.ans.programs = s.ans.programs) ∧
    (Serves s 0x38 req → req.body.length = 5 →
      let given := setAt req.body 0
      let inRange := byteAt req.body 4 ≤ 15 ∧ given &&& presentSet s.map ≠ 0
      let may := s.rgc.state = .quiet ∧ (s.program .test).state = .idle
      (¬ inRange → exec .testStart s = .next (answered s req .refusedRange [])) ∧
      (inRange → ¬ may → exec .testStart s = .next (answered s req .refusedState [])) ∧
      (inRange → may → (s.program .test).floorSet = 0 → (∀ c < 6, (s.channel c).holder ≠ some .test) →
        ∃ t, exec .testStart s = .next t ∧ Done s t req .ok [] ∧ SupplyOnly s t ∧
          (t.program .test).template = some (byteAt req.body 4) ∧ (t.program .test).state ≠ .idle ∧
          ((t.program .test).state ≠ .stopping → (t.program .test).givenSet = given) ∧
          ((t.program .test).state ∈ [.waitingChannel, .waitingBudget] ∨ plays (byteAt req.body 4) →
            (t.program .test).repeatsLeft = 1)))

/-- R121: a floor's desired speaker channel is the channel of the highest-priority PLAYING program whose floor set
contains it, or OFF. At the comparison of a floor's join the desired channel is recorded; it is sent, unconfirmed, when
it differs from the one sent and no change of the floor's node is in flight, held as pending when one is, and a pending
value is withdrawn when it equals the one sent. A floor whose node has no entry has no change in flight (assumption
14), so that its channel is taken as sent, unconfirmed, and no payload goes to any node. -/
def Obligations.SpeakersFollowPriority : Prop :=
  (∀ (s : State) (k : ProgramKind) (c f : Nat), (s.program k).state = .playing → (s.program k).channel = some c →
    (s.program k).floorSet.getLsbD f = true →
    (∀ j : ProgramKind, j.priority < k.priority →
      (s.program j).state ≠ .playing ∨ (s.program j).floorSet.getLsbD f = false) →
    s.selectorFor f = .channel c) ∧
  (∀ (s : State) (f : Nat),
    (∀ k, (s.program k).state ≠ .playing ∨ (s.program k).floorSet.getLsbD f = false) → s.selectorFor f = .off) ∧
  ∀ (w : Work) (f : Nat), f < 32 → f ∉ w.given →
    let j := w.join f
    let d := w.selectorFor f
    (d = j.sent → (w.compareJoin f).join f = { j with desired := d, pending := none }) ∧
    (d ≠ j.sent → w.nodeInFlight (.floor f) = true →
      (w.compareJoin f).join f = { j with desired := d, pending := some d }) ∧
    (d ≠ j.sent → w.nodeInFlight (.floor f) = false →
      (w.compareJoin f).join f = { j with desired := d, sent := d, pending := none, confirmed := false }) ∧
    (d ≠ j.sent → w.entryOf (.floor f) = none →
      (w.compareJoin f).join f = { j with desired := d, sent := d, pending := none, confirmed := false } ∧
      (w.compareJoin f).rbm = w.rbm) ∧
    ∀ g, g ≠ f → (w.compareJoin f).join g = w.join g

/-- R117, R118: at the end of a PAUSE slot the next slot begins, and at the end of a silent second slot 0. A PHRASE, a
TONE and, with an origin, an ORIGIN_FLOOR slot issue PLAY of their phrase, the origin's label, on the program's channel,
which then awaits it; a PAUSE slot holds its time; without an origin an ORIGIN_FLOOR slot is passed over in the same
event. Where the template ends, a repetition that has played is followed at once by slot 0 of the next, for EVACUATE and
ALERT and while repeats_left stays above 0, and one that has played nothing, this one or the one that follows it in
the same event, by a silent second; that this second stands at slot 0 with played clear, and that its end begins slot
0, is assumption 25. With no repetition left the program completes: STOP is issued, the claim returned, the floors
given up, and slot keeps the last step (assumption 34). A template has at most 12 slots (R111), which bounds what one
event passes over. A program without a pause that has
run out keeps everything (assumption 3). -/
def Obligations.PauseEndsInTheNextSlot : Prop :=
  ∀ (s : State) (k : ProgramKind),
    let x := s.program k
    let slot := templateSlot s.map (s.templateOf k)
    let skipped := fun i => slot i = some .originFloor ∧ s.rgc.latestOrigin = none
    let plays := fun i n => slot i = some (.phrase n) ∨ slot i = some (.tone n) ∨
      (slot i = some .originFloor ∧ ∃ o, s.rgc.latestOrigin = some o ∧ n = labelPhrase s.map o)
    let first := if x.played then x.slot + 1 else 0
    let reached := fun i => first ≤ i ∧ i ≤ first + 12 ∧ ∀ j, first ≤ j → j < i → skipped j
    let left := if endless k then x.repeatsLeft else x.repeatsLeft - 1
    let begun : Program := if x.played then { x with phraseStarted := none } else { x with played := true }
    let begins := fun (i : Nat) (y : Program) => (reached i ∧ y = begun) ∨
      (x.played = true ∧ (∃ e, reached e ∧ slot e = none) ∧ (endless k = true ∨ 1 < x.repeatsLeft) ∧
        i ≤ 12 ∧ (∀ j < i, skipped j) ∧ y = { begun with repeatsLeft := left })
    -- a repetition ends at `i` with `n` of repeats_left before it is counted, `b` the step before it began
    let barren := fun (i n b : Nat) => slot i = none ∧
      ((x.played = false ∧ reached i ∧ n = x.repeatsLeft ∧ b = x.slot) ∨
        (x.played = true ∧ reached (b + 1) ∧ slot (b + 1) = none ∧ (endless k = true ∨ 1 < x.repeatsLeft) ∧
          i ≤ 12 ∧ (∀ j < i, skipped j) ∧ n = left))
    let finished := fun (i n b : Nat) => barren i n b ∨
      (x.played = true ∧ reached i ∧ slot i = none ∧ n = x.repeatsLeft ∧ b = x.slot)
    (∀ (e c : Nat), s.hlc.started = true → x.state = .playing → x.pauseUntil = some e → e ≤ s.uptime →
      x.channel = some c → c < 6 → ∃ t, exec (.pauseExpiry k) s = .next t ∧ LinkKept s t ∧
        (∀ i n y, begins i y → plays i n →
          t.program k = { y with slot := i, pauseUntil := none, phraseStarted := some s.uptime } ∧
          t.plp = { s.plp with commands := s.plp.commands ++ [.play c n] } ∧
          t.channel c = { s.channel c with awaiting := .phrase, issuedAt := some s.uptime } ∧
          (∀ j, j ≠ k → t.program j = s.program j) ∧ (∀ d, d ≠ c → t.channel d = s.channel d) ∧
          t.ans.joins = s.ans.joins ∧ { t with ans := s.ans, plp := s.plp, hlc := s.hlc } = s) ∧
        (∀ i n y, begins i y → slot i = some (.pause n) →
          t.program k = { y with slot := i, pauseUntil := some (s.uptime + n) } ∧
          (∀ j, j ≠ k → t.program j = s.program j) ∧ t.ans.channels = s.ans.channels ∧
          t.ans.joins = s.ans.joins ∧ { t with ans := s.ans, hlc := s.hlc } = s) ∧
        (∀ i n b, barren i n b → endless k = true ∨ 1 < n →
          t.program k = { x with
            slot := 0, pauseUntil := some (s.uptime + 1), played := false,
            phraseStarted := if x.played then none else x.phraseStarted,
            repeatsLeft := if endless k then n else n - 1 } ∧
          (∀ j, j ≠ k → t.program j = s.program j) ∧ t.ans.channels = s.ans.channels ∧
          t.ans.joins = s.ans.joins ∧ { t with ans := s.ans, hlc := s.hlc } = s) ∧
        (∀ i n b, finished i n b → endless k = false → n ≤ 1 → (∀ j, j ≠ k → (s.program j).channel ≠ some c) →
          (t.program k).state = .stopping ∧ (t.program k).stopReason = some .completed ∧
          (t.program k).slot = (if i = 0 then b else i - 1) ∧ (t.program k).repeatsLeft = 0 ∧
          (t.program k).givenSet = 0 ∧ (t.program k).floorSet = 0 ∧ (t.program k).channel = some c ∧
          .stop c ∈ t.plp.commands ∧ (t.channel c).state = .stopping ∧ (t.channel c).awaiting = .stop ∧
          t.lbu.has (.program k) = false ∧ SupplyOnly s t)) ∧
    (x.state ≠ .playing ∨ (∀ e, x.pauseUntil = some e → s.uptime < e) → exec (.pauseExpiry k) s = .next s)

/-- R123, R186: the command at the head of the list is sent as its four bytes and leaves the list; a transaction of
another kind than the head's does not occur. That it changes nothing is assumption 3. Once the list is empty a STATUS
transaction may begin, which the model records in `drained` (assumption 19). -/
def Obligations.PlayerSendsTheHead : Prop :=
  ∀ (s : State) (c n : Nat) (rest : List PlayerCommand), s.hlc.started = true →
    (s.plp.commands = .play c n :: rest →
      exec .play s = .next { s with
        plp := ⟨rest, some [0x01, byte c, byte (n / 256 % 4), byte n], rest.isEmpty⟩, hlc := s.hlc.arbitrate } ∧
      exec .stop s = .next s ∧ exec .routeLive s = .next s) ∧
    (s.plp.commands = .stop c :: rest →
      exec .stop s = .next { s with
        plp := ⟨rest, some [0x02, byte c, 0, 0], rest.isEmpty⟩, hlc := s.hlc.arbitrate } ∧
      exec .play s = .next s ∧ exec .routeLive s = .next s) ∧
    (s.plp.commands = .routeLive c :: rest →
      exec .routeLive s = .next { s with
        plp := ⟨rest, some [0x03, byte c, 0, 0], rest.isEmpty⟩, hlc := s.hlc.arbitrate } ∧
      exec .play s = .next s ∧ exec .stop s = .next s)

/-- R123, R124, R186: a STATUS reply of a transaction that began with the command list empty is bad when its ready flag
is clear or its four bytes are 0xFF. A bad one sets PLAYER_LOST and records no flag; a good one clears it and records
each channel's busy and fault flags. The transaction's bytes are 04H and three zeros, and zones, regime and cars stay.
While commands of the list are still to be sent (assumption 19), no STATUS transaction begins. That it then changes
nothing is assumption 3. -/
def Obligations.StatusRecordsTheFlags : Prop :=
  ∀ (s : State) (r : StatusReply), s.hlc.started = true →
    let bad := r.ready.getLsbD 0 = false ∨ (r.busy = 0xFF ∧ r.fault = 0xFF ∧ r.ready = 0xFF ∧ r.spare = 0xFF)
    (s.plp.commands ≠ [] → s.plp.drained = false → exec (.status r) s = .next s ∧ exec (.phraseTimeout r) s = .next s) ∧
    (s.plp.commands = [] ∨ s.plp.drained = true →
      ∃ t, exec (.status r) s = .next t ∧ SupplyOnly s t ∧ LinkKept s t ∧ t.plp.lastSent = some [0x04, 0, 0, 0] ∧
        t.plp.drained = t.plp.commands.isEmpty ∧
        (bad → t.ans.playerLost = true ∧
          ∀ c < 6, (t.channel c).busy = (s.channel c).busy ∧ (t.channel c).fault = (s.channel c).fault) ∧
        (¬ bad → t.ans.playerLost = false ∧
          ∀ c < 6, (t.channel c).busy = r.busy.getLsbD c ∧ (t.channel c).fault = r.fault.getLsbD c))

/-- R124, R125: a good reply that finds the channel of a PLAYING program still busy max_phrase_time after its phrase
makes the channel FAULTED with its fault condition set and STOP issued for it. It is stated for a part whose other
channels are FREE, so that the reply judges no other. A channel not FAULTED whose fault flag a good reply shows becomes
FAULTED with its fault condition set; it is stated for a channel that every program on it holds, HELD or STOPPING (R109,
R112). A bad reply leaves every channel FAULTED, with the fault conditions as they
stood, and a PLAYING program waits for a channel again with reason FAULT. R117 to R119, R123, R124: a good reply whose
transaction followed the command awaited on a channel and that shows the channel neither busy nor in fault. On the
channel of a PLAYING program awaiting a phrase it is the phrase completion: the next slot begins, or slot 0 again for
EVACUATE and ALERT, a PHRASE slot issuing PLAY; with no repetition left another program completes and its slot keeps
the last step (assumption 34). On a STOPPING channel it is the stop completion: a holder without floors enters IDLE and
gives the channel up, one with floors waits again and is given a FREE channel by the arbiter of the same event, and the
program the channel stands reserved for holds
it. It is stated for a part whose other channels are FREE, so that the arbiter preempts nobody. -/
def Obligations.PhraseTimeoutFaultsTheChannel : Prop :=
  (∀ (s : State) (r : StatusReply) (c e : Nat) (k : ProgramKind), s.hlc.started = true →
    s.plp.commands = [] ∨ s.plp.drained = true →
    r.ready.getLsbD 0 = true → r.spare ≠ 0xFF → c < 6 → r.busy.getLsbD c = true →
    (∀ d < 6, r.fault.getLsbD d = false) → (∀ d < 6, d ≠ c → (s.channel d).state = .free) →
    (s.channel c).state = .held → (s.channel c).holder = some k → (s.channel c).awaiting = .phrase →
    (s.channel c).issuedAt = some e → e + maxPhraseTime s.map ≤ s.uptime →
    (s.program k).state = .playing → (∀ j, j ≠ k → (s.program j).channel ≠ some c) →
    ∃ t, exec (.phraseTimeout r) s = .next t ∧ SupplyOnly s t ∧ LinkKept s t ∧
      (t.channel c).state = .faulted ∧ (t.channel c).faultCondition = true ∧ (t.channel c).holder = none ∧
      .stop c ∈ t.plp.commands) ∧
  (∀ (s : State) (r : StatusReply) (c : Nat), s.hlc.started = true → s.plp.commands = [] ∨ s.plp.drained = true → c < 6 →
    (∀ j, (s.program j).channel = some c →
      (s.channel c).holder = some j ∧ (s.channel c).state ∈ [.held, .stopping]) →
    ∃ t, exec (.status r) s = .next t ∧
      (badStatus r = false → r.fault.getLsbD c = true → (s.channel c).state ≠ .faulted →
        (t.channel c).state = .faulted ∧ (t.channel c).faultCondition = true) ∧
      (badStatus r = true →
        (t.channel c).state = .faulted ∧ (t.channel c).faultCondition = (s.channel c).faultCondition ∧
        ∀ k, (s.channel c).state = .held → (s.channel c).holder = some k → (s.program k).state = .playing →
          (∀ d < 6, d ≠ c → (s.channel d).holder ≠ some k) →
          (t.program k).state = .waitingChannel ∧ (t.program k).channel = none ∧
          (t.program k).stopReason = some .fault ∧ (t.program k).slot = 0 ∧
          (t.program k).repeatsLeft = (s.program k).repeatsLeft)) ∧
  ∀ (s : State) (r : StatusReply) (c : Nat) (h : ProgramKind), s.hlc.started = true →
    s.plp.commands = [] ∨ s.plp.drained = true → badStatus r = false → c < 6 → r.busy.getLsbD c = false →
    (∀ d < 6, r.fault.getLsbD d = false) →
    (∀ d < 6, d ≠ c → (s.channel d).state = .free ∧ (s.channel d).reservedFor = none) →
    (∀ q ∈ s.plp.commands, q.channel ≠ c) → (s.channel c).holder = some h →
    (∀ j, j ≠ h → (s.program j).channel ≠ some c) →
    ∃ t, exec (.status r) s = .next t ∧ SupplyOnly s t ∧ LinkKept s t ∧
      ((s.channel c).state = .held → (s.channel c).awaiting = .phrase → (s.channel c).reservedFor = none →
        (s.program h).state = .playing → (s.program h).channel = some c →
        let x := s.program h
        let slot := templateSlot s.map (s.templateOf h)
        (∀ i n, slot i = some (.phrase n) →
          i = x.slot + 1 ∨ (i = 0 ∧ slot (x.slot + 1) = none ∧ endless h = true ∧ x.played = true) →
          t.program h = { x with slot := i, pauseUntil := none, phraseStarted := some s.uptime, played := true } ∧
          .play c n ∈ t.plp.commands ∧ (t.channel c).state = .held ∧ (t.channel c).awaiting = .phrase ∧
          (t.channel c).issuedAt = some s.uptime) ∧
        (slot (x.slot + 1) = none → endless h = false → x.repeatsLeft ≤ 1 →
          (t.program h).state = .stopping ∧ (t.program h).stopReason = some .completed ∧
          (t.program h).slot = x.slot ∧ (t.program h).givenSet = 0 ∧ (t.program h).floorSet = 0 ∧
          .stop c ∈ t.plp.commands ∧ (t.channel c).state = .stopping ∧ (t.channel c).awaiting = .stop)) ∧
      ((s.channel c).state = .stopping → (s.program h).state = .stopping →
        ((s.program h).floorSet = 0 → (s.channel c).reservedFor ≠ some h →
          (t.program h).state = .idle ∧ (t.program h).channel = none) ∧
        ((s.program h).floorSet ≠ 0 → (s.channel c).reservedFor = none →
          (t.program h).state ≠ .waitingChannel ∧ (t.program h).channel ≠ none) ∧
        ∀ k, k ≠ h → (s.channel c).reservedFor = some k →
          (t.channel c).holder = some k ∧ (t.program k).channel = some c ∧
          (t.program k).state ∈ [.waitingBudget, .playing, .stopping])

/-! ## Troubles -/

/-- R149, R150: a condition that becomes active takes its detail, or adds one behind the others while fewer than 64 are
held, or sets the overflow marker of its group; one that becomes inactive keeps its detail, inactive. No other detail
changes. R155: a group's summary flag is set exactly when the group is unmasked and holds a detail, active or latched,
and the TROUBLE pin is asserted exactly when some group's is. -/
def Obligations.CollectionLatches : Prop :=
  ∀ (t : Trc) (now : Nat) (k : Kind) (n : Nat), t.keysDistinct →
    let a := (t.activate now k n).1
    let i := (t.inactivate k n).1
    ((∃ d ∈ t.details, d.kind = k ∧ d.subject = n) →
      a.details = t.details.map (fun d => if d.kind = k ∧ d.subject = n then { d with active := true } else d) ∧
      a.markers = t.markers) ∧
    ((∀ d ∈ t.details, ¬ (d.kind = k ∧ d.subject = n)) → t.details.length < 64 →
      a.details = t.details ++ [⟨k, n, true, now⟩] ∧ a.markers = t.markers) ∧
    ((∀ d ∈ t.details, ¬ (d.kind = k ∧ d.subject = n)) → 64 ≤ t.details.length →
      a.details = t.details ∧ vget a.markers k.group.code false = true) ∧
    i.details = t.details.map (fun d => if d.kind = k ∧ d.subject = n then { d with active := false } else d) ∧
    i.markers = t.markers ∧ a.masks = t.masks ∧ i.masks = t.masks ∧
    (∀ g : Group, t.summary g = true ↔ vget t.masks g.code false = false ∧ ∃ d ∈ t.details, d.kind.group = g) ∧
    ∀ s : State, s.trc = t → (s.troublePin = true ↔ ∃ g : Group, t.summary g = true)

/-- R154: TROUBLE_MASK and TROUBLE_UNMASK set and clear the masks of the named group, or of all groups, and change no
detail, no marker and no other mask. R152: TROUBLE_CLEAR of a group other than AUDIO whose marker is clear removes its
inactive details and keeps every other, in order; masks and markers stay. Of AUDIO or of all groups it is answered OK
and keeps the masks. A code outside the eight is refused by all three. -/
def Obligations.MasksAndTroubleClear : Prop :=
  ∀ (s : State) (req : Request) (n : Byte) (on : Bool), req.body = [n] →
    (Serves s (if on then 0x3C else 0x3D) req →
      let c : Instr := if on then .troubleMask else .troubleUnmask
      (8 ≤ n.toNat → n.toNat ≠ 0xFF → exec c s = .next (answered s req .refusedRange [])) ∧
      (n.toNat < 8 ∨ n.toNat = 0xFF →
        ∃ t, exec c s = .next t ∧ Done s t req .ok [] ∧ { t with trc := s.trc, hlc := s.hlc } = s ∧
          t.trc.details = s.trc.details ∧ t.trc.markers = s.trc.markers ∧
          ∀ g < 8, vget t.trc.masks g false = if n.toNat = 0xFF ∨ g = n.toNat then on else vget s.trc.masks g false)) ∧
    (Serves s 0x3E req →
      (8 ≤ n.toNat → n.toNat ≠ 0xFF → exec .troubleClear s = .next (answered s req .refusedRange [])) ∧
      (n.toNat < 8 → n.toNat ≠ 4 → vget s.trc.markers n.toNat false = false →
        ∃ t, exec .troubleClear s = .next t ∧ Done s t req .ok [] ∧ { t with trc := s.trc, hlc := s.hlc } = s ∧
          t.trc = { s.trc with details := s.trc.details.filter fun d => !(d.kind.group.code = n.toNat && !d.active) }) ∧
      (n.toNat < 8 ∨ n.toNat = 0xFF →
        ∃ t, exec .troubleClear s = .next t ∧ Done s t req .ok [] ∧ SupplyOnly s t ∧ t.trc.masks = s.trc.masks))

/-! ## The riser bus and the uptime -/

/-- R135, R146: with no poll under way a cycle takes the node set of the map, one entry per configured address in
ascending order, and polls the first; a cycle without addresses ends at once with the next cycle number. The empty cycle
is assumption 17, and that a cycle start during a poll changes nothing is assumption 3. -/
def Obligations.CycleStartTakesTheNodeSet : Prop :=
  ∀ s : State,
    (s.rbm.polling ≠ none → exec .cycleStart s = .next s) ∧
    (s.hlc.started = true → s.rbm.polling = none →
      ∃ t, exec .cycleStart s = .next t ∧ t.rbm.nodes.map NodeEntry.address = (sortedNodeSet s.map).map NodeConfig.address ∧
        t.mst = s.mst ∧ t.uptime = s.uptime ∧ t.rgc = s.rgc ∧ LinkKept s t ∧
        match (sortedNodeSet s.map).map NodeConfig.address with
        | [] => t.rbm.polling = none ∧ t.rbm.cycle = (s.rbm.cycle + 1) % 65536
        | a :: rest => t.rbm.polling.map Poll.address = some a ∧ t.rbm.polling.map Poll.cycle = some s.rbm.cycle ∧
            t.rbm.toPoll = rest ∧ t.rbm.cycle = s.rbm.cycle)

/-- R132, R135 to R137, R139: the end of a poll by its reply or by a miss; the next address that has an entry is polled
under the same cycle number, and after the last the cycle ends and its number increases. A good reply makes its entry
OK with no miss, and records its toggle, its fresh mark, its payload, its fault flag and the cycle of its request. A
reply that fails a check, no reply within its time, and a gap within a reply are each a miss: the entry counts it, a
node that was OK is MISSING, and at the third miss in a row a node that is not LOST is LOST and stale. A reply of
another type than expected makes NODE_TYPE active as well. -/
def Obligations.PollsEndByReplyOrMiss : Prop :=
  ∀ (s : State) (p : Poll) (e : NodeEntry) (bytes : List Byte), s.hlc.started = true → s.rbm.polling = some p →
    s.entryAt p.address = some e →
    (∀ r, checkReply p.address e.type bytes = .good r →
      ∃ t e', exec (.goodReply bytes) s = .next t ∧ PollEnded s t ∧ t.entryAt p.address = some e' ∧
        e'.owner = e.owner ∧ e'.type = e.type ∧ e'.state = .ok ∧ e'.misses = 0 ∧ e'.lastGoodCycle = some p.cycle ∧
        e'.echo = some r.toggle ∧ e'.freshMark = r.fresh ∧ e'.reported = some r.payload ∧ e'.stale = false ∧
        e'.nodeFault = r.fault ∧ e'.typeActive = false ∧ e'.totalMisses = e.totalMisses) ∧
    ((∀ r, checkReply p.address e.type bytes ≠ .good r) →
      ∀ c ∈ [Instr.badReply bytes, .replyTimeout, .replyGapTimeout],
        ∃ t e', exec c s = .next t ∧ PollEnded s t ∧ t.entryAt p.address = some e' ∧ e'.misses = min (e.misses + 1) 3 ∧
          e'.totalMisses = min (e.totalMisses + 1) 65535 ∧
          (e.misses < 2 → e.state = .ok → e'.state = .missing) ∧
          (e.misses = 2 → e.state = .missing ∨ e.state = .unknown → e'.state = .lost ∧ e'.stale = true) ∧
          (e.state = .lost → e'.state = .lost) ∧ e'.reported = e.reported ∧
          (c = .badReply bytes → checkReply p.address e.type bytes = .typeWrong → e'.typeActive = true))

/-- R4 to R8, R12: a good PANEL reply reaches the 32 zones of its panel and no other: each takes the condition reported
and loses its stale mark; a change to ALARM is an edge, which confirms a QUIET zone when it comes from UNKNOWN, when
the zone is MANUAL or when its effective confirm_n is 1, else begins its verification with count 1 and the window
ahead, and counts on a VERIFYING zone until the effective confirm_n confirms it; a VERIFYING zone that becomes ISOLATED
gives up its verification; anything else leaves the evaluation as it was. The panel trouble flag is taken. R48, R49: a
good POWER reply records the source and the LOW flag and sets the budget mode by them; a changed mode leaves the shared
pool within its new S. -/
def Obligations.PanelAndPowerRepliesAreTaken : Prop :=
  ∀ (s : State) (p : Poll) (e : NodeEntry) (bytes : List Byte) (r : NodeReply), s.hlc.started = true →
    s.rbm.polling = some p → s.entryAt p.address = some e → checkReply p.address e.type bytes = .good r →
    ∃ t, exec (.goodReply bytes) s = .next t ∧
      (∀ n < 4, e.owner = .panel n →
        vget t.zev.panelTrouble n false = (byteAt r.payload 8).testBit 0 ∧
        ∀ z < 128,
          let x := s.zone z
          let y := { x with condition := decodeCondition r.payload (z % 32), stale := false }
          let moved := y.condition ≠ x.condition
          let left := fun v : Eval => { y with eval := v, count := 0, deadline := none }
          (z / 32 ≠ n → t.zone z = x) ∧
          (z / 32 = n →
            (moved → y.condition = .alarm → x.eval = .quiet → t.zone z =
              (if x.condition = .unknown ∨ zoneKind s.map z = .manual ∨ effectiveConfirm s.map z = 1 then left .confirmed
              else { y with eval := .verifying, count := 1, deadline := some (s.uptime + zoneWindow s.map z) })) ∧
            (moved → y.condition = .alarm → x.eval = .verifying → t.zone z =
              (if x.count + 1 = effectiveConfirm s.map z then left .confirmed else { y with count := x.count + 1 })) ∧
            (moved → y.condition = .isolated → x.eval = .verifying → t.zone z = left .quiet) ∧
            (¬ moved ∨ x.eval = .confirmed ∨ x.eval = .disabled ∨ y.condition = .normal ∨ y.condition = .trouble ∨
              (y.condition = .isolated ∧ x.eval = .quiet) → t.zone z = y))) ∧
      (e.owner = .power → s.entryOf .power = some e →
        let report := decodePower r.payload
        SupplyOnly s t ∧ t.lbu.power = some report ∧
        t.lbu.mode = (if report.source = .mains then .mains else if report.low = true then .low else .battery) ∧
        (t.lbu.mode = s.lbu.mode → t.lbu = { s.lbu with power := some report }) ∧
        (t.lbu.mode ≠ s.lbu.mode → (s.lbu.claims.map Claim.claimant).Nodup →
          t.lbu.used .shared ≤ sharedPool s.map t.lbu.mode))

/-- R70, R82, R83, R144: a good FLOOR reply that neither is a slip nor comes from a node just heard of or returning
reaches each present door of the floor: strike and position are recorded and the door is not stale; on a confirmation
of the payload an unconfirmed door with nothing held is confirmed, RELEASING becomes RELEASED, and RELOCKING becomes
LOCKED or, with a re_request whose demand stands, is queued again. Where nothing is confirmed the door's supervision
alone follows: the strike of a confirmed door in service is judged, and a door watched while open keeps the second it
was first seen so. R89, R90, R94, R96: such a reply of a LIFT node records a present car's fields; a recall whose
payload it confirms makes the car RECALLING; a recalled or parked car whose mode is not AUTO is held out; a RECALLING,
confirmed car that stands at its target as R94 lists parks, or is shut down when that is due; no other car changes. -/
def Obligations.FloorAndLiftRepliesAreTaken : Prop :=
  ∀ (s : State) (p : Poll) (e : NodeEntry) (bytes : List Byte) (r : NodeReply), s.hlc.started = true →
    s.rbm.polling = some p → s.entryAt p.address = some e → checkReply p.address e.type bytes = .good r →
    e.state = .ok ∨ e.state = .missing → r.fresh = false → e.inFlight = true ∨ r.toggle = e.outToggle →
    let confirms := e.inFlight = true ∧ r.toggle = e.outToggle
    ∃ t, exec (.goodReply bytes) s = .next t ∧
      (∀ d < 64, e.owner = .floor (d / 2) → doorPresent s.map d = true →
        let x := s.door d
        let y := t.door d
        let strike := decodeStrike (byteAt r.payload (d % 2))
        let position := decodePosition (byteAt r.payload (d % 2))
        let right := strike = (if x.desired = .release then .unlocked else .locked)
        let judged := x.state ≠ .disabled ∧ x.confirmed = true
        y.strike = some strike ∧ y.position = some position ∧ y.stale = false ∧
        (¬ confirms → y = { x with
          strike := some strike, position := some position, stale := false
          mismatch := if judged then (if right then 0 else min (x.mismatch + 1) 3) else x.mismatch
          faulted := if judged then (if right then false else x.faulted || decide (2 ≤ x.mismatch)) else x.faulted
          heldSince := if position = .closed then none
            else if x.heldSince = none ∧ (x.state = .locked ∨ x.state = .disabled) then some s.uptime else x.heldSince
          held := if position = .closed then false else x.held }) ∧
        (confirms → x.confirmed = false → x.pendingDesired = none →
          (x.state = .releasing → x.desired = .release → y.state = .released ∧ y.confirmed = true) ∧
          (x.state = .relocking → x.desired = .lock →
            (x.reRequest = false ∨ s.doorDemand d = none → y.state = .locked ∧ y.confirmed = true ∧ y.reRequest = false) ∧
            (x.reRequest = true → s.doorDemand d ≠ none →
              t.lbu.has (.door d) = true ∧ y.reRequest = false ∧
              y.state ∈ [.releasePending, .releasing, .released])))) ∧
      (∀ c, e.owner = .car c → carPresent s.map c = true →
        let x := s.car c
        let y := t.car c
        let told := decodeCar s.map r.payload
        let sure := if confirms then x.pendingCommand = none else x.confirmed = true
        let st := if confirms ∧ x.pendingCommand = none ∧ x.state = .recallIssued then .recalling else x.state
        let arrived := sure ∧ told.position ≠ none ∧ told.position = x.target ∧ told.motion = some .stopped ∧
          told.door = some .opened ∧ told.applied = some .recall
        y.position = told.position ∧ y.motion = told.motion ∧ y.door = told.door ∧ y.mode = some told.mode ∧
        y.key = some told.key ∧ y.applied = told.applied ∧ y.stale = false ∧ (∀ i, i ≠ c → t.car i = s.car i) ∧
        (x.state ∈ [.recallIssued, .recalling, .parked] → told.mode ≠ .auto →
          y.state = .heldOut ∧ y.target = none ∧ y.recallStarted = none ∧ y.late = false ∧ y.heldOutActive = true) ∧
        (st = .recalling → told.mode = .auto → arrived →
          y.state = (if x.shutdownDue = true then .shutDown else .parked) ∧ y.recallStarted = none ∧ y.late = false) ∧
        (st = .recalling → told.mode = .auto → ¬ arrived → y.state = .recalling ∧ y.target = x.target) ∧
        (x.state = .heldOut → told.mode = .auto → y.heldOutActive = false ∧ y.state ≠ .heldOut ∧
          y.target = some (s.bank (carBank s.map c)).recallFloor))

/-- R138, R141, R143: the toggle of a FLOOR or LIFT node. A reply of a node just heard of or returning, and a slip,
leave the next request with the other toggle and a payload in flight; a slip is counted, up to 255; a reply that echoes
the toggle of a payload in flight confirms it, and any other leaves the toggle as it was. -/
def Obligations.TogglesConfirmAndSlip : Prop :=
  ∀ (e : NodeEntry) (r : NodeReply),
    let t := e.toggled r (e.classify r)
    (e.state = .unknown ∨ e.state = .lost → t = { e with outToggle := !r.toggle, inFlight := true }) ∧
    (e.state = .ok ∨ e.state = .missing →
      (r.fresh = false → e.inFlight = true → r.toggle = e.outToggle → t = { e with inFlight := false }) ∧
      (r.fresh = false → (e.inFlight = true ↔ r.toggle ≠ e.outToggle) → t = e) ∧
      (r.fresh = true ∨ (e.inFlight = false ∧ r.toggle ≠ e.outToggle) →
        t.slips = min (e.slips + 1) 255 ∧ t.inFlight = true ∧ t.outToggle ≠ r.toggle))

/-- R64, 0.8: an uptime second adds 1 to the uptime and takes the wait list into LBU's statistics; nothing else changes.
The uptime after 4,294,967,295 is a free value (assumption 5), about which nothing is said. -/
def Obligations.UptimeSecondCounts : Prop :=
  ∀ s : State, s.hlc.started = true →
    ∃ t, exec .uptimeSecond s = .next t ∧ (s.uptime < 4294967295 → t.uptime = s.uptime + 1) ∧
      t.lbu = { s.lbu with stats := ⟨s.lbu.stats.inserts,
        min (s.lbu.stats.occupancy + s.lbu.waitList.length) 4294967295,
        min (s.lbu.stats.nonempty + if s.lbu.waitList = [] then 0 else 1) 4294967295⟩ } ∧
      { t with uptime := s.uptime, lbu := s.lbu, hlc := s.hlc } = s ∧ t.hlc = s.hlc.arbitrate
end

