-- ==== Sys2Proof/Laws/Ledger.lean ====
section
/-! SUPPORT. What LBU's operations do to the account: the sums a source carries, and that a pass, a shed, a placement and
a return keep every source within its capacity (R51, R53). -/

namespace Sys2Proof.Machine

/-- R51: no claimant has two claims. -/
def Lbu.single (l : Lbu) : Prop := (l.claims.map Claim.claimant).Nodup

/-- A claim's weight in a source: its cost while it draws from it. -/
def Claim.weight (src : Source) (c : Claim) : Nat := if c.source = some src then c.cost else 0

theorem Lbu.used_eq (l : Lbu) (src : Source) : l.used src = (l.claims.map (Claim.weight src)).sum := by
  unfold Lbu.used
  induction l.claims with
  | nil => rfl
  | cons c cs ih =>
    by_cases h : c.source = some src
    · simp [h, Claim.weight, ih]
    · simp [h, Claim.weight, ih]

/-! ## Returns -/

theorem Lbu.single_drop {l : Lbu} (h : l.single) (who) : (l.drop who).single :=
  List.Nodup.sublist (List.Sublist.map _ List.filter_sublist) h

theorem Lbu.used_drop (l : Lbu) (who src) : (l.drop who).used src ≤ l.used src := by
  simp only [Lbu.used_eq, Lbu.drop]
  exact (List.Sublist.map _ List.filter_sublist).sum_le_sum (fun _ _ => Nat.zero_le _)

theorem Lbu.ok_drop {l : Lbu} {cap} (h : l.ok cap) (who) : (l.drop who).ok cap :=
  ⟨Lbu.single_drop h.1 who, fun src => (l.used_drop who src).trans (h.2 src)⟩

/-! ## Placements -/

theorem Lbu.single_place {l : Lbu} (h : l.single) (who level cost) : (l.place who level cost).single := by
  unfold Lbu.place
  split
  · exact h
  · rename_i hn
    have hw : ¬ ∃ c ∈ l.claims, c.claimant = who := by simpa [Lbu.has] using hn
    simp only [Lbu.single, List.map_append, List.map_cons, List.map_nil]
    refine List.Nodup.append h (List.nodup_singleton _) ?_
    intro x hx hy
    simp only [List.mem_singleton] at hy
    obtain ⟨c, hc, e⟩ := List.mem_map.mp hx
    exact hw ⟨c, hc, e.trans hy⟩

theorem Lbu.used_place (l : Lbu) (who level cost src) : (l.place who level cost).used src = l.used src := by
  unfold Lbu.place
  split
  · rfl
  · simp [Lbu.used_eq, Claim.weight]

theorem Lbu.ok_place {l : Lbu} {cap} (h : l.ok cap) (who level cost) : (l.place who level cost).ok cap :=
  ⟨Lbu.single_place h.1 who level cost, fun src => by rw [Lbu.used_place]; exact h.2 src⟩

/-! ## Changes of one claim -/

/-- A change that leaves the claimant and the cost. -/
def Claim.Keeps (f : Claim → Claim) : Prop := ∀ c, (f c).claimant = c.claimant ∧ (f c).cost = c.cost

theorem Lbu.claimants_change (l : Lbu) (who) {f} (hf : Claim.Keeps f) :
    (l.change who f).claims.map Claim.claimant = l.claims.map Claim.claimant := by
  simp only [Lbu.change, List.map_map]
  apply List.map_congr_left
  intro c _
  simp only [Function.comp]
  split
  · exact (hf c).1
  · rfl

theorem Lbu.single_change {l : Lbu} (h : l.single) (who) {f} (hf : Claim.Keeps f) : (l.change who f).single := by
  rw [Lbu.single, Lbu.claimants_change l who hf]; exact h

/-- A change of a claim that does not move it leaves every sum. -/
theorem Lbu.used_change_still (l : Lbu) (who src) {f} (hf : Claim.Keeps f) (hs : ∀ c, (f c).source = c.source) :
    (l.change who f).used src = l.used src := by
  simp only [Lbu.used_eq, Lbu.change, List.map_map]
  congr 1
  apply List.map_congr_left
  intro c _
  simp only [Function.comp]
  split
  · simp [Claim.weight, hs c, (hf c).2]
  · rfl

/-- Every claim of the claimant has the cost. -/
def Lbu.Costed (l : Lbu) (who : Claimant) (cost : Nat) : Prop := ∀ c ∈ l.claims, c.claimant = who → c.cost = cost

theorem Lbu.costed_change {l : Lbu} {who j : Claimant} {n : Nat} (h : l.Costed who n) {f} (hf : Claim.Keeps f) :
    (l.change j f).Costed who n := by
  intro c hc e
  simp only [Lbu.change, List.mem_map] at hc
  obtain ⟨d, hd, rfl⟩ := hc
  by_cases hj : d.claimant = j
  · simp only [hj, if_true] at e ⊢
    rw [(hf d).2]; exact h d hd ((hf d).1 ▸ e)
  · simp only [hj, if_false] at e ⊢
    exact h d hd e

theorem Lbu.costed_drop {l : Lbu} {who j : Claimant} {n : Nat} (h : l.Costed who n) : (l.drop j).Costed who n :=
  fun c hc e => h c (List.mem_of_mem_filter hc) e

theorem Lbu.costed_of_mem {l : Lbu} (h : l.single) {c : Claim} (hc : c ∈ l.claims) : l.Costed c.claimant c.cost := by
  intro d hd e
  rw [List.inj_on_of_nodup_map h hd hc e]

/-- A change that moves one claim of cost n to `to'` adds at most n there and nothing elsewhere. -/
theorem Lbu.used_change {l : Lbu} (hl : l.single) {who : Claimant} {n : Nat} (hn : l.Costed who n) {f}
    (hf : Claim.Keeps f) {dst : Source} (hd : ∀ c, (f c).source = some dst) (src : Source) :
    (l.change who f).used src ≤ l.used src + (if src = dst then n else 0) := by
  simp only [Lbu.used_eq, Lbu.change]
  revert hl hn
  simp only [Lbu.single, Lbu.Costed]
  induction l.claims with
  | nil => intro _ _; simp
  | cons c cs ih =>
    intro hl hn
    simp only [List.map_cons, List.nodup_cons, List.sum_cons] at hl ⊢
    by_cases hc : c.claimant = who
    · have same : cs.map (fun d => if d.claimant = who then f d else d) = cs := by
        conv => rhs; rw [← List.map_id cs]
        apply List.map_congr_left
        intro d hd'
        have : d.claimant ≠ who := fun e => hl.1 (List.mem_map.mpr ⟨d, hd', e.trans hc.symm⟩)
        simp [this]
      rw [same]
      simp only [hc, if_true]
      have hcost := hn c List.mem_cons_self hc
      have : Claim.weight src (f c) ≤ if src = dst then n else 0 := by
        unfold Claim.weight
        rw [hd c, (hf c).2, hcost]
        by_cases e : src = dst
        · simp [e]
        · have : ¬ dst = src := fun e' => e e'.symm
          simp [this]
      omega
    · have := ih hl.2 (fun d hd' => hn d (List.mem_cons_of_mem _ hd'))
      simp only [hc, if_false]
      omega

theorem Lbu.ok_change {l : Lbu} {cap} (h : l.ok cap) {who : Claimant} {n : Nat} (hn : l.Costed who n) {f}
    (hf : Claim.Keeps f) {dst : Source} (hd : ∀ c, (f c).source = some dst) (fits : l.fits cap dst n = true) :
    (l.change who f).ok cap := by
  refine ⟨Lbu.single_change h.1 who hf, fun src => (Lbu.used_change h.1 hn hf hd src).trans ?_⟩
  split
  · rename_i e; subst e; simpa [Lbu.fits] using fits
  · simpa using h.2 src

theorem Claim.keeps_source (src) : Claim.Keeps fun c => { c with source := some src } := fun _ => ⟨rfl, rfl⟩
theorem Claim.keeps_grant (src g) : Claim.Keeps fun c => { c with source := some src, granted := some g } :=
  fun _ => ⟨rfl, rfl⟩
theorem Claim.keeps_level (level) : Claim.Keeps fun c => { c with level := level } := fun _ => ⟨rfl, rfl⟩

/-! ## The grant pass -/

theorem mem_insertBy {α : Type} (le : α → α → Bool) (x y : α) (l : List α) : y ∈ insertBy le x l ↔ y = x ∨ y ∈ l := by
  induction l with
  | nil => simp [insertBy]
  | cons z l ih =>
    unfold insertBy
    split
    · simp
    · simp [ih]; tauto

theorem mem_sortBy {α : Type} (le : α → α → Bool) (y : α) (l : List α) : y ∈ sortBy le l ↔ y ∈ l := by
  induction l with
  | nil => simp [sortBy]
  | cons x l ih => simp [sortBy, mem_insertBy, ih]

theorem Lbu.refillOne_keeps (cap : Capacity) (u : Bool) {l : Lbu} {c : Claim} (hl : l.single)
    (hn : l.Costed c.claimant c.cost) :
    (refillOne cap u l c).single ∧ (l.ok cap → (refillOne cap u l c).ok cap) ∧
      (∀ who n, l.Costed who n → (refillOne cap u l c).Costed who n) ∧ (refillOne cap u l c).mode = l.mode := by
  unfold refillOne
  split
  · rename_i h
    have fits : l.fits cap .shared c.cost = true := by simp_all
    exact ⟨Lbu.single_change hl _ (Claim.keeps_source _),
      fun ho => Lbu.ok_change ho hn (Claim.keeps_source _) (fun _ => rfl) fits,
      fun _ _ hw => Lbu.costed_change hw (Claim.keeps_source _), rfl⟩
  · exact ⟨hl, id, fun _ _ hw => hw, rfl⟩

theorem Lbu.scanOne_keeps (cap : Capacity) {l : Lbu} {got : List Claimant} {c : Claim} (hl : l.single)
    (hn : l.Costed c.claimant c.cost) :
    (scanOne cap (l, got) c).1.single ∧ (l.ok cap → (scanOne cap (l, got) c).1.ok cap) ∧
      (∀ who n, l.Costed who n → (scanOne cap (l, got) c).1.Costed who n) ∧ (scanOne cap (l, got) c).1.mode = l.mode := by
  unfold scanOne
  split
  · rename_i src h
    have fits : l.fits cap src c.cost = true := by
      simp only [Lbu.sourceFor] at h
      split at h
      · simp_all
      · split at h
        · split at h
          · simp_all
          · simp at h
        · simp at h
    refine ⟨Lbu.single_change hl _ (Claim.keeps_grant _ _), fun ho => ?_,
      fun _ _ hw => Lbu.costed_change hw (Claim.keeps_grant _ _), rfl⟩
    exact Lbu.ok_change ho hn (Claim.keeps_grant _ _) (fun _ => rfl) fits
  · exact ⟨hl, id, fun _ _ hw => hw, rfl⟩

/-- Folding a step over claims: what each step keeps, the fold keeps. -/
theorem Lbu.foldl_keeps {β : Type} (view : β → Lbu) (cap : Capacity) (f : β → Claim → β)
    (step : ∀ b c, (view b).single → (view b).Costed c.claimant c.cost →
      (view (f b c)).single ∧ ((view b).ok cap → (view (f b c)).ok cap) ∧
        (∀ who n, (view b).Costed who n → (view (f b c)).Costed who n) ∧ (view (f b c)).mode = (view b).mode)
    (cs : List Claim) (b : β) (hl : (view b).single) (hn : ∀ c ∈ cs, (view b).Costed c.claimant c.cost) :
    (view (cs.foldl f b)).single ∧ ((view b).ok cap → (view (cs.foldl f b)).ok cap) ∧
      (∀ who n, (view b).Costed who n → (view (cs.foldl f b)).Costed who n) ∧
      (view (cs.foldl f b)).mode = (view b).mode := by
  induction cs generalizing b with
  | nil => exact ⟨hl, id, fun _ _ h => h, rfl⟩
  | cons c cs ih =>
    obtain ⟨s1, o1, k1, m1⟩ := step b c hl (hn c List.mem_cons_self)
    obtain ⟨s2, o2, k2, m2⟩ := ih (f b c) s1 fun d hd => k1 _ _ (hn d (List.mem_cons_of_mem _ hd))
    exact ⟨s2, fun h => o2 (o1 h), fun w n h => k2 w n (k1 w n h), m2.trans m1⟩

theorem Lbu.refill_keeps (cap : Capacity) {l : Lbu} (hl : l.single) :
    (l.refill cap).single ∧ (l.ok cap → (l.refill cap).ok cap) ∧ (l.refill cap).mode = l.mode := by
  have h := Lbu.foldl_keeps id cap (refillOne cap l.urgentWaiting)
    (fun b c hb hn => Lbu.refillOne_keeps cap l.urgentWaiting hb hn) l.grantedList l hl
    (fun c hc => Lbu.costed_of_mem hl (List.mem_of_mem_filter ((mem_sortBy _ _ _).mp hc)))
  exact ⟨h.1, h.2.1, h.2.2.2⟩

/-- R55, R57: a grant pass never puts a source over its capacity, and gives no claimant a second claim. -/
theorem Lbu.pass_keeps (cap : Capacity) {l : Lbu} (hl : l.single) :
    (l.pass cap).1.single ∧ (l.ok cap → (l.pass cap).1.ok cap) ∧ (l.pass cap).1.mode = l.mode := by
  obtain ⟨s1, o1, m1⟩ := Lbu.refill_keeps cap hl
  have h := Lbu.foldl_keeps Prod.fst cap (scanOne cap) (fun b c hb hn => Lbu.scanOne_keeps cap (got := b.2) hb hn)
    (l.refill cap).waitList (l.refill cap, []) s1
    (fun c hc => Lbu.costed_of_mem s1 (List.mem_of_mem_filter ((mem_sortBy _ _ _).mp hc)))
  exact ⟨h.1, fun ho => h.2.1 (o1 ho), h.2.2.2.trans m1⟩

/-! ## Shedding -/

/-- What one claim taken in a shed order does: it is passed over, moved to a source where it fits, or dropped. -/
inductive Taken (cap : Capacity) (src : Source) (c : Claim) (l : Lbu) : Lbu → Prop
  | passed (h : l.used src ≤ cap.of src) : Taken cap src c l l
  | moved (dst : Source) (h : dst ≠ src) (fits : l.fits cap dst c.cost = true) : Taken cap src c l (l.move c.claimant dst)
  | dropped : Taken cap src c l (l.drop c.claimant)

theorem reserveOf_ne_shared {level : Nat} {src : Source} (h : reserveOf level = some src) : src ≠ .shared := by
  unfold reserveOf at h
  split at h
  · injection h with h; subst h; decide
  · split at h
    · injection h with h; subst h; decide
    · cases h

theorem shedOne_taken (cap : Capacity) (r : ShedResult) (c : Claim) :
    Taken cap .shared c r.lbu (shedOne cap r c).lbu := by
  unfold shedOne
  split
  · rename_i h; exact .passed h
  · split
    · rename_i src hr
      split
      · rename_i hf; exact .moved src (reserveOf_ne_shared hr) hf
      · exact .dropped
    · exact .dropped

theorem unreserveOne_taken (cap : Capacity) {src : Source} (hs : src ≠ .shared) (r : ShedResult) (c : Claim) :
    Taken cap src c r.lbu (unreserveOne cap src r c).lbu := by
  unfold unreserveOne
  split
  · rename_i h; exact .passed h
  · split
    · rename_i hf; exact .moved .shared hs.symm hf
    · exact .dropped

theorem Taken.mode {cap src c l l'} (h : Taken cap src c l l') : l'.mode = l.mode := by cases h <;> rfl

theorem Taken.single {cap src c l l'} (h : Taken cap src c l l') (hl : l.single) : l'.single := by
  cases h with
  | passed => exact hl
  | moved dst => exact Lbu.single_change hl _ (Claim.keeps_source _)
  | dropped => exact Lbu.single_drop hl _

theorem Taken.costed {cap src c l l'} (h : Taken cap src c l l') {who n} (hl : l.Costed who n) : l'.Costed who n := by
  cases h with
  | passed => exact hl
  | moved dst => exact Lbu.costed_change hl (Claim.keeps_source _)
  | dropped => exact Lbu.costed_drop hl

/-- No other source is put over its capacity. -/
theorem Taken.used_other {cap src c l l'} (h : Taken cap src c l l') (hl : l.single) (hn : l.Costed c.claimant c.cost)
    {oth : Source} (hu : l.used oth ≤ cap.of oth) : l'.used oth ≤ cap.of oth := by
  cases h with
  | passed => exact hu
  | moved dst hd fits =>
    refine (Lbu.used_change hl hn (Claim.keeps_source dst) (fun _ => rfl) oth).trans ?_
    split
    · rename_i e; subst e; simpa [Lbu.fits] using fits
    · simpa using hu
  | dropped => exact (l.used_drop _ oth).trans hu

/-- The source shed is not put up. -/
theorem Taken.used_own {cap src c l l'} (h : Taken cap src c l l') (hl : l.single) (hn : l.Costed c.claimant c.cost) :
    l'.used src ≤ l.used src := by
  cases h with
  | passed => exact le_rfl
  | moved dst hd fits =>
    refine (Lbu.used_change hl hn (Claim.keeps_source dst) (fun _ => rfl) src).trans ?_
    simp [hd.symm]
  | dropped => exact l.used_drop _ src

/-- The claimants that draw from a source. -/
def Lbu.Within (l : Lbu) (src : Source) (cs : List Claim) : Prop :=
  ∀ c ∈ l.claims, c.source = some src → ∃ d ∈ cs, d.claimant = c.claimant

theorem Taken.within {cap src c l l'} (h : Taken cap src c l l') {cs : List Claim} (hw : l.Within src (c :: cs)) :
    l'.used src ≤ cap.of src ∨ l'.Within src cs := by
  cases h with
  | passed hu => exact .inl hu
  | moved dst hd fits =>
    right
    intro e he hs
    simp only [Lbu.move, Lbu.change, List.mem_map] at he
    obtain ⟨d, hd', rfl⟩ := he
    by_cases hc : d.claimant = c.claimant
    · simp only [hc, if_true] at hs
      exact absurd (Option.some.inj hs) hd
    · simp only [hc, if_false] at hs ⊢
      obtain ⟨x, hx, e⟩ := hw d hd' hs
      rcases List.mem_cons.mp hx with rfl | hx
      · exact absurd e.symm hc
      · exact ⟨x, hx, e⟩
  | dropped =>
    right
    intro e he hs
    simp only [Lbu.drop, List.mem_filter] at he
    obtain ⟨x, hx, ex⟩ := hw e he.1 hs
    rcases List.mem_cons.mp hx with rfl | hx
    · simp [ex] at he
    · exact ⟨x, hx, ex⟩

theorem Lbu.used_of_within_nil {l : Lbu} {src : Source} (h : l.Within src []) : l.used src = 0 := by
  unfold Lbu.used
  have : l.claims.filter (fun c => c.source = some src) = [] := by
    rw [List.filter_eq_nil_iff]
    intro c hc hs
    obtain ⟨d, hd, _⟩ := h c hc (by simpa using hs)
    cases hd
  rw [this]; rfl

/-- What taking the claims of a shed order does to an account. -/
structure Shedding (cap : Capacity) (src : Source) (l l' : Lbu) : Prop where
  mode : l'.mode = l.mode
  single : l'.single
  others : ∀ oth, l.used oth ≤ cap.of oth → l'.used oth ≤ cap.of oth
  own : l'.used src ≤ l.used src

theorem shedding_foldl (cap : Capacity) (src : Source) (f : ShedResult → Claim → ShedResult)
    (hf : ∀ r c, Taken cap src c r.lbu (f r c).lbu) (cs : List Claim) (r : ShedResult) (hl : r.lbu.single)
    (hn : ∀ c ∈ cs, r.lbu.Costed c.claimant c.cost) :
    Shedding cap src r.lbu (cs.foldl f r).lbu ∧
      (r.lbu.used src ≤ cap.of src ∨ r.lbu.Within src cs → (cs.foldl f r).lbu.used src ≤ cap.of src) := by
  induction cs generalizing r with
  | nil =>
    refine ⟨⟨rfl, hl, fun _ h => h, le_rfl⟩, fun h => ?_⟩
    rcases h with h | h
    · exact h
    · simp [Lbu.used_of_within_nil h]
  | cons c cs ih =>
    have t := hf r c
    have hc := hn c List.mem_cons_self
    obtain ⟨s, e⟩ := ih (f r c) (t.single hl) fun d hd => t.costed (hn d (List.mem_cons_of_mem _ hd))
    refine ⟨⟨s.mode.trans t.mode, s.single, fun o hu => s.others o (t.used_other hl hc hu),
      s.own.trans (t.used_own hl hc)⟩, fun h => e ?_⟩
    rcases h with h | h
    · exact .inl ((t.used_own hl hc).trans h)
    · exact t.within h

theorem Lbu.shedOrder_costed {l : Lbu} (hl : l.single) (src) : ∀ c ∈ l.shedOrder src, l.Costed c.claimant c.cost :=
  fun _ hc => Lbu.costed_of_mem hl (List.mem_of_mem_filter ((mem_sortBy _ _ _).mp hc))

theorem Lbu.shedOrder_within (l : Lbu) (src) : l.Within src (l.shedOrder src) :=
  fun c hc hs => ⟨c, (mem_sortBy _ _ _).mpr (List.mem_filter.mpr ⟨hc, by simpa using hs⟩), rfl⟩

/-- R59, R60: shedding leaves the shared pool within S. -/
theorem shedShared_sheds (cap : Capacity) {r : ShedResult} (hl : r.lbu.single) :
    Shedding cap .shared r.lbu (shedShared cap r).lbu ∧ (shedShared cap r).lbu.used .shared ≤ cap.shared := by
  have h := shedding_foldl cap .shared (shedOne cap) (shedOne_taken cap) (r.lbu.shedOrder .shared) r hl
    (Lbu.shedOrder_costed hl _)
  exact ⟨h.1, h.2 (.inr (r.lbu.shedOrder_within _))⟩

/-- R63 step 1: an overdrawn reserve is brought within its figure. -/
theorem unreserve_sheds (cap : Capacity) {src : Source} (hs : src ≠ .shared) {r : ShedResult} (hl : r.lbu.single) :
    Shedding cap src r.lbu (unreserve cap src r).lbu ∧ (unreserve cap src r).lbu.used src ≤ cap.of src := by
  have h := shedding_foldl cap src (unreserveOne cap src) (unreserveOne_taken cap hs) (r.lbu.shedOrder src) r hl
    (Lbu.shedOrder_costed hl _)
  exact ⟨h.1, h.2 (.inr (r.lbu.shedOrder_within _))⟩

/-- R49: after a change of the mode, whose reserves are those of before, shedding makes the account good. -/
theorem shedShared_ok (cap cap' : Capacity) (hd : cap'.door = cap.door) (ha : cap'.audio = cap.audio) {r : ShedResult}
    (h : r.lbu.ok cap) : (shedShared cap' r).lbu.ok cap' := by
  obtain ⟨s, e⟩ := shedShared_sheds cap' h.1
  refine ⟨s.single, fun src => ?_⟩
  cases src with
  | shared => exact e
  | doorReserve => exact s.others _ (by have := h.2 .doorReserve; simpa [Capacity.of, hd] using this)
  | audioReserve => exact s.others _ (by have := h.2 .audioReserve; simpa [Capacity.of, ha] using this)

/-- R63: both reserves and then the shared pool brought within the figures, whatever they carried. -/
theorem shedAll_ok (cap : Capacity) {r : ShedResult} (h : r.lbu.single) :
    (shedShared cap (unreserve cap .audioReserve (unreserve cap .doorReserve r))).lbu.ok cap := by
  obtain ⟨s1, e1⟩ := unreserve_sheds cap (src := .doorReserve) (by decide) h
  obtain ⟨s2, e2⟩ := unreserve_sheds cap (src := .audioReserve) (by decide) s1.single
  obtain ⟨s3, e3⟩ := shedShared_sheds cap s2.single
  refine ⟨s3.single, fun src => ?_⟩
  cases src with
  | shared => exact e3
  | doorReserve => exact s3.others _ (s2.others _ e1)
  | audioReserve => exact s3.others _ e2

theorem shedAll_mode (cap : Capacity) {r : ShedResult} (h : r.lbu.single) :
    (shedShared cap (unreserve cap .audioReserve (unreserve cap .doorReserve r))).lbu.mode = r.lbu.mode := by
  obtain ⟨s1, _⟩ := unreserve_sheds cap (src := .doorReserve) (by decide) h
  obtain ⟨s2, _⟩ := unreserve_sheds cap (src := .audioReserve) (by decide) s1.single
  obtain ⟨s3, _⟩ := shedShared_sheds cap s2.single
  exact s3.mode.trans (s2.mode.trans s1.mode)

end Sys2Proof.Machine
end

