-- ==== Sys2Proof/Laws/State.lean ====
section
/-! SUPPORT. One lemma per field per update: what each named update of the work leaves in every field of the part, and
what the tables hold after a row is replaced. A later proof rewrites with these and unfolds no record update. -/

namespace Sys2Proof.Machine

/-! ## Tables -/

@[simp] theorem vget_vset_self {α : Type} {n : Nat} (v : Vector α n) (i : Nat) (x d : α) (h : i < n) :
    vget (vset v i x) i d = x := by
  simp [vget, vset, h]

@[simp] theorem vget_vset_ne {α : Type} {n : Nat} (v : Vector α n) (i j : Nat) (x d : α) (h : i ≠ j) :
    vget (vset v i x) j d = vget v j d := by
  unfold vget vset
  split
  · exact Vector.getElem_setIfInBounds_ne _ h
  · rfl

theorem vget_of_le {α : Type} {n : Nat} (v : Vector α n) (i : Nat) (d : α) (h : n ≤ i) : vget v i d = d := by
  simp [vget, Nat.not_lt.mpr h]

theorem vset_of_le {α : Type} {n : Nat} (v : Vector α n) (i : Nat) (x : α) (h : n ≤ i) : vset v i x = v := by
  apply Vector.ext
  intro j hj
  exact Vector.getElem_setIfInBounds_ne _ (by omega)

@[simp] theorem vget_vmapIdx {α : Type} {n : Nat} (f : Nat → α → α) (v : Vector α n) (i : Nat) (d : α) (h : i < n) :
    vget (vmapIdx f v) i d = f i (vget v i d) := by
  simp [vget, vmapIdx, h]

@[simp] theorem vget_replicate {α : Type} {n : Nat} (i : Nat) (x : α) : vget (Vector.replicate n x) i x = x := by
  simp [vget]

/-! ## Blocks -/

@[simp] theorem Work.begin_toState (s : State) : (Work.begin s).toState = s := rfl
@[simp] theorem Work.settled_toState (w : Work) : w.settled.toState = w.toState := rfl
@[simp] theorem Work.report_toState (w : Work) (k n a) : (w.report k n a).toState = w.toState := rfl
@[simp] theorem Work.addGiven_toState (w : Work) (x : Nat) : (w.addGiven x).toState = w.toState := rfl
@[simp] theorem Work.addMoved_toState (w : Work) (x : Nat) : (w.addMoved x).toState = w.toState := rfl
@[simp] theorem Work.addToPlace_toState (w : Work) (x : Nat) : (w.addToPlace x).toState = w.toState := rfl
@[simp] theorem Work.oweJoins_toState (w : Work) (x : Bool) : (w.oweJoins x).toState = w.toState := rfl
@[simp] theorem Work.owePass_toState (w : Work) (x : Bool) : (w.owePass x).toState = w.toState := rfl
@[simp] theorem Work.markDoor_toState (w : Work) (x : Nat) : (w.markDoor x).toState = w.toState := rfl
@[simp] theorem Work.markProgram_toState (w : Work) (x : ProgramKind) : (w.markProgram x).toState = w.toState := rfl
@[simp] theorem Work.markCar_toState (w : Work) (x : Nat) : (w.markCar x).toState = w.toState := rfl
@[simp] theorem Work.markAlarmStop_toState (w : Work) (x : Nat) : (w.markAlarmStop x).toState = w.toState := rfl
@[simp] theorem Work.noneMoved_toState (w : Work) : w.noneMoved.toState = w.toState := rfl
@[simp] theorem Work.noneToPlace_toState (w : Work) : w.noneToPlace.toState = w.toState := rfl
@[simp] theorem Work.noJoins_toState (w : Work) : w.noJoins.toState = w.toState := rfl

@[simp] theorem Work.setZev_uptime (w : Work) (v : Zev) : (w.setZev v).uptime = w.uptime := rfl
@[simp] theorem Work.setZev_zev (w : Work) (v : Zev) : (w.setZev v).zev = v := rfl
@[simp] theorem Work.setZev_rgc (w : Work) (v : Zev) : (w.setZev v).rgc = w.rgc := rfl
@[simp] theorem Work.setZev_lbu (w : Work) (v : Zev) : (w.setZev v).lbu = w.lbu := rfl
@[simp] theorem Work.setZev_doors (w : Work) (v : Zev) : (w.setZev v).doors = w.doors := rfl
@[simp] theorem Work.setZev_cru (w : Work) (v : Zev) : (w.setZev v).cru = w.cru := rfl
@[simp] theorem Work.setZev_ans (w : Work) (v : Zev) : (w.setZev v).ans = w.ans := rfl
@[simp] theorem Work.setZev_plp (w : Work) (v : Zev) : (w.setZev v).plp = w.plp := rfl
@[simp] theorem Work.setZev_rbm (w : Work) (v : Zev) : (w.setZev v).rbm = w.rbm := rfl
@[simp] theorem Work.setZev_trc (w : Work) (v : Zev) : (w.setZev v).trc = w.trc := rfl
@[simp] theorem Work.setZev_mst (w : Work) (v : Zev) : (w.setZev v).mst = w.mst := rfl
@[simp] theorem Work.setZev_hlc (w : Work) (v : Zev) : (w.setZev v).hlc = w.hlc := rfl
@[simp] theorem Work.setZev_pending (w : Work) (v : Zev) : (w.setZev v).pending = w.pending := rfl

@[simp] theorem Work.setRgc_uptime (w : Work) (v : Rgc) : (w.setRgc v).uptime = w.uptime := rfl
@[simp] theorem Work.setRgc_zev (w : Work) (v : Rgc) : (w.setRgc v).zev = w.zev := rfl
@[simp] theorem Work.setRgc_rgc (w : Work) (v : Rgc) : (w.setRgc v).rgc = v := rfl
@[simp] theorem Work.setRgc_lbu (w : Work) (v : Rgc) : (w.setRgc v).lbu = w.lbu := rfl
@[simp] theorem Work.setRgc_doors (w : Work) (v : Rgc) : (w.setRgc v).doors = w.doors := rfl
@[simp] theorem Work.setRgc_cru (w : Work) (v : Rgc) : (w.setRgc v).cru = w.cru := rfl
@[simp] theorem Work.setRgc_ans (w : Work) (v : Rgc) : (w.setRgc v).ans = w.ans := rfl
@[simp] theorem Work.setRgc_plp (w : Work) (v : Rgc) : (w.setRgc v).plp = w.plp := rfl
@[simp] theorem Work.setRgc_rbm (w : Work) (v : Rgc) : (w.setRgc v).rbm = w.rbm := rfl
@[simp] theorem Work.setRgc_trc (w : Work) (v : Rgc) : (w.setRgc v).trc = w.trc := rfl
@[simp] theorem Work.setRgc_mst (w : Work) (v : Rgc) : (w.setRgc v).mst = w.mst := rfl
@[simp] theorem Work.setRgc_hlc (w : Work) (v : Rgc) : (w.setRgc v).hlc = w.hlc := rfl
@[simp] theorem Work.setRgc_pending (w : Work) (v : Rgc) : (w.setRgc v).pending = w.pending := rfl

@[simp] theorem Work.setLbu_uptime (w : Work) (v : Lbu) : (w.setLbu v).uptime = w.uptime := rfl
@[simp] theorem Work.setLbu_zev (w : Work) (v : Lbu) : (w.setLbu v).zev = w.zev := rfl
@[simp] theorem Work.setLbu_rgc (w : Work) (v : Lbu) : (w.setLbu v).rgc = w.rgc := rfl
@[simp] theorem Work.setLbu_lbu (w : Work) (v : Lbu) : (w.setLbu v).lbu = v := rfl
@[simp] theorem Work.setLbu_doors (w : Work) (v : Lbu) : (w.setLbu v).doors = w.doors := rfl
@[simp] theorem Work.setLbu_cru (w : Work) (v : Lbu) : (w.setLbu v).cru = w.cru := rfl
@[simp] theorem Work.setLbu_ans (w : Work) (v : Lbu) : (w.setLbu v).ans = w.ans := rfl
@[simp] theorem Work.setLbu_plp (w : Work) (v : Lbu) : (w.setLbu v).plp = w.plp := rfl
@[simp] theorem Work.setLbu_rbm (w : Work) (v : Lbu) : (w.setLbu v).rbm = w.rbm := rfl
@[simp] theorem Work.setLbu_trc (w : Work) (v : Lbu) : (w.setLbu v).trc = w.trc := rfl
@[simp] theorem Work.setLbu_mst (w : Work) (v : Lbu) : (w.setLbu v).mst = w.mst := rfl
@[simp] theorem Work.setLbu_hlc (w : Work) (v : Lbu) : (w.setLbu v).hlc = w.hlc := rfl
@[simp] theorem Work.setLbu_pending (w : Work) (v : Lbu) : (w.setLbu v).pending = w.pending := rfl

@[simp] theorem Work.setCru_uptime (w : Work) (v : Cru) : (w.setCru v).uptime = w.uptime := rfl
@[simp] theorem Work.setCru_zev (w : Work) (v : Cru) : (w.setCru v).zev = w.zev := rfl
@[simp] theorem Work.setCru_rgc (w : Work) (v : Cru) : (w.setCru v).rgc = w.rgc := rfl
@[simp] theorem Work.setCru_lbu (w : Work) (v : Cru) : (w.setCru v).lbu = w.lbu := rfl
@[simp] theorem Work.setCru_doors (w : Work) (v : Cru) : (w.setCru v).doors = w.doors := rfl
@[simp] theorem Work.setCru_cru (w : Work) (v : Cru) : (w.setCru v).cru = v := rfl
@[simp] theorem Work.setCru_ans (w : Work) (v : Cru) : (w.setCru v).ans = w.ans := rfl
@[simp] theorem Work.setCru_plp (w : Work) (v : Cru) : (w.setCru v).plp = w.plp := rfl
@[simp] theorem Work.setCru_rbm (w : Work) (v : Cru) : (w.setCru v).rbm = w.rbm := rfl
@[simp] theorem Work.setCru_trc (w : Work) (v : Cru) : (w.setCru v).trc = w.trc := rfl
@[simp] theorem Work.setCru_mst (w : Work) (v : Cru) : (w.setCru v).mst = w.mst := rfl
@[simp] theorem Work.setCru_hlc (w : Work) (v : Cru) : (w.setCru v).hlc = w.hlc := rfl
@[simp] theorem Work.setCru_pending (w : Work) (v : Cru) : (w.setCru v).pending = w.pending := rfl

@[simp] theorem Work.setAns_uptime (w : Work) (v : Ans) : (w.setAns v).uptime = w.uptime := rfl
@[simp] theorem Work.setAns_zev (w : Work) (v : Ans) : (w.setAns v).zev = w.zev := rfl
@[simp] theorem Work.setAns_rgc (w : Work) (v : Ans) : (w.setAns v).rgc = w.rgc := rfl
@[simp] theorem Work.setAns_lbu (w : Work) (v : Ans) : (w.setAns v).lbu = w.lbu := rfl
@[simp] theorem Work.setAns_doors (w : Work) (v : Ans) : (w.setAns v).doors = w.doors := rfl
@[simp] theorem Work.setAns_cru (w : Work) (v : Ans) : (w.setAns v).cru = w.cru := rfl
@[simp] theorem Work.setAns_ans (w : Work) (v : Ans) : (w.setAns v).ans = v := rfl
@[simp] theorem Work.setAns_plp (w : Work) (v : Ans) : (w.setAns v).plp = w.plp := rfl
@[simp] theorem Work.setAns_rbm (w : Work) (v : Ans) : (w.setAns v).rbm = w.rbm := rfl
@[simp] theorem Work.setAns_trc (w : Work) (v : Ans) : (w.setAns v).trc = w.trc := rfl
@[simp] theorem Work.setAns_mst (w : Work) (v : Ans) : (w.setAns v).mst = w.mst := rfl
@[simp] theorem Work.setAns_hlc (w : Work) (v : Ans) : (w.setAns v).hlc = w.hlc := rfl
@[simp] theorem Work.setAns_pending (w : Work) (v : Ans) : (w.setAns v).pending = w.pending := rfl

@[simp] theorem Work.setPlp_uptime (w : Work) (v : Plp) : (w.setPlp v).uptime = w.uptime := rfl
@[simp] theorem Work.setPlp_zev (w : Work) (v : Plp) : (w.setPlp v).zev = w.zev := rfl
@[simp] theorem Work.setPlp_rgc (w : Work) (v : Plp) : (w.setPlp v).rgc = w.rgc := rfl
@[simp] theorem Work.setPlp_lbu (w : Work) (v : Plp) : (w.setPlp v).lbu = w.lbu := rfl
@[simp] theorem Work.setPlp_doors (w : Work) (v : Plp) : (w.setPlp v).doors = w.doors := rfl
@[simp] theorem Work.setPlp_cru (w : Work) (v : Plp) : (w.setPlp v).cru = w.cru := rfl
@[simp] theorem Work.setPlp_ans (w : Work) (v : Plp) : (w.setPlp v).ans = w.ans := rfl
@[simp] theorem Work.setPlp_plp (w : Work) (v : Plp) : (w.setPlp v).plp = v := rfl
@[simp] theorem Work.setPlp_rbm (w : Work) (v : Plp) : (w.setPlp v).rbm = w.rbm := rfl
@[simp] theorem Work.setPlp_trc (w : Work) (v : Plp) : (w.setPlp v).trc = w.trc := rfl
@[simp] theorem Work.setPlp_mst (w : Work) (v : Plp) : (w.setPlp v).mst = w.mst := rfl
@[simp] theorem Work.setPlp_hlc (w : Work) (v : Plp) : (w.setPlp v).hlc = w.hlc := rfl
@[simp] theorem Work.setPlp_pending (w : Work) (v : Plp) : (w.setPlp v).pending = w.pending := rfl

@[simp] theorem Work.setRbm_uptime (w : Work) (v : Rbm) : (w.setRbm v).uptime = w.uptime := rfl
@[simp] theorem Work.setRbm_zev (w : Work) (v : Rbm) : (w.setRbm v).zev = w.zev := rfl
@[simp] theorem Work.setRbm_rgc (w : Work) (v : Rbm) : (w.setRbm v).rgc = w.rgc := rfl
@[simp] theorem Work.setRbm_lbu (w : Work) (v : Rbm) : (w.setRbm v).lbu = w.lbu := rfl
@[simp] theorem Work.setRbm_doors (w : Work) (v : Rbm) : (w.setRbm v).doors = w.doors := rfl
@[simp] theorem Work.setRbm_cru (w : Work) (v : Rbm) : (w.setRbm v).cru = w.cru := rfl
@[simp] theorem Work.setRbm_ans (w : Work) (v : Rbm) : (w.setRbm v).ans = w.ans := rfl
@[simp] theorem Work.setRbm_plp (w : Work) (v : Rbm) : (w.setRbm v).plp = w.plp := rfl
@[simp] theorem Work.setRbm_rbm (w : Work) (v : Rbm) : (w.setRbm v).rbm = v := rfl
@[simp] theorem Work.setRbm_trc (w : Work) (v : Rbm) : (w.setRbm v).trc = w.trc := rfl
@[simp] theorem Work.setRbm_mst (w : Work) (v : Rbm) : (w.setRbm v).mst = w.mst := rfl
@[simp] theorem Work.setRbm_hlc (w : Work) (v : Rbm) : (w.setRbm v).hlc = w.hlc := rfl
@[simp] theorem Work.setRbm_pending (w : Work) (v : Rbm) : (w.setRbm v).pending = w.pending := rfl

@[simp] theorem Work.setTrc_uptime (w : Work) (v : Trc) : (w.setTrc v).uptime = w.uptime := rfl
@[simp] theorem Work.setTrc_zev (w : Work) (v : Trc) : (w.setTrc v).zev = w.zev := rfl
@[simp] theorem Work.setTrc_rgc (w : Work) (v : Trc) : (w.setTrc v).rgc = w.rgc := rfl
@[simp] theorem Work.setTrc_lbu (w : Work) (v : Trc) : (w.setTrc v).lbu = w.lbu := rfl
@[simp] theorem Work.setTrc_doors (w : Work) (v : Trc) : (w.setTrc v).doors = w.doors := rfl
@[simp] theorem Work.setTrc_cru (w : Work) (v : Trc) : (w.setTrc v).cru = w.cru := rfl
@[simp] theorem Work.setTrc_ans (w : Work) (v : Trc) : (w.setTrc v).ans = w.ans := rfl
@[simp] theorem Work.setTrc_plp (w : Work) (v : Trc) : (w.setTrc v).plp = w.plp := rfl
@[simp] theorem Work.setTrc_rbm (w : Work) (v : Trc) : (w.setTrc v).rbm = w.rbm := rfl
@[simp] theorem Work.setTrc_trc (w : Work) (v : Trc) : (w.setTrc v).trc = v := rfl
@[simp] theorem Work.setTrc_mst (w : Work) (v : Trc) : (w.setTrc v).mst = w.mst := rfl
@[simp] theorem Work.setTrc_hlc (w : Work) (v : Trc) : (w.setTrc v).hlc = w.hlc := rfl
@[simp] theorem Work.setTrc_pending (w : Work) (v : Trc) : (w.setTrc v).pending = w.pending := rfl

@[simp] theorem Work.setMst_uptime (w : Work) (v : Mst) : (w.setMst v).uptime = w.uptime := rfl
@[simp] theorem Work.setMst_zev (w : Work) (v : Mst) : (w.setMst v).zev = w.zev := rfl
@[simp] theorem Work.setMst_rgc (w : Work) (v : Mst) : (w.setMst v).rgc = w.rgc := rfl
@[simp] theorem Work.setMst_lbu (w : Work) (v : Mst) : (w.setMst v).lbu = w.lbu := rfl
@[simp] theorem Work.setMst_doors (w : Work) (v : Mst) : (w.setMst v).doors = w.doors := rfl
@[simp] theorem Work.setMst_cru (w : Work) (v : Mst) : (w.setMst v).cru = w.cru := rfl
@[simp] theorem Work.setMst_ans (w : Work) (v : Mst) : (w.setMst v).ans = w.ans := rfl
@[simp] theorem Work.setMst_plp (w : Work) (v : Mst) : (w.setMst v).plp = w.plp := rfl
@[simp] theorem Work.setMst_rbm (w : Work) (v : Mst) : (w.setMst v).rbm = w.rbm := rfl
@[simp] theorem Work.setMst_trc (w : Work) (v : Mst) : (w.setMst v).trc = w.trc := rfl
@[simp] theorem Work.setMst_mst (w : Work) (v : Mst) : (w.setMst v).mst = v := rfl
@[simp] theorem Work.setMst_hlc (w : Work) (v : Mst) : (w.setMst v).hlc = w.hlc := rfl
@[simp] theorem Work.setMst_pending (w : Work) (v : Mst) : (w.setMst v).pending = w.pending := rfl

@[simp] theorem Work.setHlc_uptime (w : Work) (v : Hlc) : (w.setHlc v).uptime = w.uptime := rfl
@[simp] theorem Work.setHlc_zev (w : Work) (v : Hlc) : (w.setHlc v).zev = w.zev := rfl
@[simp] theorem Work.setHlc_rgc (w : Work) (v : Hlc) : (w.setHlc v).rgc = w.rgc := rfl
@[simp] theorem Work.setHlc_lbu (w : Work) (v : Hlc) : (w.setHlc v).lbu = w.lbu := rfl
@[simp] theorem Work.setHlc_doors (w : Work) (v : Hlc) : (w.setHlc v).doors = w.doors := rfl
@[simp] theorem Work.setHlc_cru (w : Work) (v : Hlc) : (w.setHlc v).cru = w.cru := rfl
@[simp] theorem Work.setHlc_ans (w : Work) (v : Hlc) : (w.setHlc v).ans = w.ans := rfl
@[simp] theorem Work.setHlc_plp (w : Work) (v : Hlc) : (w.setHlc v).plp = w.plp := rfl
@[simp] theorem Work.setHlc_rbm (w : Work) (v : Hlc) : (w.setHlc v).rbm = w.rbm := rfl
@[simp] theorem Work.setHlc_trc (w : Work) (v : Hlc) : (w.setHlc v).trc = w.trc := rfl
@[simp] theorem Work.setHlc_mst (w : Work) (v : Hlc) : (w.setHlc v).mst = w.mst := rfl
@[simp] theorem Work.setHlc_hlc (w : Work) (v : Hlc) : (w.setHlc v).hlc = v := rfl
@[simp] theorem Work.setHlc_pending (w : Work) (v : Hlc) : (w.setHlc v).pending = w.pending := rfl

/-! ## Rows -/

@[simp] theorem Work.setZone_uptime (w : Work) (i : Nat) (r : Zone) : (w.setZone i r).uptime = w.uptime := rfl
@[simp] theorem Work.setZone_zev (w : Work) (i : Nat) (r : Zone) : (w.setZone i r).zev = { w.zev with zones := vset w.zev.zones i r } := rfl
@[simp] theorem Work.setZone_rgc (w : Work) (i : Nat) (r : Zone) : (w.setZone i r).rgc = w.rgc := rfl
@[simp] theorem Work.setZone_lbu (w : Work) (i : Nat) (r : Zone) : (w.setZone i r).lbu = w.lbu := rfl
@[simp] theorem Work.setZone_doors (w : Work) (i : Nat) (r : Zone) : (w.setZone i r).doors = w.doors := rfl
@[simp] theorem Work.setZone_cru (w : Work) (i : Nat) (r : Zone) : (w.setZone i r).cru = w.cru := rfl
@[simp] theorem Work.setZone_ans (w : Work) (i : Nat) (r : Zone) : (w.setZone i r).ans = w.ans := rfl
@[simp] theorem Work.setZone_plp (w : Work) (i : Nat) (r : Zone) : (w.setZone i r).plp = w.plp := rfl
@[simp] theorem Work.setZone_rbm (w : Work) (i : Nat) (r : Zone) : (w.setZone i r).rbm = w.rbm := rfl
@[simp] theorem Work.setZone_trc (w : Work) (i : Nat) (r : Zone) : (w.setZone i r).trc = w.trc := rfl
@[simp] theorem Work.setZone_mst (w : Work) (i : Nat) (r : Zone) : (w.setZone i r).mst = w.mst := rfl
@[simp] theorem Work.setZone_hlc (w : Work) (i : Nat) (r : Zone) : (w.setZone i r).hlc = w.hlc := rfl
@[simp] theorem Work.setZone_pending (w : Work) (i : Nat) (r : Zone) : (w.setZone i r).pending = w.pending := rfl
@[simp] theorem Work.setZone_zone_self (w : Work) (i : Nat) (r : Zone) (h : i < 128) : (w.setZone i r).zone i = r :=
  vget_vset_self _ _ _ _ h
@[simp] theorem Work.setZone_zone_ne (w : Work) (i j : Nat) (r : Zone) (h : i ≠ j) : (w.setZone i r).zone j = w.zone j :=
  vget_vset_ne _ _ _ _ _ h

@[simp] theorem Work.setDoor_uptime (w : Work) (i : Nat) (r : Door) : (w.setDoor i r).uptime = w.uptime := rfl
@[simp] theorem Work.setDoor_zev (w : Work) (i : Nat) (r : Door) : (w.setDoor i r).zev = w.zev := rfl
@[simp] theorem Work.setDoor_rgc (w : Work) (i : Nat) (r : Door) : (w.setDoor i r).rgc = w.rgc := rfl
@[simp] theorem Work.setDoor_lbu (w : Work) (i : Nat) (r : Door) : (w.setDoor i r).lbu = w.lbu := rfl
@[simp] theorem Work.setDoor_doors (w : Work) (i : Nat) (r : Door) : (w.setDoor i r).doors = vset w.doors i r := rfl
@[simp] theorem Work.setDoor_cru (w : Work) (i : Nat) (r : Door) : (w.setDoor i r).cru = w.cru := rfl
@[simp] theorem Work.setDoor_ans (w : Work) (i : Nat) (r : Door) : (w.setDoor i r).ans = w.ans := rfl
@[simp] theorem Work.setDoor_plp (w : Work) (i : Nat) (r : Door) : (w.setDoor i r).plp = w.plp := rfl
@[simp] theorem Work.setDoor_rbm (w : Work) (i : Nat) (r : Door) : (w.setDoor i r).rbm = w.rbm := rfl
@[simp] theorem Work.setDoor_trc (w : Work) (i : Nat) (r : Door) : (w.setDoor i r).trc = w.trc := rfl
@[simp] theorem Work.setDoor_mst (w : Work) (i : Nat) (r : Door) : (w.setDoor i r).mst = w.mst := rfl
@[simp] theorem Work.setDoor_hlc (w : Work) (i : Nat) (r : Door) : (w.setDoor i r).hlc = w.hlc := rfl
@[simp] theorem Work.setDoor_pending (w : Work) (i : Nat) (r : Door) : (w.setDoor i r).pending = w.pending := rfl
@[simp] theorem Work.setDoor_door_self (w : Work) (i : Nat) (r : Door) (h : i < 64) : (w.setDoor i r).door i = r :=
  vget_vset_self _ _ _ _ h
@[simp] theorem Work.setDoor_door_ne (w : Work) (i j : Nat) (r : Door) (h : i ≠ j) : (w.setDoor i r).door j = w.door j :=
  vget_vset_ne _ _ _ _ _ h

@[simp] theorem Work.setJoin_uptime (w : Work) (i : Nat) (r : Join) : (w.setJoin i r).uptime = w.uptime := rfl
@[simp] theorem Work.setJoin_zev (w : Work) (i : Nat) (r : Join) : (w.setJoin i r).zev = w.zev := rfl
@[simp] theorem Work.setJoin_rgc (w : Work) (i : Nat) (r : Join) : (w.setJoin i r).rgc = w.rgc := rfl
@[simp] theorem Work.setJoin_lbu (w : Work) (i : Nat) (r : Join) : (w.setJoin i r).lbu = w.lbu := rfl
@[simp] theorem Work.setJoin_doors (w : Work) (i : Nat) (r : Join) : (w.setJoin i r).doors = w.doors := rfl
@[simp] theorem Work.setJoin_cru (w : Work) (i : Nat) (r : Join) : (w.setJoin i r).cru = w.cru := rfl
@[simp] theorem Work.setJoin_ans (w : Work) (i : Nat) (r : Join) : (w.setJoin i r).ans = { w.ans with joins := vset w.ans.joins i r } := rfl
@[simp] theorem Work.setJoin_plp (w : Work) (i : Nat) (r : Join) : (w.setJoin i r).plp = w.plp := rfl
@[simp] theorem Work.setJoin_rbm (w : Work) (i : Nat) (r : Join) : (w.setJoin i r).rbm = w.rbm := rfl
@[simp] theorem Work.setJoin_trc (w : Work) (i : Nat) (r : Join) : (w.setJoin i r).trc = w.trc := rfl
@[simp] theorem Work.setJoin_mst (w : Work) (i : Nat) (r : Join) : (w.setJoin i r).mst = w.mst := rfl
@[simp] theorem Work.setJoin_hlc (w : Work) (i : Nat) (r : Join) : (w.setJoin i r).hlc = w.hlc := rfl
@[simp] theorem Work.setJoin_pending (w : Work) (i : Nat) (r : Join) : (w.setJoin i r).pending = w.pending := rfl
@[simp] theorem Work.setJoin_join_self (w : Work) (i : Nat) (r : Join) (h : i < 32) : (w.setJoin i r).join i = r :=
  vget_vset_self _ _ _ _ h
@[simp] theorem Work.setJoin_join_ne (w : Work) (i j : Nat) (r : Join) (h : i ≠ j) : (w.setJoin i r).join j = w.join j :=
  vget_vset_ne _ _ _ _ _ h

@[simp] theorem Work.setChannel_uptime (w : Work) (i : Nat) (r : Channel) : (w.setChannel i r).uptime = w.uptime := rfl
@[simp] theorem Work.setChannel_zev (w : Work) (i : Nat) (r : Channel) : (w.setChannel i r).zev = w.zev := rfl
@[simp] theorem Work.setChannel_rgc (w : Work) (i : Nat) (r : Channel) : (w.setChannel i r).rgc = w.rgc := rfl
@[simp] theorem Work.setChannel_lbu (w : Work) (i : Nat) (r : Channel) : (w.setChannel i r).lbu = w.lbu := rfl
@[simp] theorem Work.setChannel_doors (w : Work) (i : Nat) (r : Channel) : (w.setChannel i r).doors = w.doors := rfl
@[simp] theorem Work.setChannel_cru (w : Work) (i : Nat) (r : Channel) : (w.setChannel i r).cru = w.cru := rfl
@[simp] theorem Work.setChannel_ans (w : Work) (i : Nat) (r : Channel) : (w.setChannel i r).ans = { w.ans with channels := vset w.ans.channels i r } := rfl
@[simp] theorem Work.setChannel_plp (w : Work) (i : Nat) (r : Channel) : (w.setChannel i r).plp = w.plp := rfl
@[simp] theorem Work.setChannel_rbm (w : Work) (i : Nat) (r : Channel) : (w.setChannel i r).rbm = w.rbm := rfl
@[simp] theorem Work.setChannel_trc (w : Work) (i : Nat) (r : Channel) : (w.setChannel i r).trc = w.trc := rfl
@[simp] theorem Work.setChannel_mst (w : Work) (i : Nat) (r : Channel) : (w.setChannel i r).mst = w.mst := rfl
@[simp] theorem Work.setChannel_hlc (w : Work) (i : Nat) (r : Channel) : (w.setChannel i r).hlc = w.hlc := rfl
@[simp] theorem Work.setChannel_pending (w : Work) (i : Nat) (r : Channel) : (w.setChannel i r).pending = w.pending := rfl
@[simp] theorem Work.setChannel_channel_self (w : Work) (i : Nat) (r : Channel) (h : i < 6) : (w.setChannel i r).channel i = r :=
  vget_vset_self _ _ _ _ h
@[simp] theorem Work.setChannel_channel_ne (w : Work) (i j : Nat) (r : Channel) (h : i ≠ j) : (w.setChannel i r).channel j = w.channel j :=
  vget_vset_ne _ _ _ _ _ h

@[simp] theorem Work.setBlock_uptime (w : Work) (i : Nat) (r : BlockStatus) : (w.setBlock i r).uptime = w.uptime := rfl
@[simp] theorem Work.setBlock_zev (w : Work) (i : Nat) (r : BlockStatus) : (w.setBlock i r).zev = w.zev := rfl
@[simp] theorem Work.setBlock_rgc (w : Work) (i : Nat) (r : BlockStatus) : (w.setBlock i r).rgc = w.rgc := rfl
@[simp] theorem Work.setBlock_lbu (w : Work) (i : Nat) (r : BlockStatus) : (w.setBlock i r).lbu = w.lbu := rfl
@[simp] theorem Work.setBlock_doors (w : Work) (i : Nat) (r : BlockStatus) : (w.setBlock i r).doors = w.doors := rfl
@[simp] theorem Work.setBlock_cru (w : Work) (i : Nat) (r : BlockStatus) : (w.setBlock i r).cru = w.cru := rfl
@[simp] theorem Work.setBlock_ans (w : Work) (i : Nat) (r : BlockStatus) : (w.setBlock i r).ans = w.ans := rfl
@[simp] theorem Work.setBlock_plp (w : Work) (i : Nat) (r : BlockStatus) : (w.setBlock i r).plp = w.plp := rfl
@[simp] theorem Work.setBlock_rbm (w : Work) (i : Nat) (r : BlockStatus) : (w.setBlock i r).rbm = w.rbm := rfl
@[simp] theorem Work.setBlock_trc (w : Work) (i : Nat) (r : BlockStatus) : (w.setBlock i r).trc = w.trc := rfl
@[simp] theorem Work.setBlock_mst (w : Work) (i : Nat) (r : BlockStatus) : (w.setBlock i r).mst = { w.mst with blocks := vset w.mst.blocks i r } := rfl
@[simp] theorem Work.setBlock_hlc (w : Work) (i : Nat) (r : BlockStatus) : (w.setBlock i r).hlc = w.hlc := rfl
@[simp] theorem Work.setBlock_pending (w : Work) (i : Nat) (r : BlockStatus) : (w.setBlock i r).pending = w.pending := rfl
@[simp] theorem Work.setBlock_block_self (w : Work) (i : Nat) (r : BlockStatus) (h : i < 11) : (w.setBlock i r).block i = r :=
  vget_vset_self _ _ _ _ h
@[simp] theorem Work.setBlock_block_ne (w : Work) (i j : Nat) (r : BlockStatus) (h : i ≠ j) : (w.setBlock i r).block j = w.block j :=
  vget_vset_ne _ _ _ _ _ h

theorem Work.setProgram_toState (w : Work) (k : ProgramKind) (r : Program) :
    (w.setProgram k r).toState = { w.toState with ans := { w.ans with programs := vset w.ans.programs k.priority r } } := by
  unfold Work.setProgram; dsimp only; split <;> rfl

@[simp] theorem Work.setProgram_uptime (w : Work) (k : ProgramKind) (r : Program) : (w.setProgram k r).uptime = w.uptime := by
  rw [Work.setProgram_toState]
@[simp] theorem Work.setProgram_zev (w : Work) (k : ProgramKind) (r : Program) : (w.setProgram k r).zev = w.zev := by
  rw [Work.setProgram_toState]
@[simp] theorem Work.setProgram_rgc (w : Work) (k : ProgramKind) (r : Program) : (w.setProgram k r).rgc = w.rgc := by
  rw [Work.setProgram_toState]
@[simp] theorem Work.setProgram_lbu (w : Work) (k : ProgramKind) (r : Program) : (w.setProgram k r).lbu = w.lbu := by
  rw [Work.setProgram_toState]
@[simp] theorem Work.setProgram_doors (w : Work) (k : ProgramKind) (r : Program) : (w.setProgram k r).doors = w.doors := by
  rw [Work.setProgram_toState]
@[simp] theorem Work.setProgram_cru (w : Work) (k : ProgramKind) (r : Program) : (w.setProgram k r).cru = w.cru := by
  rw [Work.setProgram_toState]
@[simp] theorem Work.setProgram_ans (w : Work) (k : ProgramKind) (r : Program) : (w.setProgram k r).ans = { w.ans with programs := vset w.ans.programs k.priority r } := by
  rw [Work.setProgram_toState]
@[simp] theorem Work.setProgram_plp (w : Work) (k : ProgramKind) (r : Program) : (w.setProgram k r).plp = w.plp := by
  rw [Work.setProgram_toState]
@[simp] theorem Work.setProgram_rbm (w : Work) (k : ProgramKind) (r : Program) : (w.setProgram k r).rbm = w.rbm := by
  rw [Work.setProgram_toState]
@[simp] theorem Work.setProgram_trc (w : Work) (k : ProgramKind) (r : Program) : (w.setProgram k r).trc = w.trc := by
  rw [Work.setProgram_toState]
@[simp] theorem Work.setProgram_mst (w : Work) (k : ProgramKind) (r : Program) : (w.setProgram k r).mst = w.mst := by
  rw [Work.setProgram_toState]
@[simp] theorem Work.setProgram_hlc (w : Work) (k : ProgramKind) (r : Program) : (w.setProgram k r).hlc = w.hlc := by
  rw [Work.setProgram_toState]
@[simp] theorem Work.setProgram_pending (w : Work) (k : ProgramKind) (r : Program) : (w.setProgram k r).pending = w.pending := by
  rw [Work.setProgram_toState]

theorem Work.setCar_toState (w : Work) (k : Nat) (r : Car) :
    (w.setCar k r).toState = { w.toState with cru := { w.cru with cars := vset w.cru.cars k r } } := by
  unfold Work.setCar; dsimp only; split <;> rfl

@[simp] theorem Work.setCar_uptime (w : Work) (k : Nat) (r : Car) : (w.setCar k r).uptime = w.uptime := by
  rw [Work.setCar_toState]
@[simp] theorem Work.setCar_zev (w : Work) (k : Nat) (r : Car) : (w.setCar k r).zev = w.zev := by
  rw [Work.setCar_toState]
@[simp] theorem Work.setCar_rgc (w : Work) (k : Nat) (r : Car) : (w.setCar k r).rgc = w.rgc := by
  rw [Work.setCar_toState]
@[simp] theorem Work.setCar_lbu (w : Work) (k : Nat) (r : Car) : (w.setCar k r).lbu = w.lbu := by
  rw [Work.setCar_toState]
@[simp] theorem Work.setCar_doors (w : Work) (k : Nat) (r : Car) : (w.setCar k r).doors = w.doors := by
  rw [Work.setCar_toState]
@[simp] theorem Work.setCar_cru (w : Work) (k : Nat) (r : Car) : (w.setCar k r).cru = { w.cru with cars := vset w.cru.cars k r } := by
  rw [Work.setCar_toState]
@[simp] theorem Work.setCar_ans (w : Work) (k : Nat) (r : Car) : (w.setCar k r).ans = w.ans := by
  rw [Work.setCar_toState]
@[simp] theorem Work.setCar_plp (w : Work) (k : Nat) (r : Car) : (w.setCar k r).plp = w.plp := by
  rw [Work.setCar_toState]
@[simp] theorem Work.setCar_rbm (w : Work) (k : Nat) (r : Car) : (w.setCar k r).rbm = w.rbm := by
  rw [Work.setCar_toState]
@[simp] theorem Work.setCar_trc (w : Work) (k : Nat) (r : Car) : (w.setCar k r).trc = w.trc := by
  rw [Work.setCar_toState]
@[simp] theorem Work.setCar_mst (w : Work) (k : Nat) (r : Car) : (w.setCar k r).mst = w.mst := by
  rw [Work.setCar_toState]
@[simp] theorem Work.setCar_hlc (w : Work) (k : Nat) (r : Car) : (w.setCar k r).hlc = w.hlc := by
  rw [Work.setCar_toState]
@[simp] theorem Work.setCar_pending (w : Work) (k : Nat) (r : Car) : (w.setCar k r).pending = w.pending := by
  rw [Work.setCar_toState]

@[simp] theorem Work.setCar_car_self (w : Work) (c : Nat) (r : Car) (h : c < 6) : (w.setCar c r).car c = r := by
  simp [State.car, h]
@[simp] theorem Work.setCar_car_ne (w : Work) (c i : Nat) (r : Car) (h : c ≠ i) : (w.setCar c r).car i = w.car i := by
  simp [State.car, h]

theorem ProgramKind.priority_lt (k : ProgramKind) : k.priority < 6 := by cases k <;> decide

theorem ProgramKind.priority_injective {j k : ProgramKind} (h : j.priority = k.priority) : j = k := by
  cases j <;> cases k <;> first | rfl | exact absurd h (by decide)

@[simp] theorem Work.setProgram_program_self (w : Work) (k : ProgramKind) (r : Program) :
    (w.setProgram k r).program k = r := by
  simp [State.program, ProgramKind.priority_lt]
@[simp] theorem Work.setProgram_program_ne (w : Work) (k j : ProgramKind) (r : Program) (h : k ≠ j) :
    (w.setProgram k r).program j = w.program j := by
  have : k.priority ≠ j.priority := fun e => h (ProgramKind.priority_injective e)
  simp [State.program, this]

/-! ## Reports, notices and payloads -/

@[simp] theorem Work.reportChange_toState (w : Work) (k n x y) : (w.reportChange k n x y).toState = w.toState := by
  unfold Work.reportChange; split <;> rfl

@[simp] theorem Work.post_toState (w : Work) (k body) :
    (w.post k body).toState = { w.toState with hlc := w.hlc.post k body } := rfl

@[simp] theorem Work.giveNode_toState (w : Work) (o) :
    (w.giveNode o).toState = { w.toState with rbm := { w.rbm with nodes := updateOwner w.rbm.nodes o .give } } := rfl

end Sys2Proof.Machine
end

