-- ==== Sys2Proof/Laws/Leads.lean ====
section
/-! SUPPORT. What the shared operations can do, said once: every operation between the beginning and the end of an event
leads from one work to another by primitive edits, and each edit leaves the map, the collection, the link's own records,
the poll sequence, the uptime and the queue of commands as they were. One lemma per operation says that it is made of such
edits; the frame and the invariants follow from the edits alone. -/

namespace Sys2Proof.Machine

/-- The capacity that a state's map and mode give LBU. -/
def State.capacity (s : State) : Capacity := capacityOf s.map s.lbu.mode

/-- How far an operation reaches: whether it may change the car records, the regime record with the floors, the zones,
the collection, the link's own records, the poll sequence and the node table's entries, the player port, the store, and
the uptime. Every reach takes in what draws on the supply (doors, programs, the account), the payloads, the player's
list growing and the notices. -/
structure Reach where
  cru : Bool := false
  rgc : Bool := false
  zev : Bool := false
  trc : Bool := false
  link : Bool := false
  poll : Bool := false
  player : Bool := false
  store : Bool := false
  uptime : Bool := false
deriving DecidableEq, Repr

/-- A primitive edit of the part by a shared operation of a reach. -/
inductive Edit (n : Reach) : State → State → Prop
  | doors (s : State) (v : Vector Door 64) : Edit n s { s with doors := v }
  | zev (s : State) (v : Zev) (h : n.zev = true) : Edit n s { s with zev := v }
  | rgc (s : State) (v : Rgc) (h : n.rgc = true) : Edit n s { s with rgc := v }
  | cru (s : State) (v : Cru) (h : n.cru = true) : Edit n s { s with cru := v }
  | ans (s : State) (v : Ans) : Edit n s { s with ans := v }
  | give (s : State) (o : NodeOwner) :
      Edit n s { s with rbm := { s.rbm with nodes := updateOwner s.rbm.nodes o .give } }
  | issue (s : State) (c : PlayerCommand) :
      Edit n s { s with plp := { s.plp with commands := s.plp.commands ++ [c] } }
  | post (s : State) (k : NoticeKind) (body : List Byte) : Edit n s { s with hlc := s.hlc.post k body }
  | lbu (s : State) (l : Lbu) (single : s.lbu.single → l.single)
      (ok : s.lbu.ok s.capacity → l.ok (capacityOf s.map l.mode)) : Edit n s { s with lbu := l }
  | trc (s : State) (v : Trc) (h : n.trc = true) (ok : s.trc.ok → v.ok) : Edit n s { s with trc := v }
  | link (s : State) (v : Hlc) (h : n.link = true) (ok : s.hlc.ok → v.ok) : Edit n s { s with hlc := v }
  | poll (s : State) (v : Rbm) (h : n.poll = true) : Edit n s { s with rbm := v }
  | player (s : State) (v : Plp) (h : n.player = true) : Edit n s { s with plp := v }
  | store (s : State) (v : Mst) (h : n.store = true) (map : v.map = s.mst.map) (ok : s.mst.ok → v.ok) :
      Edit n s { s with mst := v }
  | uptime (s : State) (v : Nat) (h : n.uptime = true) : Edit n s { s with uptime := v }

/-- The states that primitive edits of a reach lead to. -/
def Edits (n : Reach) : State → State → Prop := Relation.ReflTransGen (Edit n)

/-- One work leads to another: its part is reached by primitive edits. -/
def Leads (n : Reach) (a b : Work) : Prop := Edits n a.toState b.toState

variable {n : Reach} {a w : Work}

theorem Leads.refl (w : Work) : Leads n w w := Relation.ReflTransGen.refl

theorem Leads.trans {b c : Work} (h : Leads n a b) (h' : Leads n b c) : Leads n a c := Relation.ReflTransGen.trans h h'

theorem Leads.edit (h : Leads n a w) {w' : Work} (e : Edit n w.toState w'.toState) : Leads n a w' :=
  Relation.ReflTransGen.tail h e

theorem Leads.foldl {α : Type} {f : Work → α → Work} (l : List α) (h : Leads n a w)
    (step : ∀ w x, Leads n a w → Leads n a (f w x)) : Leads n a (l.foldl f w) := by
  induction l generalizing w with
  | nil => exact h
  | cons x l ih => exact ih (step w x h)

theorem Leads.ite {c : Prop} [Decidable c] {x y : Work} (h : Leads n a x) (h' : Leads n a y) :
    Leads n a (if c then x else y) := by
  split
  · exact h
  · exact h'

/-! ## Blocks, rows and gatherings -/

theorem Leads.setZev (h : Leads n a w) (hn : n.zev = true) (v) : Leads n a (w.setZev v) := h.edit (.zev _ _ hn)
theorem Leads.setRgc (h : Leads n a w) (hn : n.rgc = true) (v) : Leads n a (w.setRgc v) := h.edit (.rgc _ _ hn)
theorem Leads.setCru (h : Leads n a w) (hn : n.cru = true) (v) : Leads n a (w.setCru v) := h.edit (.cru _ _ hn)
theorem Leads.setAns (h : Leads n a w) (v) : Leads n a (w.setAns v) := h.edit (.ans _ _)
theorem Leads.addGiven (h : Leads n a w) (f) : Leads n a (w.addGiven f) := h
theorem Leads.addMoved (h : Leads n a w) (d) : Leads n a (w.addMoved d) := h
theorem Leads.noneMoved (h : Leads n a w) : Leads n a w.noneMoved := h
theorem Leads.addToPlace (h : Leads n a w) (d) : Leads n a (w.addToPlace d) := h
theorem Leads.noneToPlace (h : Leads n a w) : Leads n a w.noneToPlace := h
theorem Leads.oweJoins (h : Leads n a w) (b) : Leads n a (w.oweJoins b) := h
theorem Leads.noJoins (h : Leads n a w) : Leads n a w.noJoins := h
theorem Leads.owePass (h : Leads n a w) (b) : Leads n a (w.owePass b) := h
theorem Leads.markDoor (h : Leads n a w) (d) : Leads n a (w.markDoor d) := h
theorem Leads.markProgram (h : Leads n a w) (k) : Leads n a (w.markProgram k) := h
theorem Leads.markCar (h : Leads n a w) (c) : Leads n a (w.markCar c) := h
theorem Leads.markAlarmStop (h : Leads n a w) (c) : Leads n a (w.markAlarmStop c) := h
theorem Leads.settled (h : Leads n a w) : Leads n a w.settled := h
theorem Leads.report (h : Leads n a w) (k m v) : Leads n a (w.report k m v) := h
theorem Leads.reportChange (h : Leads n a w) (k m x y) : Leads n a (w.reportChange k m x y) := .ite h (h.report _ _ _)

theorem Leads.setZone (h : Leads n a w) (hn : n.zev = true) (z r) : Leads n a (w.setZone z r) := h.setZev hn _
theorem Leads.setDoor (h : Leads n a w) (d r) : Leads n a (w.setDoor d r) := h.edit (.doors _ _)
theorem Leads.setJoin (h : Leads n a w) (f r) : Leads n a (w.setJoin f r) := h.setAns _
theorem Leads.setProgram (h : Leads n a w) (k r) : Leads n a (w.setProgram k r) :=
  .ite (h.setAns _) ((h.setAns _).markProgram _)
theorem Leads.setChannel (h : Leads n a w) (c r) : Leads n a (w.setChannel c r) := h.setAns _
theorem Leads.setCar (h : Leads n a w) (hn : n.cru = true) (c r) : Leads n a (w.setCar c r) :=
  .ite (h.setCru hn _) ((h.setCru hn _).markCar _)
theorem Leads.post (h : Leads n a w) (k body) : Leads n a (w.post k body) := h.edit (.post _ _ _)
theorem Leads.giveNode (h : Leads n a w) (o) : Leads n a (w.giveNode o) := h.edit (.give _ _)
theorem Leads.giveFloor (h : Leads n a w) (f) : Leads n a (w.giveFloor f) := .ite h ((h.giveNode _).addGiven _)

/-! ## Claimants -/

theorem Leads.setDoorState (h : Leads n a w) (d st) : Leads n a (w.setDoorState d st) :=
  .ite h ((((h.setDoor _ _).markDoor _).addMoved _).reportChange _ _ _ _)

theorem Leads.doorGranted (h : Leads n a w) (d) : Leads n a (w.doorGranted d) := .ite (h.setDoorState _ _) h

theorem Leads.doorShed (h : Leads n a w) (d) : Leads n a (w.doorShed d) := (h.setDoorState _ _).setDoor _ _

theorem Leads.issue (h : Leads n a w) (c) : Leads n a (w.issue c) := h.edit (.issue _ _)

theorem Leads.dropClaim (h : Leads n a w) (who) : Leads n a (w.dropClaim who) :=
  .ite (Leads.owePass (h.edit (w' := w.setLbu (w.lbu.drop who))
    (.lbu _ _ (fun hs => Lbu.single_drop hs who) fun ho => Lbu.ok_drop ho who)) true) h

theorem Leads.stopProgram (h : Leads n a w) (k why r) : Leads n a (w.stopProgram k why r) := by
  unfold Work.stopProgram
  dsimp only
  split
  · exact (((h.setProgram _ _).oweJoins _).issue _).setChannel _ _
  · exact (h.setProgram _ _).oweJoins _

theorem Leads.completeProgram (h : Leads n a w) (k) : Leads n a (w.completeProgram k) :=
  ((h.stopProgram _ _ _).setProgram _ _).dropClaim _

theorem Leads.playPhrase (h : Leads n a w) (k m) : Leads n a (w.playPhrase k m) := by
  unfold Work.playPhrase
  dsimp only
  split
  · exact ((h.setProgram _ _).issue _).setChannel _ _
  · exact h.setProgram _ _

theorem Leads.enterSlot (h : Leads n a w) (k i) : Leads n a (w.enterSlot k i) := h.setProgram _ _

theorem Leads.beginSlot (m : Nat) (k) : ∀ {w : Work} (i : Nat), Leads n a w → Leads n a (w.beginSlot m k i) := by
  induction m with
  | zero => exact fun _ h => h
  | succ m ih =>
    intro w i h
    unfold Work.beginSlot
    dsimp only
    split
    · exact (h.enterSlot _ _).playPhrase _ _
    · exact (h.enterSlot _ _).playPhrase _ _
    · split
      · exact (h.enterSlot _ _).playPhrase _ _
      · exact ih _ (h.enterSlot _ _)
    · exact h.setProgram _ _
    · split
      · exact (h.setProgram _ _).completeProgram _
      · split
        · exact ih _ (h.setProgram _ _)
        · exact h.setProgram _ _

theorem Leads.slotComplete (h : Leads n a w) (k) : Leads n a (w.slotComplete k) :=
  Leads.beginSlot slotBound k _ (h.setProgram _ _)

theorem Leads.programGranted (h : Leads n a w) (k) : Leads n a (w.programGranted k) := by
  unfold Work.programGranted
  dsimp only
  split
  · split
    · split
      · exact ((((h.setProgram _ _).oweJoins _).issue _).setChannel _ _)
      · exact (h.setProgram _ _).oweJoins _
    · exact Leads.beginSlot _ _ _ ((h.setProgram _ _).oweJoins _)
  · exact h.dropClaim _

theorem Leads.programShed (h : Leads n a w) (k) : Leads n a (w.programShed k) := .ite (h.stopProgram _ _ _) h

theorem Leads.handGrant (h : Leads n a w) (who) : Leads n a (w.handGrant who) := by
  cases who with
  | door d => exact h.doorGranted d
  | program k => exact h.programGranted k

theorem Leads.handShed (h : Leads n a w) (who) : Leads n a (w.handShed who) := by
  cases who with
  | door d => exact h.doorShed d
  | program k => exact h.programShed k

theorem Leads.pass (h : Leads n a w) : Leads n a (w.setLbu (w.lbu.pass (capacityOf w.map w.lbu.mode)).1) :=
  h.edit (.lbu _ _ (fun hs => (Lbu.pass_keeps _ hs).1) fun ho => by
    have := Lbu.pass_keeps (capacityOf w.map w.lbu.mode) ho.1
    rw [this.2.2]
    exact this.2.1 ho)

theorem Leads.grantPass (m : Nat) : ∀ {w : Work}, Leads n a w → Leads n a (w.grantPass m) := by
  induction m with
  | zero => exact fun h => h
  | succ m ih =>
    intro w h
    unfold Work.grantPass
    exact Leads.foldl _ (h.pass.owePass _) fun w x hw => .ite (ih (hw.handGrant x)) (hw.handGrant x)

theorem Leads.runPass (h : Leads n a w) : Leads n a w.runPass := Leads.grantPass _ h
theorem Leads.runDuePass (h : Leads n a w) : Leads n a w.runDuePass := .ite h.runPass h
theorem Leads.returnClaim (h : Leads n a w) (who) : Leads n a (w.returnClaim who) := (h.dropClaim _).runDuePass

theorem Leads.place (h : Leads n a w) (who level cost) : Leads n a (w.setLbu (w.lbu.place who level cost)) :=
  h.edit (.lbu _ _ (fun hs => Lbu.single_place hs _ _ _) fun ho => by
    have : (w.lbu.place who level cost).mode = w.lbu.mode := by unfold Lbu.place; split <;> rfl
    rw [this]
    exact Lbu.ok_place ho _ _ _)

theorem Leads.placeProgram (h : Leads n a w) (k) : Leads n a (w.placeProgram k) := (h.place _ _ _).runPass

theorem Leads.setLevel (h : Leads n a w) (d level) : Leads n a (w.setLevel d level) := by
  unfold Work.setLevel
  split
  · refine .ite h (Leads.runPass (h.edit (.lbu _ _ (fun hs => Lbu.single_change hs _ (Claim.keeps_level level)) fun ho =>
      ⟨Lbu.single_change ho.1 _ (Claim.keeps_level level), fun src => ?_⟩)))
    rw [Lbu.used_change_still _ _ _ (Claim.keeps_level level) (fun _ => rfl)]
    exact ho.2 src
  · exact h

theorem Leads.placeDoors (h : Leads n a w) : Leads n a w.placeDoors := by
  unfold Work.placeDoors
  refine .ite h (Leads.runPass (Leads.noneToPlace ?_))
  generalize doorIndices.filter (fun d => w.toPlace.contains d) = ds
  have key : ∀ (ds : List Nat) (v : Work), Leads n a v →
      Leads n a (v.setLbu (ds.foldl (fun l d => l.place (.door d) ((w.doorDemand d).getD 6) (doorCost w.map)) v.lbu)) := by
    intro ds
    induction ds with
    | nil => exact fun v hv => hv
    | cons d ds ih => exact fun v hv => ih (v.setLbu _) (hv.place _ _ _)
  exact key ds w h

/-! ## Notices and the end of an event -/

theorem Leads.postDoors (h : Leads n a w) : Leads n a w.postDoors := .foldl _ h fun _ _ h => h.post _ _
theorem Leads.postPrograms (h : Leads n a w) : Leads n a w.postPrograms := .foldl _ h fun _ _ h => h.post _ _
theorem Leads.postCars (h : Leads n a w) : Leads n a w.postCars := .foldl _ h fun _ _ h => h.post _ _

theorem Leads.queueDoor (h : Leads n a w) (d) : Leads n a (w.queueDoor d) := (h.setDoorState _ _).addToPlace _
theorem Leads.tryQueue (h : Leads n a w) (d) : Leads n a (w.tryQueue d) := .ite (h.queueDoor _) h

theorem Leads.confirmStep (h : Leads n a w) (d) : Leads n a (w.confirmStep d) :=
  .ite (h.setDoorState _ _) (.ite (.ite ((h.setDoor _ _).queueDoor _) ((h.setDoor _ _).setDoorState _ _)) h)

theorem Leads.compareStrike (h : Leads n a w) (d) : Leads n a (w.compareStrike d) :=
  .ite (h.setDoor _ _) (.ite (h.setDoor _ _) ((h.setDoor _ _).giveFloor _))

theorem Leads.settleDoor (h : Leads n a w) (d) : Leads n a (w.settleDoor d) :=
  .ite ((h.compareStrike _).confirmStep _) (h.compareStrike _)

theorem Leads.settleDoors (m : Nat) : ∀ {w : Work}, Leads n a w → Leads n a (w.settleDoors m) := by
  induction m with
  | zero => exact fun h => h
  | succ m ih =>
    intro w h
    exact .ite h (ih (Leads.placeDoors (.foldl _ h.noneMoved fun _ _ h => h.settleDoor _)))

theorem Leads.compareJoin (h : Leads n a w) (f) : Leads n a (w.compareJoin f) :=
  .ite (h.setJoin _ _) (.ite (h.setJoin _ _) ((h.setJoin _ _).giveFloor _))

theorem Leads.settleJoins (h : Leads n a w) : Leads n a w.settleJoins := .ite (.foldl _ h.noJoins fun _ _ h => h.compareJoin _) h
theorem Leads.settle (h : Leads n a w) : Leads n a w.settle := (Leads.settleDoors _ h).settleJoins
theorem Leads.endEvent (h : Leads n a w) : Leads n a w.endEvent := h.settle.postDoors.postPrograms.postCars.settled

/-! ## Doors -/

theorem Leads.endOfDemand (h : Leads n a w) (d) : Leads n a (w.endOfDemand d) := by
  unfold Work.endOfDemand
  split
  · exact (h.setDoorState _ _).returnClaim _
  · exact (h.setDoorState _ _).returnClaim _
  · exact (h.setDoorState _ _).returnClaim _
  · exact h.setDoor _ _
  · exact h
  · exact h

theorem Leads.doorPhase (h : Leads n a w) (d) : Leads n a (w.doorPhase d) := by
  unfold Work.doorPhase
  refine .ite ?_ h
  split
  · exact h.endOfDemand _
  · dsimp only
    split
    · exact (h.setDoor _ _).tryQueue _
    · exact (h.setDoor _ _).setDoor _ _
    · exact h.setDoor _ _

theorem Leads.doorLevel (h : Leads n a w) (d) : Leads n a (w.doorLevel d) := by
  unfold Work.doorLevel
  split
  · exact .ite (h.setLevel _ _) h
  · exact h

theorem Leads.druPhases (h : Leads n a w) (floors) : Leads n a (w.druPhases floors) :=
  .foldl _ (Leads.placeDoors (.foldl _ h fun _ _ h => h.doorPhase _)) fun _ _ h => h.doorLevel _

theorem Leads.doorLost (h : Leads n a w) (d) : Leads n a (w.doorLost d) := h.setDoor _ _

theorem Leads.doorAdvance (h : Leads n a w) (d) : Leads n a (w.doorAdvance d) := by
  unfold Work.doorAdvance
  dsimp only
  split
  · exact h.setDoor _ _
  · exact h

theorem Leads.doorReturned (h : Leads n a w) (d) : Leads n a (w.doorReturned d) := ((h.doorAdvance _).setDoor _ _).tryQueue _
theorem Leads.doorReaddressed (h : Leads n a w) (d) : Leads n a (w.doorReaddressed d) := (h.doorReturned _).setDoor _ _
theorem Leads.doorSlip (h : Leads n a w) (d) : Leads n a (w.doorSlip d) := h.setDoor _ _

theorem Leads.doorConfirmed (h : Leads n a w) (d) : Leads n a (w.doorConfirmed d) := by
  unfold Work.doorConfirmed
  dsimp only
  split
  · exact (h.doorAdvance _).giveFloor _
  · exact .ite h (h.setDoor _ _)

theorem Leads.floorConfirmed (h : Leads n a w) (f) : Leads n a (w.floorConfirmed f) :=
  .foldl _ (.foldl _ h fun _ _ h => h.doorConfirmed _) fun _ _ h => h.confirmStep _

theorem Leads.superviseStrike (h : Leads n a w) (d s) : Leads n a (w.superviseStrike d s) :=
  .ite (Leads.reportChange (.ite (h.setDoor _ _) ((h.setDoor _ _).markDoor _)) _ _ _ _) h

theorem Leads.superviseHeld (h : Leads n a w) (d) : Leads n a (w.superviseHeld d) :=
  .ite (Leads.reportChange (.ite ((h.setDoor _ _).markDoor _) (h.setDoor _ _)) _ _ _ _) (.ite (h.setDoor _ _) h)

theorem Leads.doorReport (h : Leads n a w) (d s p) : Leads n a (w.doorReport d s p) :=
  .ite (((h.setDoor _ _).superviseStrike _ _).superviseHeld _) h

end Sys2Proof.Machine
end

