-- ==== Sys2Proof/Laws/Events.lean ====
section
/-! SUPPORT. The events of the blocks are made of primitive edits: ANS, CRU, RGC, ZEV, LBU, the owners of a node's reply,
and the hand-ons of a map write. -/

namespace Sys2Proof.Machine

variable {n : Reach} {a w : Work}

/-! ## ANS -/

theorem Leads.releaseReservation (h : Leads n a w) (k) : Leads n a (w.releaseReservation k) := by
  unfold Work.releaseReservation
  split
  · dsimp only
    split
    · exact ((h.setChannel _ _).markProgram _).markProgram _
    · exact (h.setChannel _ _).markProgram _
  · exact h

theorem Leads.startProgram (h : Leads n a w) (k) : Leads n a (w.startProgram k) := h.setProgram _ _

theorem Leads.emptyProgram (h : Leads n a w) (k why) : Leads n a (w.emptyProgram k why) := by
  unfold Work.emptyProgram
  dsimp only
  split
  · exact h
  · exact (h.setProgram _ _).releaseReservation _
  · split
    · exact ((h.setProgram _ _).setChannel _ _).returnClaim _
    · exact (h.setProgram _ _).returnClaim _
  · exact (h.stopProgram _ _ _).returnClaim _
  · exact h

theorem Leads.recomputeProgram (h : Leads n a w) (reason k) : Leads n a (w.recomputeProgram reason k) :=
  .ite h (.ite (((h.setProgram _ _).oweJoins _).emptyProgram _ _)
    (.ite (((h.setProgram _ _).oweJoins _).startProgram _) ((h.setProgram _ _).oweJoins _)))

theorem Leads.takeChannel (h : Leads n a w) (k c) : Leads n a (w.takeChannel k c) :=
  ((h.setChannel _ _).setProgram _ _).placeProgram _

theorem Leads.preempt (h : Leads n a w) (k c j) : Leads n a (w.preempt k c j) :=
  .ite (((h.stopProgram _ _ _).markProgram _).returnClaim _) (((h.setProgram _ _).returnClaim _).takeChannel _ _)

theorem Leads.arbiterTurn (h : Leads n a w) (k) : Leads n a (w.arbiterTurn k) := by
  unfold Work.arbiterTurn
  refine .ite ?_ h
  split
  · exact h.takeChannel _ _
  · split
    · exact h.preempt _ _ _
    · exact h

theorem Leads.arbiter (h : Leads n a w) : Leads n a w.arbiter := .foldl _ h fun _ _ h => h.arbiterTurn _

theorem Leads.recompute (h : Leads n a w) (reason) : Leads n a (w.recompute reason) :=
  Leads.arbiter (.foldl _ h fun _ _ h => h.recomputeProgram _ _)

theorem Leads.setGiven (h : Leads n a w) (k given) : Leads n a (w.setGiven k given) := h.setProgram _ _

theorem Leads.ansPhases (h : Leads n a w) (x y) : Leads n a (w.ansPhases x y) := by
  unfold Work.ansPhases
  dsimp only
  refine Leads.recompute ?_ _
  have h' : Leads n a (if x = true then (w.setGiven .allClear 0).setGiven .test 0 else w) :=
    .ite ((h.setGiven _ _).setGiven _ _) h
  exact .ite (h'.setGiven _ _) h'

theorem Leads.endStop (h : Leads n a w) (k) : Leads n a (w.endStop k) := h.setProgram _ _

theorem Leads.endHolder (h : Leads n a w) (k) : Leads n a (w.endHolder k) := by
  cases k with
  | none => exact h
  | some k => exact h.endStop k

theorem Leads.stopCompletion (h : Leads n a w) (c) : Leads n a (w.stopCompletion c) := by
  unfold Work.stopCompletion
  dsimp only
  split
  · exact ((h.endHolder _).setChannel _ _).takeChannel _ _
  · exact (h.endHolder _).setChannel _ _

theorem Leads.faultChannel (h : Leads n a w) (c condition) : Leads n a (w.faultChannel c condition) := by
  unfold Work.faultChannel
  dsimp only
  refine .ite h ?_
  have h' := fun r x y => (h.setChannel c r).reportChange .channelFault c x y
  split
  · exact ((Leads.oweJoins (.ite ((h' _ _ _).issue _) (h' _ _ _)) _).setProgram _ _).returnClaim _
  · split
    · exact (((h' _ _ _).endStop _).markProgram _).markProgram _
    · exact (h' _ _ _).endStop _
  · exact h' _ _ _

theorem Leads.updateFault (h : Leads n a w) (c) : Leads n a (w.updateFault c) :=
  .ite ((h.setChannel _ _).reportChange _ _ _ _) h

theorem Leads.judgeChannel (h : Leads n a w) (c) : Leads n a (w.judgeChannel c) := by
  unfold Work.judgeChannel
  dsimp only
  split
  · exact h.updateFault _
  · exact .ite (h.faultChannel _ _) h
  · refine .ite (h.faultChannel _ _) (.ite (.ite (.ite (h.faultChannel _ _) h) (.ite ?_ h)) h)
    split
    · exact ((h.setChannel _ _).slotComplete _).runDuePass
    · exact h.setChannel _ _
  · exact .ite (h.faultChannel _ _) (.ite (.ite (h.faultChannel _ _) h) (.ite (h.stopCompletion _) h))

theorem Leads.setPlayerLost (h : Leads n a w) (x) : Leads n a (w.setPlayerLost x) := (h.setAns _).reportChange _ _ _ _
theorem Leads.recordStatus (h : Leads n a w) (r) : Leads n a (w.recordStatus r) := h.setAns _

theorem Leads.takeStatus (h : Leads n a w) (r) : Leads n a (w.takeStatus r) :=
  Leads.endEvent (Leads.arbiter (.ite (.foldl _ (h.setPlayerLost _) fun _ _ h => h.faultChannel _ _)
    (.foldl _ ((h.setPlayerLost _).recordStatus _) fun _ _ h => h.judgeChannel _)))

theorem Leads.returnChannels (h : Leads n a w) : Leads n a w.returnChannels :=
  Leads.arbiter (.foldl _ h fun _ _ h => .ite (h.setChannel _ _) h)

theorem Leads.joinLost (h : Leads n a w) (f) : Leads n a (w.joinLost f) := h.setJoin _ _
theorem Leads.joinReturned (h : Leads n a w) (f) : Leads n a (w.joinReturned f) := h.setJoin _ _
theorem Leads.joinReaddressed (h : Leads n a w) (f) : Leads n a (w.joinReaddressed f) := h.setJoin _ _
theorem Leads.joinSlip (h : Leads n a w) (f) : Leads n a (w.joinSlip f) := h.setJoin _ _
theorem Leads.joinConfirmed (h : Leads n a w) (f) : Leads n a (w.joinConfirmed f) :=
  .ite ((h.setJoin _ _).giveFloor _) (h.setJoin _ _)
theorem Leads.speakerReport (h : Leads n a w) (f x y) : Leads n a (w.speakerReport f x y) :=
  (h.setJoin _ _).reportChange _ _ _ _
theorem Leads.speakerRemoved (h : Leads n a w) (f x) : Leads n a (w.speakerRemoved f x) :=
  (h.setJoin _ _).reportChange _ _ _ _

/-! ## CRU -/

theorem Leads.settleCar (h : Leads n a w) (hc : n.cru = true) (c) : Leads n a (w.settleCar c) :=
  .ite (.ite (h.setCar hc _ _) (h.setCar hc _ _)) (.ite (h.setCar hc _ _) ((h.setCar hc _ _).giveNode _))

theorem Leads.clearLate (h : Leads n a w) (hc : n.cru = true) (c) : Leads n a (w.clearLate c) :=
  (h.setCar hc _ _).reportChange _ _ _ _
theorem Leads.setHeldOut (h : Leads n a w) (hc : n.cru = true) (c x) : Leads n a (w.setHeldOut c x) :=
  (h.setCar hc _ _).reportChange _ _ _ _

theorem Leads.holdOut (h : Leads n a w) (hc : n.cru = true) (c) : Leads n a (w.holdOut c) :=
  (((h.clearLate hc _).setCar hc _ _).setHeldOut hc _ _).settleCar hc _

theorem Leads.issueRecall (h : Leads n a w) (hc : n.cru = true) (c) : Leads n a (w.issueRecall c) :=
  .ite (((h.clearLate hc _).setCar hc _ _).settleCar hc _) (h.holdOut hc _)

theorem Leads.chooseBanks (h : Leads n a w) (hc : n.cru = true) : Leads n a w.chooseBanks := h.setCru hc _

theorem Leads.retarget (h : Leads n a w) (hc : n.cru = true) (c) : Leads n a (w.retarget c) := by
  unfold Work.retarget
  dsimp only
  split
  · exact (h.setCar hc _ _).settleCar hc _
  · exact (h.setCar hc _ _).settleCar hc _
  · exact ((h.clearLate hc _).setCar hc _ _).settleCar hc _
  all_goals exact h

theorem Leads.retargetChanged (h : Leads n a w) (hc : n.cru = true) (old) : Leads n a (w.retargetChanged old) :=
  .foldl _ h fun _ _ h => .ite h (h.retarget hc _)

theorem Leads.recallAtStart (h : Leads n a w) (hc : n.cru = true) (c) : Leads n a (w.recallAtStart c) := by
  unfold Work.recallAtStart
  dsimp only
  split
  · exact h.issueRecall hc _
  · exact .ite h (h.retarget hc _)
  · exact .ite h (h.retarget hc _)
  · exact .ite h (h.retarget hc _)
  all_goals exact h

theorem Leads.machineAlarm (h : Leads n a w) (hc : n.cru = true) (c) : Leads n a (w.machineAlarm c) :=
  .ite h (.ite (((h.setCar hc _ _).setCar hc _ _).settleCar hc _) (h.setCar hc _ _))

theorem Leads.cruPart (h : Leads n a w) (hc : n.cru = true) (m x y) : Leads n a (w.cruPart m x y) := by
  have key : ∀ {v : Work}, Leads n a v → Leads n a (if x = true then
      (presentCars (if (y || x) = true then v.chooseBanks else v).map).foldl Work.recallAtStart
        (if (y || x) = true then v.chooseBanks else v)
      else if (if (y || x) = true then v.chooseBanks else v).rgc.state.running = true then
        (if (y || x) = true then v.chooseBanks else v).retargetChanged v.cru.banks
      else (if (y || x) = true then v.chooseBanks else v)) := by
    intro v hv
    have h' : Leads n a (if (y || x) = true then v.chooseBanks else v) := .ite (hv.chooseBanks hc) hv
    exact .ite (.foldl _ h' fun _ _ h => h.recallAtStart hc _) (.ite (h'.retargetChanged hc _) h')
  cases m with
  | none => exact key h
  | some b => exact key (.foldl _ h fun _ _ h => h.machineAlarm hc _)

theorem Leads.carConfirmed (h : Leads n a w) (hc : n.cru = true) (c) : Leads n a (w.carConfirmed c) := by
  unfold Work.carConfirmed
  dsimp only
  split
  · exact (h.setCar hc _ _).giveNode _
  · exact h.setCar hc _ _

theorem Leads.judgeMode (h : Leads n a w) (hc : n.cru = true) (c) : Leads n a (w.judgeMode c) := by
  unfold Work.judgeMode
  dsimp only
  split
  · exact .ite h (h.holdOut hc _)
  · exact .ite h (h.holdOut hc _)
  · exact .ite h (h.holdOut hc _)
  · exact .ite ((h.setHeldOut hc _ _).issueRecall hc _) h
  all_goals exact h

theorem Leads.judgeParking (h : Leads n a w) (hc : n.cru = true) (c) : Leads n a (w.judgeParking c) :=
  .ite (((h.clearLate hc _).setCar hc _ _).settleCar hc _) h

theorem Leads.judgeFirefighter (h : Leads n a w) (hc : n.cru = true) (c m) : Leads n a (w.judgeFirefighter c m) :=
  .ite (.ite (Leads.issueRecall (.ite (h.markAlarmStop _) h) hc _) (.ite (h.markAlarmStop _) h)) h

theorem Leads.carReply (h : Leads n a w) (hc : n.cru = true) (c p x) : Leads n a (w.carReply c p x) :=
  ((Leads.judgeMode (.ite ((h.setCar hc _ _).carConfirmed hc _) (h.setCar hc _ _)) hc _).judgeParking hc
    _).judgeFirefighter hc _ _

theorem Leads.carLost (h : Leads n a w) (hc : n.cru = true) (c) : Leads n a (w.carLost c) := .ite (h.setCar hc _ _) h
theorem Leads.takeWanted (h : Leads n a w) (hc : n.cru = true) (c) : Leads n a (w.takeWanted c) := h.setCar hc _ _

theorem Leads.carReturned (h : Leads n a w) (hc : n.cru = true) (c p) : Leads n a (w.carReturned c p) :=
  Leads.takeWanted (.ite (((h.setCar hc _ _).clearLate hc _).setCar hc _ _) ((h.setCar hc _ _).issueRecall hc _)) hc _

theorem Leads.carFirstHeard (h : Leads n a w) (hc : n.cru = true) (c p) : Leads n a (w.carFirstHeard c p) := h.setCar hc _ _
theorem Leads.carReaddressed (h : Leads n a w) (hc : n.cru = true) (c x) : Leads n a (w.carReaddressed c x) := h.setCar hc _ _
theorem Leads.carSlip (h : Leads n a w) (hc : n.cru = true) (c) : Leads n a (w.carSlip c) := h.setCar hc _ _

theorem Leads.removeCar (h : Leads n a w) (hc : n.cru = true) (c) : Leads n a (w.removeCar c) :=
  (((h.setCar hc _ _).reportChange _ _ _ _).reportChange _ _ _ _).markCar _

theorem Leads.carAtWrite (h : Leads n a w) (hc : n.cru = true) (old c) : Leads n a (w.carAtWrite old c) := by
  unfold Work.carAtWrite
  split
  · exact h.removeCar hc _
  · exact h.setCar hc _ _
  · exact h

theorem Leads.endIneligible (h : Leads n a w) (hc : n.cru = true) (c) : Leads n a (w.endIneligible c) := .ite (h.issueRecall hc _) h

theorem Leads.cruAtWrite (h : Leads n a w) (hc : n.cru = true) (old) : Leads n a (w.cruAtWrite old) :=
  Leads.endEvent (.foldl _ (Leads.chooseBanks (.foldl _ h fun _ _ h => h.carAtWrite hc _ _) hc) fun _ _ h => h.endIneligible hc _)

/-! ## RGC -/

theorem Leads.postFloors (h : Leads n a w) (fs) : Leads n a (w.postFloors fs) := .foldl _ h fun _ _ h => h.post _ _

theorem Leads.postRegime (h : Leads n a w) (old m) : Leads n a (w.postRegime old m) :=
  Leads.postFloors (.ite ((h.postFloors _).post _ _) (h.postFloors _)) _

theorem Leads.handOff (h : Leads n a w) (hc : n.cru = true) (old m) : Leads n a (w.handOff old m) :=
  Leads.endEvent (Leads.cruPart (.ite ((h.druPhases _).ansPhases _ _) (h.druPhases _)) hc _ _ _)

theorem Leads.rgcEvent (h : Leads n a w) (hc : n.cru = true) (hn : n.rgc = true) (r m) : Leads n a (w.rgcEvent r m) :=
  ((h.setRgc hn _).postRegime _ _).handOff hc _ _

theorem Leads.zoneHandOff (h : Leads n a w) (hc : n.cru = true) (hn : n.rgc = true) (z e) : Leads n a (w.zoneHandOff z e) := by
  unfold Work.zoneHandOff
  dsimp only
  split
  · exact .ite (h.rgcEvent hc hn _ _) (.ite h (h.rgcEvent hc hn _ _))
  · exact .ite (.ite h (h.rgcEvent hc hn _ _)) h
  · exact .ite (h.rgcEvent hc hn _ _) h

theorem Leads.modeToRgc (h : Leads n a w) (hc : n.cru = true) (hn : n.rgc = true) : Leads n a w.modeToRgc := h.rgcEvent hc hn _ _

/-! ## ZEV -/

theorem Leads.zoneDetails (h : Leads n a w) (z x y) : Leads n a (w.zoneDetails z x y) :=
  (h.reportChange _ _ _ _).reportChange _ _ _ _

theorem Leads.zoneChanged (h : Leads n a w) (hc : n.cru = true) (hn : n.rgc = true) (hz : n.zev = true) (z r c) : Leads n a (w.zoneChanged z r c) :=
  .ite ((h.setZone hz _ _).post _ _) (((h.setZone hz _ _).post _ _).zoneHandOff hc hn _ _)

theorem Leads.zoneReport (h : Leads n a w) (hc : n.cru = true) (hn : n.rgc = true) (hz : n.zev = true) (z c) : Leads n a (w.zoneReport z c) :=
  .ite h ((h.zoneDetails _ _ _).zoneChanged hc hn hz _ _ _)

theorem Leads.setPanelStale (h : Leads n a w) (hz : n.zev = true) (p x) : Leads n a (w.setPanelStale p x) := .foldl _ h fun _ _ h => h.setZone hz _ _
theorem Leads.setPanelTrouble (h : Leads n a w) (hz : n.zev = true) (p m x) : Leads n a (w.setPanelTrouble p m x) :=
  (h.setZev hz _).reportChange _ _ _ _

theorem Leads.panelReport (h : Leads n a w) (hc : n.cru = true) (hn : n.rgc = true) (hz : n.zev = true) (p m cs x) : Leads n a (w.panelReport p m cs x) :=
  Leads.setPanelTrouble (.foldl _ (h.setPanelStale hz _ _) fun _ _ h => h.zoneReport hc hn hz _ _) hz _ _ _

theorem Leads.freeZone (h : Leads n a w) (hz : n.zev = true) (z) : Leads n a (w.freeZone z) := (h.setZone hz _ _).post _ _
theorem Leads.restartZone (h : Leads n a w) (hc : n.cru = true) (hn : n.rgc = true) (hz : n.zev = true) (z) : Leads n a (w.restartZone z) := ((h.setZone hz _ _).post _ _).zoneHandOff hc hn _ _

theorem Leads.zoneAtWrite (h : Leads n a w) (hc : n.cru = true) (hn : n.rgc = true) (hz : n.zev = true) (old z) : Leads n a (w.zoneAtWrite old z) := by
  unfold Work.zoneAtWrite
  dsimp only
  refine .ite h ?_
  split
  · exact h.restartZone hc hn hz _
  · exact .ite (h.restartZone hc hn hz _) h
  · exact h
  · exact h

theorem Leads.zevAtWrite (h : Leads n a w) (hc : n.cru = true) (hn : n.rgc = true) (hz : n.zev = true) (old) : Leads n a (w.zevAtWrite old) := .foldl _ h fun _ _ h => h.zoneAtWrite hc hn hz _ _

/-! ## LBU -/

theorem Leads.tellShed (h : Leads n a w) (l) : Leads n a (w.tellShed l) := .foldl _ h fun _ _ h => h.handShed _

/-- The rest of an LBU event follows from its account. -/
theorem Leads.budgetRest {r : ShedResult} (h : Leads n a (w.setLbu r.lbu)) (c old) : Leads n a (w.budgetEvent c old r) :=
  Leads.endEvent (Leads.post (Leads.settle (Leads.runPass (Leads.tellShed h _))) _ _)

theorem Leads.setMode (h : Leads n a w) (mode) : Leads n a (w.setMode mode) := by
  unfold Work.setMode
  refine .ite h (Leads.budgetRest (h.edit (.lbu _ _ ?_ ?_)) _ _)
  · exact fun hs => (shedShared_sheds _ (r := ⟨{ w.lbu with mode := mode }, [], 0⟩) hs).1.single
  · intro ho
    have e := (shedShared_sheds (capacityOf w.map mode) (r := ⟨{ w.lbu with mode := mode }, [], 0⟩) ho.1).1.mode
    have o := shedShared_ok (capacityOf w.map w.lbu.mode) (capacityOf w.map mode) rfl rfl
      (r := ⟨{ w.lbu with mode := mode }, [], 0⟩) ho
    exact e ▸ o

theorem Leads.judgeMode48 (h : Leads n a w) : Leads n a w.judgeMode48 := h.setMode _

theorem Leads.recordPower (h : Leads n a w) (m p) : Leads n a (w.recordPower m p) :=
  Leads.reportChange (Leads.reportChange (h.edit (w' := w.setLbu { w.lbu with power := p })
    (.lbu _ _ (fun hs => hs) fun ho => ho)) _ _ _ _) _ _ _ _

theorem Leads.powerReport (h : Leads n a w) (m p) : Leads n a (w.powerReport m p) := (h.recordPower _ _).judgeMode48
theorem Leads.powerRemoved (h : Leads n a w) (m) : Leads n a (w.powerRemoved m) := (h.recordPower _ _).judgeMode48

/-- R63: the account that a BUDGET write leaves before the claimants are told. -/
theorem lbuAtWrite_account (w : Work) (h : w.lbu.single) :
    (shedShared (capacityOf w.map w.lbu.mode) (unreserve (capacityOf w.map w.lbu.mode) .audioReserve
      (unreserve (capacityOf w.map w.lbu.mode) .doorReserve ⟨w.lbu, [], 0⟩))).lbu.ok (capacityOf w.map w.lbu.mode) :=
  shedAll_ok _ h

theorem Leads.lbuAtWrite (h : Leads n a w) (old) : Leads n a (w.lbuAtWrite old) := by
  unfold Work.lbuAtWrite
  refine .ite (Leads.budgetRest (h.edit (.lbu _ _ ?_ ?_)) _ _) h
  · exact fun hs => (lbuAtWrite_account w hs).1
  · intro ho
    have e := shedAll_mode (capacityOf w.map w.lbu.mode) (r := ⟨w.lbu, [], 0⟩) ho.1
    show Lbu.ok _ (capacityOf w.map _)
    rw [e]
    exact lbuAtWrite_account w ho.1

/-! ## The owners of a node -/

theorem Leads.handLoss (h : Leads n a w) (hc : n.cru = true) (hz : n.zev = true) (o) : Leads n a (w.handLoss o) := by
  cases o with
  | floor f => exact Leads.joinLost (.foldl _ h fun _ _ h => h.doorLost _) f
  | panel p => exact h.setPanelStale hz _ _
  | car c => exact h.carLost hc _
  | power => exact h.judgeMode48

theorem Work.setEntry_toState (w : Work) (e : NodeEntry) :
    (w.setEntry e).toState = { w.toState with
      rbm := { w.rbm with nodes := w.rbm.nodes.map fun x => if x.address = e.address then e else x } } := rfl

/-- After the entry is set, a miss is made of primitive edits. -/
theorem Leads.missRest {e : NodeEntry} (h : Leads n a (w.setEntry e.missed)) (hc : n.cru = true) (hz : n.zev = true) :
    Leads n a (w.missEvent e) :=
  .ite ((h.report _ _ _).handLoss hc hz _).endEvent h

theorem Leads.settleConditions (h : Leads n a w) (e r) : Leads n a (w.settleConditions e r) :=
  ((h.reportChange _ _ _ _).reportChange _ _ _ _).reportChange _ _ _ _

theorem Leads.floorReply (h : Leads n a w) (f k p) : Leads n a (w.floorReply f k p) := by
  unfold Work.floorReply
  dsimp only
  refine Leads.speakerReport (.foldl _ ?_ fun _ _ h => h.doorReport _ _ _) _ _ _
  split
  · exact Leads.joinReturned (.foldl _ (h.addGiven _) fun _ _ h => h.doorReturned _) _
  · exact ((h.floorConfirmed _).joinConfirmed _).settle
  · exact Leads.joinSlip (.foldl _ h fun _ _ h => h.doorSlip _) _
  · exact h

theorem Leads.carHeard (h : Leads n a w) (hc : n.cru = true) (c x p) : Leads n a (w.carHeard c x p) :=
  .ite (h.carReturned hc _ _)
    ((((h.carFirstHeard hc _ _).judgeMode hc _).judgeParking hc _).judgeFirefighter hc _ _)

theorem Leads.liftReply (h : Leads n a w) (hc : n.cru = true) (c s k p) : Leads n a (w.liftReply c s k p) := by
  unfold Work.liftReply
  dsimp only
  refine .ite ?_ h
  split
  · exact h.carHeard hc _ _ _
  · exact h.carReply hc _ _ _
  · exact (h.carSlip hc _).carReply hc _ _ _
  · exact h.carReply hc _ _ _

/-- The entry that a good reply leaves before its owner is told. -/
def NodeEntry.answered (e : NodeEntry) (cycle : Nat) (r : NodeReply) : NodeEntry :=
  match e.owner with
  | .floor _ => (e.settled r cycle).toggled r (e.classify r)
  | .car _ => (e.settled r cycle).toggled r (e.classify r)
  | .panel _ => e.settled r cycle
  | .power => e.settled r cycle

theorem Work.settleConditions_toState (w : Work) (e r) : (w.settleConditions e r).toState = w.toState := by
  simp [Work.settleConditions]

/-- After the entry is set, a good reply is made of primitive edits. -/
theorem Leads.replyRest {e : NodeEntry} {m : Nat} {r : NodeReply} (h : Leads n a (w.setEntry (e.answered m r)))
    (hc : n.cru = true) (hn : n.rgc = true) (hz : n.zev = true) : Leads n a (w.replyEvent e m r) := by
  have h' : Leads n a ((w.settleConditions e r).setEntry (e.answered m r)) := by
    unfold Leads
    rw [Work.setEntry_toState, Work.settleConditions_toState]
    exact h
  unfold Work.replyEvent
  unfold NodeEntry.answered at h'
  dsimp only
  refine Leads.endEvent ?_
  split <;> rename_i heq <;> rw [heq] at h'
  · exact h'.floorReply _ _ _
  · exact h'.liftReply hc _ _ _ _
  · exact h'.panelReport hc hn hz _ _ _ _
  · exact h'.powerReport _ _

theorem Leads.floorReaddressed (h : Leads n a w) (f) : Leads n a (w.floorReaddressed f) :=
  Leads.joinReaddressed (.foldl _ h fun _ _ h => h.doorReaddressed _) _

theorem Leads.entryRemoved (h : Leads n a w) (hz : n.zev = true) (e) : Leads n a (w.entryRemoved e) := by
  unfold Work.entryRemoved
  dsimp only
  have h' := ((h.reportChange .nodeLost e.address (e.state = .lost) false).reportChange .nodeType e.address e.typeActive
    false).reportChange .nodeFault e.address e.nodeFault false
  split
  · exact .ite (h'.speakerRemoved _ _) ((h'.speakerRemoved _ _).floorReaddressed _)
  · exact (h'.setPanelStale hz _ _).setPanelTrouble hz _ _ _
  · exact h'
  · exact h'.powerRemoved _

theorem Leads.entryAdded (h : Leads n a w) (hc : n.cru = true) (old c) : Leads n a (w.entryAdded old c) := by
  unfold Work.entryAdded
  split
  · exact h.floorReaddressed _
  · exact h.carReaddressed hc _ _
  · exact h
  · exact h

/-- After the new table is set, taking it is made of primitive edits. -/
theorem Leads.nodeSetRest (h : Leads n a (w.setRbm { w.rbm with nodes := (sortedNodeSet w.map).map (entryFor w.rbm.nodes) }))
    (hc : n.cru = true) (hz : n.zev = true) : Leads n a w.takeNodeSet :=
  Leads.endEvent (.foldl _ (.foldl _ h fun _ _ h => h.entryRemoved hz _) fun _ _ h => h.entryAdded hc _ _)

/-! ## A map write -/

theorem Leads.removeDoor (h : Leads n a w) (d) : Leads n a (w.removeDoor d) :=
  (((((h.setDoor _ _).reportChange _ _ _ _).reportChange _ _ _ _).reportChange _ _ _ _ |>.addMoved _).markDoor
    _).returnClaim _

theorem Leads.doorAtWrite (h : Leads n a w) (old d) : Leads n a (w.doorAtWrite old d) := by
  unfold Work.doorAtWrite
  split
  · exact h.removeDoor _
  · exact .ite (h.setDoor _ _) h
  · exact h

theorem Leads.druAtWrite (h : Leads n a w) (old) : Leads n a (w.druAtWrite old) :=
  Leads.endEvent (.foldl _ h fun _ _ h => h.doorAtWrite _ _)

theorem Leads.ansAtWrite (h : Leads n a w) (old) : Leads n a (w.ansAtWrite old) := .ite h (h.recompute _).endEvent

theorem Leads.handOn (h : Leads n a w) (hc : n.cru = true) (hn : n.rgc = true) (hz : n.zev = true) (old) : Leads n a (w.handOn old) :=
  Leads.lbuAtWrite (Leads.ansAtWrite (.ite (((h.zevAtWrite hc hn hz _).druAtWrite _).cruAtWrite hc _)
    ((h.zevAtWrite hc hn hz _).druAtWrite _)) _) _

end Sys2Proof.Machine
end

