-- ==== Sys2Proof/Laws/Frame.lean ====
section
/-! SUPPORT. What every event leaves alone, read off its primitive edits, and what the end of a step changes: the trouble
collection and the link's queue and transmitter, nothing else. -/

namespace Sys2Proof.Machine

variable {n : Reach}

/-! ## Edits -/

/-- What every primitive edit keeps, every event keeps. -/
theorem Leads.keeps {a b : Work} (P : State → Prop) (step : ∀ s t, Edit n s t → P s → P t) (h : Leads n a b)
    (ha : P a.toState) : P b.toState := by
  have key : ∀ t, Edits n a.toState t → P t := fun t ht => by
    induction ht with
    | refl => exact ha
    | tail _ e ih => exact step _ _ e ih
  exact key _ h

/-- A node table entry but for its toggle and its payload in flight. -/
def NodeEntry.still (e : NodeEntry) : NodeEntry := { e with outToggle := false, inFlight := false }

theorem updateOwner_still (l : List NodeEntry) (o) :
    (updateOwner l o .give).map NodeEntry.still = l.map NodeEntry.still := by
  simp only [updateOwner, List.map_map]
  apply List.map_congr_left
  intro e _
  simp only [Function.comp]
  split <;> rfl

/-- What the operations of a reach never change. -/
structure Untouched (n : Reach) (s t : State) : Prop where
  pending : t.pending = s.pending
  map : t.mst.map = s.mst.map
  cru : n.cru = false → t.cru = s.cru
  zev : n.zev = false → t.zev = s.zev
  rgc : n.rgc = false → t.rgc = s.rgc
  trc : n.trc = false → t.trc = s.trc
  uptime : n.uptime = false → t.uptime = s.uptime
  mst : n.store = false → t.mst = s.mst
  nodes : n.poll = false → t.rbm.nodes.map NodeEntry.still = s.rbm.nodes.map NodeEntry.still
  poll : n.poll = false → { t.rbm with nodes := s.rbm.nodes } = s.rbm
  lastSent : n.player = false → t.plp.lastSent = s.plp.lastSent
  commands : n.player = false → s.plp.commands <+: t.plp.commands
  link : n.link = false → { t.hlc with notices := s.hlc.notices, seq := s.hlc.seq, lost := s.hlc.lost } = s.hlc

theorem Untouched.refl (s : State) : Untouched n s s where
  pending := rfl
  map := rfl
  cru := fun _ => rfl
  zev := fun _ => rfl
  rgc := fun _ => rfl
  trc := fun _ => rfl
  uptime := fun _ => rfl
  mst := fun _ => rfl
  nodes := fun _ => rfl
  poll := fun _ => rfl
  lastSent := fun _ => rfl
  commands := fun _ => List.prefix_rfl
  link := fun _ => rfl

theorem Untouched.trans {s t u : State} (h : Untouched n s t) (k : Untouched n t u) : Untouched n s u where
  pending := k.pending.trans h.pending
  map := k.map.trans h.map
  cru := fun e => (k.cru e).trans (h.cru e)
  zev := fun e => (k.zev e).trans (h.zev e)
  rgc := fun e => (k.rgc e).trans (h.rgc e)
  trc := fun e => (k.trc e).trans (h.trc e)
  uptime := fun e => (k.uptime e).trans (h.uptime e)
  mst := fun e => (k.mst e).trans (h.mst e)
  nodes := fun e => (k.nodes e).trans (h.nodes e)
  poll := fun e => by have := h.poll e; rw [← k.poll e] at this; exact this
  lastSent := fun e => (k.lastSent e).trans (h.lastSent e)
  commands := fun e => (h.commands e).trans (k.commands e)
  link := fun e => by have := h.link e; rw [← k.link e] at this; exact this

theorem Hlc.post_link (h : Hlc) (k body) :
    { h.post k body with notices := h.notices, seq := h.seq, lost := h.lost } = h := by
  unfold Hlc.post; split <;> rfl

theorem Edit.untouched {s t : State} (h : Edit n s t) : Untouched n s t := by
  have no {b : Bool} {p : Prop} (h : b = true) (e : b = false) : p := by rw [h] at e; cases e
  cases h with
  | post k body => exact { Untouched.refl s with link := fun _ => Hlc.post_link _ _ _ }
  | give o => exact { Untouched.refl s with nodes := fun _ => updateOwner_still _ _ }
  | issue c => exact { Untouched.refl s with commands := fun _ => List.prefix_append _ _ }
  | zev v h => exact { Untouched.refl s with zev := no h }
  | rgc v h => exact { Untouched.refl s with rgc := no h }
  | cru v h => exact { Untouched.refl s with cru := no h }
  | trc v h => exact { Untouched.refl s with trc := no h }
  | link v h => exact { Untouched.refl s with link := no h }
  | poll v h => exact { Untouched.refl s with nodes := no h, poll := no h }
  | player v h => exact { Untouched.refl s with lastSent := no h, commands := no h }
  | store v h m => exact { Untouched.refl s with map := m, mst := no h }
  | uptime v h => exact { Untouched.refl s with uptime := no h }
  | _ => exact { Untouched.refl s with }

/-- Every event that the shared operations make leaves these fields alone. -/
theorem Leads.untouched {a b : Work} (h : Leads n a b) : Untouched n a.toState b.toState :=
  h.keeps (Untouched n a.toState) (fun _ _ e k => k.trans e.untouched) (.refl _)

theorem Edit.single {s t : State} (h : Edit n s t) (hs : s.lbu.single) : t.lbu.single := by
  cases h with
  | lbu l single ok => exact single hs
  | _ => exact hs

/-- R51 is kept by every event. -/
theorem Leads.single {a b : Work} (h : Leads n a b) (hs : a.lbu.single) : b.lbu.single :=
  h.keeps (fun s => s.lbu.single) (fun _ _ e => e.single) hs

theorem Edit.account {s t : State} (h : Edit n s t) (hs : s.lbu.ok s.capacity) : t.lbu.ok t.capacity := by
  cases h with
  | lbu l single ok => exact ok hs
  | store v h m ok => exact (congrArg (fun m => s.lbu.ok (capacityOf m s.lbu.mode)) m).mpr hs
  | _ => exact hs

/-- R53: every event under a map keeps each source within its capacity. -/
theorem Leads.account {a b : Work} (h : Leads n a b) (hs : a.lbu.ok a.capacity) : b.lbu.ok b.capacity :=
  h.keeps (fun s => s.lbu.ok s.capacity) (fun _ _ e => e.account) hs

theorem Hlc.post_ok {h : Hlc} (ho : h.ok) (k body) : (h.post k body).ok := by
  unfold Hlc.post
  split
  · exact ⟨by simp only [List.length_append, List.length_singleton]; omega, ho.2⟩
  · exact ho

theorem Edit.hlcOk {s t : State} (h : Edit n s t) (hs : s.hlc.ok) : t.hlc.ok := by
  cases h with
  | post k body => exact Hlc.post_ok hs _ _
  | link v h ok => exact ok hs
  | _ => exact hs

/-- R163, R164, R168: every event keeps the shapes of the link's queue and buffer. -/
theorem Leads.hlcOk {a b : Work} (h : Leads n a b) (hs : a.hlc.ok) : b.hlc.ok :=
  h.keeps (fun s => s.hlc.ok) (fun _ _ e => e.hlcOk) hs

theorem Edit.trcOk {s t : State} (h : Edit n s t) (hs : s.trc.ok) : t.trc.ok := by
  cases h with
  | trc v h ok => exact ok hs
  | _ => exact hs

/-- R148, R149 are kept. -/
theorem Leads.trcOk {a b : Work} (h : Leads n a b) (hs : a.trc.ok) : b.trc.ok :=
  h.keeps (fun s => s.trc.ok) (fun _ _ e => e.trcOk) hs

theorem Edit.mstOk {s t : State} (h : Edit n s t) (hs : s.mst.ok) : t.mst.ok := by
  cases h with
  | store v h m ok => exact ok hs
  | _ => exact hs

/-- 10.1 is kept. -/
theorem Leads.mstOk {a b : Work} (h : Leads n a b) (hs : a.mst.ok) : b.mst.ok :=
  h.keeps (fun s => s.mst.ok) (fun _ _ e => e.mstOk) hs

/-- What every event of any reach keeps. -/
theorem Leads.inv {a b : Work} (h : Leads n a b) (hs : a.toState.Inv) : b.toState.Inv :=
  ⟨h.trcOk hs.1, h.hlcOk hs.2.1, h.mstOk hs.2.2.1, h.account hs.2.2.2⟩

/-! ## A map write -/

/-- The map with the same figures of R50 gives the same capacity. -/
theorem capacityOf_congr {m n : Memory} (h : figuresChanged m n = false) (mode) : capacityOf m mode = capacityOf n mode := by
  have e : ∀ k < 7, budgetFigure m k = budgetFigure n k := by
    intro k hk
    by_contra hne
    have : figuresChanged m n = true := List.any_eq_true.mpr ⟨k, List.mem_range.mpr hk, by simpa using hne⟩
    simp [this] at h
  cases mode <;>
    simp [capacityOf, sharedPool, budget, doorReserve, audioReserve, e 0 (by decide), e 1 (by decide), e 2 (by decide),
      e 3 (by decide), e 4 (by decide)]

/-- R63: a BUDGET write leaves every source within its new capacity, whatever it carried. -/
theorem lbuAtWrite_ok (w : Work) (old : Memory) (h : w.lbu.single)
    (same : figuresChanged old w.map = false → w.lbu.ok w.capacity) : (w.lbuAtWrite old).lbu.ok (w.lbuAtWrite old).capacity := by
  unfold Work.lbuAtWrite
  split
  · refine Leads.account (Leads.budgetRest (Leads.refl (n := ({} : Reach)) (w.setLbu _)) _ _) ?_
    have e := shedAll_mode (capacityOf w.map w.lbu.mode) (r := ⟨w.lbu, [], 0⟩) h
    show Lbu.ok _ (capacityOf w.map _)
    rw [show ((w.setLbu _).lbu.mode) = w.lbu.mode from e]
    exact lbuAtWrite_account w h
  · rename_i hf
    exact same (by simpa using hf)

/-! ## The trouble collection -/

theorem Detail.keyed_iff (d : Detail) (k n) : d.keyed k n = true ↔ d.kind = k ∧ d.subject = n := by
  simp [Detail.keyed]

theorem Trc.setActive_ok {t : Trc} (h : t.ok) (k n x) : (t.setActive k n x).ok := by
  refine ⟨by simpa [Trc.setActive] using h.1, ?_⟩
  unfold Trc.keysDistinct Trc.setActive
  rw [List.pairwise_map]
  refine h.2.imp fun {a b} hab => ?_
  have e : ∀ d : Detail, (if d.keyed k n then { d with active := x } else d).kind = d.kind ∧
      (if d.keyed k n then { d with active := x } else d).subject = d.subject := by
    intro d; split <;> exact ⟨rfl, rfl⟩
  rw [Detail.keyed, (e a).1, (e b).1, (e a).2, (e b).2]
  exact hab

/-- R149: an activation keeps the collection within 64 details of distinct keys. -/
theorem Trc.activate_ok {t : Trc} (h : t.ok) (now k n) : (t.activate now k n).1.ok := by
  unfold Trc.activate
  split
  · split
    · dsimp only
      split
      · exact h
      · exact Trc.setActive_ok h _ _ _
    · exact h
  · rename_i hp
    split
    · rename_i hl
      refine ⟨by simp only [List.length_append, List.length_singleton]; omega, ?_⟩
      unfold Trc.keysDistinct
      refine List.pairwise_append.mpr ⟨h.2, List.pairwise_singleton _ _, ?_⟩
      intro a ha b hb
      simp only [List.mem_singleton] at hb
      subst hb
      have := List.findIdx?_eq_none_iff.mp hp a ha
      simpa using this
    · dsimp only
      split
      · exact h
      · exact h

/-- R150. -/
theorem Trc.inactivate_ok {t : Trc} (h : t.ok) (k n) : (t.inactivate k n).1.ok := by
  unfold Trc.inactivate
  split
  · split
    · dsimp only
      split
      · exact Trc.setActive_ok h _ _ _
      · exact h
    · exact h
  · exact h

/-! ## The end of a step -/

/-- What the end of a step leaves alone. -/
structure Settled (s t : State) : Prop where
  others : { t with trc := s.trc, hlc := s.hlc } = s
  link : { t.hlc with
    notices := s.hlc.notices, seq := s.hlc.seq, lost := s.hlc.lost, response := s.hlc.response,
    transmitter := s.hlc.transmitter } = s.hlc
  trcOk : s.trc.ok → t.trc.ok
  hlcOk : s.hlc.ok → t.hlc.ok

theorem Settled.refl (s : State) : Settled s s := ⟨rfl, rfl, id, id⟩

theorem Settled.trans {s t u : State} (h : Settled s t) (k : Settled t u) : Settled s u where
  others := by have := h.others; rw [← k.others] at this; exact this
  link := by have := h.link; rw [← k.link] at this; exact this
  trcOk := k.trcOk ∘ h.trcOk
  hlcOk := k.hlcOk ∘ h.hlcOk

theorem State.takeCondition_settled (s : State) (now c) : Settled s (s.takeCondition now c) := by
  have hok : s.trc.ok →
      (if c.active then s.trc.activate now c.kind c.subject else s.trc.inactivate c.kind c.subject).1.ok := by
    intro h; split
    · exact Trc.activate_ok h _ _ _
    · exact Trc.inactivate_ok h _ _
  unfold State.takeCondition
  dsimp only
  split
  · refine ⟨rfl, ?_, hok, fun h => Hlc.post_ok h _ _⟩
    have := Hlc.post_link s.hlc .trouble ‹_›
    have e := congrArg (fun h : Hlc => { h with response := s.hlc.response, transmitter := s.hlc.transmitter }) this
    exact e
  · exact ⟨rfl, rfl, hok, id⟩

/-- R167: the transmitter's choice keeps the shapes of the link. -/
theorem Hlc.arbitrate_ok {h : Hlc} (ho : h.ok) : h.arbitrate.ok := by
  unfold Hlc.arbitrate
  split
  · rename_i ht
    split
    · rename_i r hr
      refine ⟨ho.1, ho.2.1, fun _ => ho.2.2.1 (.inl (by simp [hr])), fun hs => ?_⟩
      simp at hs
    · rename_i hr
      split
      · rename_i n rest hn
        refine ⟨?_, ho.2.1, fun hs => ?_, fun hs => ?_⟩
        · have := ho.1; rw [hn] at this; simp only [List.length_cons] at this; exact (Nat.le_succ _).trans this
        · simp [hr, Transmitter.sendingResponseNow] at hs
        · simp [hr] at hs
      · exact ho
  · exact ho
  · exact ho

/-- R163, R167: the end of a response keeps the shapes of the link. -/
theorem Hlc.responseEnded_ok {h : Hlc} {f : List Byte} (hx : h.transmitter = .sendingResponse f) (ho : h.ok) :
    h.responseEnded.ok := by
  have hnone : h.response = none := by
    cases hr : h.response with
    | none => rfl
    | some r =>
      have := ho.2.2.2 (by simp [hr])
      simp [hx, Transmitter.sendingResponseNow] at this
  have hi : Hlc.ok { h with buffer := h.buffer.tail, transmitter := .idle } := by
    refine ⟨ho.1, ?_, fun k => ?_, fun _ => rfl⟩
    · have := ho.2.1; simp only [List.length_tail]; omega
    · simp [hnone, Transmitter.sendingResponseNow] at k
  unfold Hlc.responseEnded
  dsimp only
  split
  · exact Hlc.arbitrate_ok hi
  · exact hi

theorem Hlc.arbitrate_link (h : Hlc) :
    { h.arbitrate with
      notices := h.notices, seq := h.seq, lost := h.lost, response := h.response, transmitter := h.transmitter } = h := by
  unfold Hlc.arbitrate
  split
  · split
    · rfl
    · split <;> rfl
  · rfl
  · rfl

/-- The end of a step changes the collection and the link's queue and transmitter, and keeps their shapes. -/
theorem Work.finish_settled (w : Work) : Settled w.toState w.finish := by
  unfold Work.finish
  have h : ∀ (l : List CondChange) (s : State), Settled s (l.foldl (fun s c => s.takeCondition s.uptime c) s) := by
    intro l
    induction l with
    | nil => exact Settled.refl
    | cons c l ih => exact fun s => (s.takeCondition_settled _ c).trans (ih _)
  exact (h w.conds w.toState).trans ⟨rfl, Hlc.arbitrate_link _, id, Hlc.arbitrate_ok⟩

end Sys2Proof.Machine
end

