-- ==== Sys2Proof/Laws/Memory.lean ====
section
/-! SUPPORT. The laws of MST's addressed memory: reading after a block is replaced, and that every memory operation keeps
the canonical form. -/

namespace Sys2Proof.Machine

theorem Memory.read_eq_find (m : Memory) (a : Nat) :
    Memory.read m a = ((m.find? fun c => c.1 = a).map Prod.snd).getD (mapDefault a) := by
  induction m with
  | nil => rfl
  | cons c m ih =>
    obtain ⟨k, v⟩ := c
    unfold Memory.read
    by_cases h : a = k
    · subst h; simp
    · have : ¬ k = a := fun e => h e.symm
      simp [h, this, ih]

/-- An unlisted byte reads as its block's default (R183). -/
@[simp] theorem Memory.read_nil (a : Nat) : Memory.read [] a = mapDefault a := rfl

theorem blockCells_find (b : Nat) (f : Nat → Byte) (o : Nat) (l : List Nat) :
    ((l.filterMap fun o => if f o = mapDefault (256 * b + o) then none else some (256 * b + o, f o)).find?
        fun c => c.1 = 256 * b + o) =
      if o ∈ l ∧ f o ≠ mapDefault (256 * b + o) then some (256 * b + o, f o) else none := by
  induction l with
  | nil => simp
  | cons x l ih =>
    by_cases hx : f x = mapDefault (256 * b + x)
    · simp only [List.filterMap_cons, hx, if_true, ih, List.mem_cons]
      by_cases ho : o = x
      · subst ho; simp [hx]
      · simp [ho]
    · by_cases ho : x = o
      · subst ho; simp [hx]
      · have ho' : ¬ o = x := fun e => ho e.symm
        simp [hx, ho, ho', ih]

/-- A byte of the block just replaced reads as it was given. -/
theorem Memory.read_setBlock (m : Memory) (b o : Nat) (f : Nat → Byte) (ho : o < 256) :
    Memory.read (m.setBlock b f) (256 * b + o) = f o := by
  have low : (m.filter fun c => decide (c.1 < 256 * b)).find? (fun c => c.1 = 256 * b + o) = none := by
    simp only [List.find?_eq_none, List.mem_filter]
    rintro c ⟨_, h⟩
    simp at h ⊢; omega
  have high : (m.filter fun c => decide (256 * b + 256 ≤ c.1)).find? (fun c => c.1 = 256 * b + o) = none := by
    simp only [List.find?_eq_none, List.mem_filter]
    rintro c ⟨_, h⟩
    simp at h ⊢; omega
  have mid := blockCells_find b f o (List.range 256)
  simp only [List.mem_range, ho, true_and] at mid
  rw [Memory.read_eq_find, Memory.setBlock, List.find?_append, low, List.find?_append, high]
  unfold blockCells
  rw [mid]
  by_cases h : f o = mapDefault (256 * b + o) <;> simp [h]

/-- A byte of another block reads as before. -/
theorem Memory.read_setBlock_other (m : Memory) (b a : Nat) (f : Nat → Byte) (ha : a < 256 * b ∨ 256 * b + 256 ≤ a) :
    Memory.read (m.setBlock b f) a = Memory.read m a := by
  have mid : (blockCells b f).find? (fun c => c.1 = a) = none := by
    simp only [blockCells, List.find?_eq_none, List.mem_filterMap, List.mem_range]
    rintro c ⟨o, ho, h⟩
    split at h
    · cases h
    · injection h with h; subst h; simp; omega
  rw [Memory.read_eq_find, Memory.read_eq_find, Memory.setBlock, List.find?_append, List.find?_append, mid,
    List.find?_filter, List.find?_filter, Option.none_or]
  rcases ha with ha | ha
  · have e1 : (fun c : Host.Cell => decide (decide (c.1 < 256 * b) = true ∧ decide (c.1 = a) = true)) = fun c => decide (c.1 = a) := by
      funext c; by_cases h : c.1 = a <;> simp [h, ha]
    have e2 : m.find? (fun c => decide (decide (256 * b + 256 ≤ c.1) = true ∧ decide (c.1 = a) = true)) = none := by
      simp only [List.find?_eq_none]
      intro c _; simp; omega
    rw [e1, e2, Option.or_none]
  · have e1 : m.find? (fun c => decide (decide (c.1 < 256 * b) = true ∧ decide (c.1 = a) = true)) = none := by
      simp only [List.find?_eq_none]
      intro c _; simp; omega
    have e2 : (fun c : Host.Cell => decide (decide (256 * b + 256 ≤ c.1) = true ∧ decide (c.1 = a) = true)) = fun c => decide (c.1 = a) := by
      funext c; by_cases h : c.1 = a <;> simp [h, ha]
    rw [e1, e2, Option.none_or]

theorem blockCells_sorted (b : Nat) (f : Nat → Byte) : (blockCells b f).Pairwise (fun x y => x.1 < y.1) := by
  unfold blockCells
  rw [List.pairwise_filterMap]
  refine List.pairwise_lt_range.imp fun {x y} h c hc d hd => ?_
  split at hc
  · cases hc
  · split at hd
    · cases hd
    · injection hc with hc; injection hd with hd; subst hc; subst hd; simp; omega

theorem mem_blockCells {b : Nat} {f : Nat → Byte} {c : Host.Cell} (h : c ∈ blockCells b f) :
    256 * b ≤ c.1 ∧ c.1 < 256 * b + 256 ∧ c.2 ≠ mapDefault c.1 := by
  simp only [blockCells, List.mem_filterMap, List.mem_range] at h
  obtain ⟨o, ho, h⟩ := h
  split at h
  · cases h
  · injection h with h; subst h; exact ⟨by simp, by simp; omega, by simpa⟩

/-- Replacing a block keeps the canonical form. -/
theorem Memory.setBlock_wf {m : Memory} (h : m.wf) {b : Nat} (hb : b < 11) (f : Nat → Byte) : (m.setBlock b f).wf := by
  constructor
  · refine List.pairwise_append.mpr ⟨h.1.filter _, List.pairwise_append.mpr
      ⟨blockCells_sorted b f, h.1.filter _, ?_⟩, ?_⟩
    · intro x hx y hy
      have := (mem_blockCells hx).2.1
      simp only [List.mem_filter, decide_eq_true_eq] at hy
      omega
    · intro x hx y hy
      simp only [List.mem_filter, decide_eq_true_eq] at hx
      rcases List.mem_append.mp hy with hy | hy
      · have := (mem_blockCells hy).1; omega
      · simp only [List.mem_filter, decide_eq_true_eq] at hy; omega
  · intro c hc
    rcases List.mem_append.mp hc with hc | hc
    · exact h.2 c (List.mem_of_mem_filter hc)
    · rcases List.mem_append.mp hc with hc | hc
      · obtain ⟨_, h2, h3⟩ := mem_blockCells hc
        exact ⟨by unfold mapBytes; omega, h3⟩
      · exact h.2 c (List.mem_of_mem_filter hc)

theorem Memory.storeBlock_wf {m : Memory} (h : m.wf) {b : Nat} (hb : b < 11) (r : Nat → Nat) : (m.storeBlock b r).wf :=
  Memory.setBlock_wf h hb _

/-- R176, R187: a byte of the block just stored holds its stored value. -/
theorem Memory.read_storeBlock (m : Memory) (b o : Nat) (r : Nat → Nat) (ho : o < 256) :
    Memory.read (m.storeBlock b r) (256 * b + o) = byte (normByte b r o) := Memory.read_setBlock m b o _ ho

theorem Memory.wf_nil : Memory.wf [] := ⟨List.Pairwise.nil, by simp⟩

/-- R182: a loaded map is in canonical form. -/
theorem Store.load_wf (st : Store) : st.load.wf := by
  unfold Store.load
  have h : ∀ (l : List Nat) (m : Memory), (∀ b ∈ l, b < 11) → m.wf → (l.foldl (loadBlock st) m).wf := by
    intro l
    induction l with
    | nil => exact fun _ _ h => h
    | cons b l ih =>
      intro m hl hm
      refine ih _ (fun c hc => hl c (List.mem_cons_of_mem _ hc)) ?_
      unfold loadBlock
      split
      · exact hm
      · exact Memory.storeBlock_wf hm (hl b List.mem_cons_self) _
  exact h _ _ (fun b hb => by simpa [blockIndices] using hb) Memory.wf_nil

theorem Mst.afterReset_ok {m : Mst} (h : m.ok) (i : ResetInputs) : (m.afterReset i).ok := ⟨Store.load_wf _, h.2.1, fun _ e => by cases e⟩

end Sys2Proof.Machine
end

