-- ==== Sys2Proof/Laws/Commands.lean ====
section
/-! SUPPORT. How far each command reaches: `reachOf` says which parts of the state a command may change, and `exec_edits`
says that it changes them by primitive edits alone. The resets and MAP_WRITE, which replace whole records and the map,
have lemmas of their own. -/

namespace Sys2Proof.Machine

variable {n : Reach} {s : State}

/-! ## Reaches -/

/-- One reach lies within another. -/
def Reach.within (a b : Reach) : Bool :=
  (!a.cru || b.cru) && (!a.rgc || b.rgc) && (!a.zev || b.zev) && (!a.trc || b.trc) && (!a.link || b.link) &&
    (!a.poll || b.poll) && (!a.player || b.player) && (!a.store || b.store) && (!a.uptime || b.uptime)

theorem Edit.mono {a b : Reach} (h : a.within b = true) {s t : State} (e : Edit a s t) : Edit b s t := by
  simp only [Reach.within, Bool.and_eq_true, Bool.or_eq_true, Bool.not_eq_true'] at h
  obtain ⟨⟨⟨⟨⟨⟨⟨⟨h1, h2⟩, h3⟩, h4⟩, h5⟩, h6⟩, h7⟩, h8⟩, h9⟩ := h
  cases e with
  | doors v => exact .doors _ v
  | zev v k => exact .zev _ v (by simpa [k] using h3)
  | rgc v k => exact .rgc _ v (by simpa [k] using h2)
  | cru v k => exact .cru _ v (by simpa [k] using h1)
  | ans v => exact .ans _ v
  | give o => exact .give _ o
  | issue c => exact .issue _ c
  | post k body => exact .post _ k body
  | lbu l x y => exact .lbu _ l x y
  | trc v k ok => exact .trc _ v (by simpa [k] using h4) ok
  | link v k ok => exact .link _ v (by simpa [k] using h5) ok
  | poll v k => exact .poll _ v (by simpa [k] using h6)
  | player v k => exact .player _ v (by simpa [k] using h7)
  | store v k m ok => exact .store _ v (by simpa [k] using h8) m ok
  | uptime v k => exact .uptime _ v (by simpa [k] using h9)

theorem Edits.mono {a b : Reach} (h : a.within b = true) {s t : State} (e : Edits a s t) : Edits b s t := by
  induction e with
  | refl => exact .refl
  | tail _ e ih => exact ih.tail (e.mono h)

theorem Leads.mono {a b : Reach} (h : a.within b = true) {v w : Work} (e : Leads a v w) : Leads b v w := Edits.mono h e

/-! ## The shells of the commands -/

/-- The end of a step, for a reach that takes in the collection and the link. -/
theorem Leads.finish {w : Work} (h : Leads n (Work.begin s) w) (ht : n.trc = true) (hl : n.link = true) :
    Edits n s w.finish := by
  have k := w.finish_settled
  have h' := h.edit (w' := { w with trc := w.finish.trc }) (.trc _ _ ht k.trcOk)
  have h'' := h'.edit (w' := { w with trc := w.finish.trc, hlc := w.finish.hlc }) (.link _ _ hl k.hlcOk)
  have e : ({ w.toState with trc := w.finish.trc, hlc := w.finish.hlc } : State) = w.finish := by
    have := k.others
    generalize w.finish = t at this
    rw [← this]
  exact e ▸ h''

theorem whenStarted_edits {f : Work → Work} (h : Leads n (Work.begin s) (f (Work.begin s))) (ht : n.trc = true)
    (hl : n.link = true) : Edits n s (s.whenStarted f) := by
  unfold State.whenStarted
  split
  · exact h.finish ht hl
  · exact .refl

theorem onEvent_edits {b : Bool} {f : Work → Work} (h : Leads n (Work.begin s) (f (Work.begin s))) (ht : n.trc = true)
    (hl : n.link = true) : Edits n s (s.onEvent b f) := by
  unfold State.onEvent
  split
  · exact whenStarted_edits h ht hl
  · exact .refl

/-- R42, R172: the return to HOSTED leaves the regime as it is. -/
theorem Leads.returnToHosted {a w : Work} (h : Leads n a w) (hc : n.cru = true) (hl : n.link = true) :
    Leads n a w.returnToHosted := by
  unfold Work.returnToHosted
  split
  · have h' := (h.edit (w' := w.setHlc { w.hlc with mode := .hosted }) (.link _ _ hl id)).post .link
      (linkBody (w.setHlc { w.hlc with mode := .hosted }).toState .request)
    dsimp only
    unfold Work.modeToRgc
    have e : ((w.setHlc { w.hlc with mode := .hosted }).post .link
        (linkBody (w.setHlc { w.hlc with mode := .hosted }).toState .request)).escalating = false := by
      simp only [State.escalating, Work.post_toState, Bool.and_eq_false_imp]
      intro hm
      simp only [Hlc.post] at hm
      split at hm <;> cases hm
    simp only [e, Bool.false_and, Bool.false_eq_true, if_false]
    have k : ∀ v : Work, Leads n a v → Leads n a (v.rgcEvent v.rgc { regimeNotice := true }) := fun v hv =>
      (Leads.postRegime (w := v.setRgc v.rgc) hv _ _).handOff hc _ _
    exact k _ h'
  · exact h

/-- R163: while a request may be served, it is the oldest of the buffer and no response is pending or being sent. -/
theorem servable_some {req : Request} (h : s.servable = some req) :
    s.hlc.started = true ∧ s.hlc.response = none ∧ s.hlc.transmitter.sendingResponseNow = false ∧
      s.hlc.buffer.head? = some req := by
  unfold State.servable at h
  split at h
  · rename_i hc
    simp only [Bool.and_eq_true, Option.isNone_iff_eq_none, Bool.not_eq_true'] at hc
    exact ⟨hc.1.1, hc.1.2, hc.2, h⟩
  · cases h

/-- R164: a served request is edits of its rule, its response, the return to HOSTED and the end of the step. -/
theorem answer_edits {req : Request} {rule : Work → List Byte → Answer} (hs : s.servable = some req)
    (h : Leads n (Work.begin s) (rule (Work.begin s) req.body).work)
    (hb : (rule (Work.begin s) req.body).work.hlc.buffer = s.hlc.buffer)
    (hx : (rule (Work.begin s) req.body).work.hlc.transmitter = s.hlc.transmitter)
    (hc : n.cru = true) (ht : n.trc = true) (hl : n.link = true) : Edits n s (s.answer req rule) := by
  obtain ⟨_, _, hnow, hhead⟩ := servable_some hs
  refine Leads.finish (Leads.returnToHosted (h.edit (.link _ _ hl ?_)) hc hl) ht hl
  intro ho
  refine ⟨ho.1, ho.2.1, fun _ e => ?_, fun _ => hx ▸ hnow⟩
  rw [show _ = s.hlc.buffer from hb] at e
  simp [e] at hhead

/-- R164: serving under a reach without the link's own records, to which the response adds them. -/
theorem serveWhere_edits {m : Reach} {accepts : Nat → Bool} {rule : Work → List Byte → Answer}
    (h : ∀ body, Leads m (Work.begin s) (rule (Work.begin s) body).work) (hm : m.link = false)
    (hmn : m.within n = true) (hc : n.cru = true) (ht : n.trc = true) (hl : n.link = true) :
    Edits n s (s.serveWhere accepts rule) := by
  unfold State.serveWhere
  split
  · rename_i req hs
    split
    · have k := (h req.body).untouched.link hm
      have hb : (rule (Work.begin s) req.body).work.hlc.buffer = s.hlc.buffer := (congrArg Hlc.buffer k :)
      have hx : (rule (Work.begin s) req.body).work.hlc.transmitter = s.hlc.transmitter := (congrArg Hlc.transmitter k :)
      exact answer_edits hs ((h _).mono hmn) hb hx hc ht hl
    · exact .refl
  · exact .refl

theorem checked_leads {m : Reach} {ok : List Byte → Bool} {rule : Work → List Byte → Answer} {w : Work}
    (h : ∀ body, Leads m w (rule w body).work) (body) : Leads m w (checked ok rule w body).work := by
  unfold checked
  split
  · exact h _
  · exact .refl _

theorem serve_edits {m : Reach} {code : Nat} {ok : List Byte → Bool} {rule : Work → List Byte → Answer}
    (h : ∀ body, Leads m (Work.begin s) (rule (Work.begin s) body).work) (hm : m.link = false)
    (hmn : m.within n = true) (hc : n.cru = true) (ht : n.trc = true) (hl : n.link = true) :
    Edits n s (s.serve code ok rule) := serveWhere_edits (checked_leads h) hm hmn hc ht hl

theorem query_leads {m : Reach} {admits : Nat → Bool} {fields : State → Nat → List Byte} {w : Work} (x : Nat) :
    Leads m w (query admits fields w x).work := by
  unfold query
  split <;> exact .refl _

/-! ## The reach of each command -/

/-- What every command may change: the collection and the link. -/
def Reach.base : Reach := { trc := true, link := true }

/-- What every served request may change: in AUTONOMOUS the return to HOSTED is handed on, to the cars too. -/
def Reach.served : Reach := { Reach.base with cru := true }

/-- The reach of an event handed to RGC. -/
def Reach.regime : Reach := { Reach.served with rgc := true }

/-- The reach of an event of a zone. -/
def Reach.zones : Reach := { Reach.regime with zev := true }

/-- The reach of each command but the resets and MAP_WRITE. -/
def reachOf : Instr → Reach
  | .powerOnReset _ => .base
  | .pinReset _ => .base
  | .start => .base
  | .requestArrival _ => .base
  | .frameGapTimeout => .base
  | .unknownRequest => .served
  | .ping => .served
  | .restart => .served
  | .mapWrite => .served
  | .mapRead => .served
  | .mapStore => { Reach.served with store := true }
  | .mapStoreBlockDone _ => { Reach.base with store := true }
  | .mapStatus => .served
  | .readRegime => .served
  | .readFloor => .served
  | .readZone => .served
  | .readDoor => .served
  | .readCar => .served
  | .readProgram => .served
  | .readBudget => .served
  | .readTrouble => .served
  | .readStats => .regime
  | .readNode => .served
  | .zoneDisable => .zones
  | .zoneEnable => .zones
  | .generalEvacuation => .regime
  | .holdExtension => .regime
  | .releaseExtension => .regime
  | .floorClear => .regime
  | .alertMute => .regime
  | .resetRegime => .zones
  | .doorRelease => .served
  | .doorLock => .served
  | .doorDisable => .served
  | .doorEnable => .served
  | .firefighterGrant => .served
  | .firefighterEnd => .served
  | .carReturn => .served
  | .liveStart => .served
  | .liveStop => .served
  | .tenantStart => .served
  | .tenantStop => .served
  | .testStart => .served
  | .troubleMask => .served
  | .troubleUnmask => .served
  | .troubleClear => .served
  | .responseSent _ => .base
  | .noticeSent => .base
  | .shortExpiry => .base
  | .longExpiry => .regime
  | .cycleStart => { Reach.served with zev := true, poll := true }
  | .goodReply _ => { Reach.zones with poll := true }
  | .badReply _ => { Reach.served with zev := true, poll := true }
  | .replyTimeout => { Reach.served with zev := true, poll := true }
  | .replyGapTimeout => { Reach.served with zev := true, poll := true }
  | .zoneWindowExpiry _ => .zones
  | .clockSecond => .regime
  | .clearTimerExpiry _ => .regime
  | .muteExpiry => .regime
  | .autoGeneralExpiry => .regime
  | .doorHeldExpiry _ => .base
  | .recallLateExpiry _ => .served
  | .pauseExpiry _ => .base
  | .uptimeSecond => { Reach.base with uptime := true }
  | .play => { Reach.base with player := true }
  | .stop => { Reach.base with player := true }
  | .routeLive => { Reach.base with player := true }
  | .status _ => { Reach.base with player := true }
  | .phraseTimeout _ => { Reach.base with player := true }
  | .hostSyncReceived => .base
  | .badHostFrame _ => .base

/-! ## The rules of the requests -/

variable {w : Work}

theorem zoneDisable_leads (hc : n.cru = true) (hn : n.rgc = true) (hz : n.zev = true) (z) :
    Leads n w (zoneDisableRule w z).work := by
  unfold zoneDisableRule
  split
  · exact .ite (.refl _) ((Leads.report (.refl _) _ _ _).zoneChanged hc hn hz _ _ _)
  · exact .refl _

theorem zoneEnable_leads (hc : n.cru = true) (hn : n.rgc = true) (hz : n.zev = true) (z) :
    Leads n w (zoneEnableRule w z).work := by
  unfold zoneEnableRule
  split
  · exact .ite ((Leads.report (.refl _) _ _ _).zoneChanged hc hn hz _ _ _) (.refl _)
  · exact .refl _

theorem general_leads (hc : n.cru = true) (hn : n.rgc = true) : Leads n w (generalRule w).work :=
  .ite (.refl _) ((Leads.refl _).rgcEvent hc hn _ _)

theorem hold_leads (hc : n.cru = true) (hn : n.rgc = true) : Leads n w (holdRule w).work := by
  unfold holdRule
  repeat' split
  all_goals first | exact .refl _ | exact (Leads.refl _).rgcEvent hc hn _ _

theorem release_leads (hc : n.cru = true) (hn : n.rgc = true) : Leads n w (releaseRule w).work := by
  unfold releaseRule
  repeat' split
  all_goals first | exact .refl _ | exact (Leads.refl _).rgcEvent hc hn _ _

theorem floorClear_leads (hc : n.cru = true) (hn : n.rgc = true) (f) : Leads n w (floorClearRule w f).work := by
  unfold floorClearRule
  repeat' split
  all_goals first | exact .refl _ | exact (Leads.refl _).rgcEvent hc hn _ _

theorem mute_leads (hc : n.cru = true) (hn : n.rgc = true) (body) : Leads n w (muteRule w body).work := by
  unfold muteRule
  dsimp only
  repeat' split
  all_goals first | exact .refl _ | exact (Leads.refl _).rgcEvent hc hn _ _

theorem reset_leads (hc : n.cru = true) (hn : n.rgc = true) (hz : n.zev = true) : Leads n w (resetRule w).work := by
  unfold resetRule
  dsimp only
  have h : Leads n w w.freeZones := .foldl _ (.refl _) fun _ _ h => h.freeZone hz _
  split
  · exact .refl _
  · split
    · exact h.rgcEvent hc hn _ _
    · exact h.rgcEvent hc hn _ _

theorem readStats_leads (hn : n.rgc = true) (flags) : Leads n w (readStatsRule w flags).work :=
  .ite (((Leads.refl w).setRgc hn _).edit (w' := w.clearStats) (.lbu _ _ id id)) (.refl _)

theorem onDoor_leads {rule : Work → Nat → Answer} (d) (h : Leads n w (rule w d).work) :
    Leads n w (onDoor rule w d).work := by
  unfold onDoor
  split
  · exact h
  · exact .refl _

theorem onCar_leads {rule : Work → Nat → Answer} (c) (h : Leads n w (rule w c).work) :
    Leads n w (onCar rule w c).work := by
  unfold onCar
  split
  · exact h
  · exact .refl _

theorem onGroups_leads {rule : Work → Nat → List Group → Work} (x) (h : ∀ gs, Leads n w (rule w x gs)) :
    Leads n w (onGroups rule w x).work := by
  unfold onGroups
  split
  · exact h _
  · exact .refl _

theorem Leads.releaseDoor (d) : Leads n w (w.releaseDoor d) := by
  unfold Work.releaseDoor
  dsimp only
  refine .ite (.refl _) ?_
  split
  · exact (((Leads.refl w).setDoor _ _).tryQueue _).endEvent
  · exact (((Leads.refl w).setDoor _ _).setDoor _ _).endEvent
  · exact (Leads.refl w).setDoor _ _

theorem doorRelease_leads (d) : Leads n w (doorReleaseRule w d).work := by
  unfold doorReleaseRule
  split
  · exact .refl _
  · exact .releaseDoor _

theorem doorLock_leads (d) : Leads n w (doorLockRule w d).work := by
  unfold doorLockRule
  split
  · exact .refl _
  · exact .ite (((Leads.refl w).setDoor _ _).endOfDemand _).endEvent (.refl _)

theorem doorDisable_leads (d) : Leads n w (doorDisableRule w d).work :=
  .ite (.refl _) ((((((Leads.refl w).returnClaim _).setDoor _ _).reportChange _ _ _ _).setDoorState _ _).report _ _
    _).endEvent

theorem doorEnable_leads (d) : Leads n w (doorEnableRule w d).work :=
  .ite ((((Leads.refl w).setDoorState _ _).report _ _ _).tryQueue _).endEvent (.refl _)

theorem grant_leads (hc : n.cru = true) (c) : Leads n w (grantRule w c).work := by
  unfold grantRule
  split
  · exact (((Leads.refl w).setCar hc _ _).settleCar hc _).endEvent
  · exact .refl _

theorem end_leads (hc : n.cru = true) (c) : Leads n w (endRule w c).work := by
  unfold endRule
  split
  · exact ((Leads.refl w).issueRecall hc _).endEvent
  · exact .refl _

theorem Leads.returnCar {a : Work} (h : Leads n a w) (hc : n.cru = true) (c) : Leads n a (w.returnCar c) :=
  .ite ((((h.setHeldOut hc _ _).clearLate hc _).setCar hc _ _).settleCar hc _) h

theorem carReturn_leads (hc : n.cru = true) (c) : Leads n w (carReturnRule w c).work := by
  unfold carReturnRule
  split
  · exact .refl _
  · split
    · exact .refl _
    · split
      · exact Leads.endEvent (.foldl _ (.refl _) fun _ _ h => h.returnCar hc _)
      · unfold returnOneRule
        split
        · exact .refl _
        · exact .refl _
        · exact ((Leads.refl w).returnCar hc _).endEvent

theorem Leads.programRequest {a : Work} (h : Leads n a w) (k) : Leads n a (w.programRequest k) := (h.recompute _).endEvent

theorem liveStart_leads (body) : Leads n w (liveStartRule w body).work := ((Leads.refl w).setGiven _ _).programRequest _
theorem liveStop_leads : Leads n w (liveStopRule w).work :=
  .ite (.refl _) (((Leads.refl w).setGiven _ _).programRequest _)
theorem tenantStop_leads : Leads n w (tenantStopRule w).work :=
  .ite (.refl _) (((Leads.refl w).setGiven _ _).programRequest _)

theorem tenantStart_leads (body) : Leads n w (tenantStartRule w body).work := by
  unfold tenantStartRule
  dsimp only
  split
  · exact .refl _
  · split
    · exact .refl _
    · exact ((Leads.refl w).setProgram _ _).programRequest _

theorem testStart_leads (body) : Leads n w (testStartRule w body).work := by
  unfold testStartRule
  dsimp only
  split
  · exact .refl _
  · split
    · exact .refl _
    · exact ((Leads.refl w).setProgram _ _).programRequest _

theorem Leads.setTrc {a : Work} (h : Leads n a w) (ht : n.trc = true) (v : Trc) (ok : w.trc.ok → v.ok) :
    Leads n a (w.setTrc v) := h.edit (.trc _ _ ht ok)

theorem Leads.setMasks (ht : n.trc = true) (v x gs) : Leads n w (Work.setMasks v w x gs) :=
  .ite (.refl _) (Leads.post ((Leads.refl w).edit (w' := w.setTrc _) (.trc _ _ ht (by exact id))) _ _)

/-- TRC takes a condition change by edits of its own and a posting. -/
theorem Edits.takeCondition {a t : State} (h : Edits n a t) (ht : n.trc = true) (now c) :
    Edits n a (t.takeCondition now c) := by
  have ok : t.trc.ok →
      (if c.active then t.trc.activate now c.kind c.subject else t.trc.inactivate c.kind c.subject).1.ok := by
    intro h; split
    · exact Trc.activate_ok h _ _ _
    · exact Trc.inactivate_ok h _ _
  unfold State.takeCondition
  dsimp only
  have h' := Relation.ReflTransGen.tail h (.trc _ _ ht ok)
  split
  · exact Relation.ReflTransGen.tail h' (.post _ .trouble _)
  · exact h'

theorem Leads.reReport {a : Work} (h : Leads n a w) (ht : n.trc = true) (g) : Leads n a (w.reReport g) := by
  unfold Work.reReport Leads
  dsimp only
  generalize w.activeConditions g = l
  have key : ∀ (l : List (Kind × Nat)) (t : State), Edits n a.toState t →
      Edits n a.toState (l.foldl (fun s c => s.takeCondition s.uptime ⟨c.1, c.2, true⟩) t) := by
    intro l
    induction l with
    | nil => exact fun _ h => h
    | cons c l ih => exact fun t h => ih _ (h.takeCondition ht _ _)
  exact key l _ h

/-- R152: a clear keeps the collection's shape. -/
theorem Trc.clear_ok {t : Trc} (h : t.ok) (gs) : (t.clear gs).ok :=
  ⟨(List.length_filter_le _ _).trans h.1, List.Pairwise.filter _ h.2⟩

theorem Leads.clearTrouble (ht : n.trc = true) (x gs) : Leads n w (w.clearTrouble x gs) := by
  unfold Work.clearTrouble
  dsimp only
  have h := (Leads.refl (n := n) w).setTrc ht (w.trc.clear gs) fun h => Trc.clear_ok h gs
  have h' : Leads n w (List.foldl Work.reReport
      (if w.trc.details.length - (w.trc.keptBy gs).length = 0 ∧ w.trc.unmarked gs = [] then w.setTrc (w.trc.clear gs)
        else (w.setTrc (w.trc.clear gs)).post .trouble (troubleBody .cleared (w.setTrc (w.trc.clear gs)).trc
          (e8 x ++ e8 (w.trc.details.length - (w.trc.keptBy gs).length)))) (w.trc.unmarked gs)) :=
    .foldl _ (.ite h (h.post _ _)) fun _ _ h => h.reReport ht _
  exact .ite (Leads.endEvent h'.returnChannels) h'

/-! ## The rules of the other commands -/

theorem Leads.setHlc {a : Work} (h : Leads n a w) (hl : n.link = true) (v : Hlc) (ok : w.hlc.ok → v.ok) :
    Leads n a (w.setHlc v) := h.edit (.link _ _ hl ok)

theorem Leads.setRbm {a : Work} (h : Leads n a w) (hp : n.poll = true) (v) : Leads n a (w.setRbm v) := h.edit (.poll _ _ hp)

theorem Leads.setEntry {a : Work} (h : Leads n a w) (hp : n.poll = true) (e) : Leads n a (w.setEntry e) := h.setRbm hp _

theorem Leads.sendRequest {a : Work} (h : Leads n a w) (hp : n.poll = true) (x) : Leads n a (w.sendRequest x) := by
  unfold Work.sendRequest
  split <;> exact h.setRbm hp _

theorem Leads.nextPoll {a : Work} (h : Leads n a w) (hp : n.poll = true) : Leads n a w.nextPoll := by
  unfold Work.nextPoll
  split
  · exact (h.setRbm hp _).sendRequest hp _
  · exact h.setRbm hp _

theorem Leads.missEvent {a : Work} (h : Leads n a w) (hc : n.cru = true) (hz : n.zev = true) (hp : n.poll = true) (e) :
    Leads n a (w.missEvent e) := (h.setEntry hp _).missRest hc hz

theorem Leads.startCycle {a : Work} (h : Leads n a w) (hc : n.cru = true) (hz : n.zev = true) (hp : n.poll = true) :
    Leads n a w.startCycle := by
  have k : Leads n a w.takeNodeSet := Leads.nodeSetRest (h.setRbm hp _) hc hz
  unfold Work.startCycle
  exact (k.setRbm hp _).nextPoll hp

theorem Leads.setMst {a : Work} (h : Leads n a w) (hs : n.store = true) (v : Mst) (m : v.map = w.mst.map)
    (ok : w.mst.ok → v.ok) : Leads n a (w.setMst v) := h.edit (.store _ _ hs m ok)

theorem Leads.beginBlock {a : Work} (h : Leads n a w) (hs : n.store = true) (b) (hb : b < 11) :
    Leads n a (w.beginBlock b) := h.setMst hs _ rfl fun ho => ⟨ho.1, ho.2.1, fun _ e => by cases e; exact hb⟩

theorem mapStore_leads (hs : n.store = true) : Leads n w (mapStoreRule w).work := by
  unfold mapStoreRule
  split
  · exact .refl _
  · exact (Leads.refl w).beginBlock hs 0 (by decide)

theorem Leads.setBlock {a : Work} (h : Leads n a w) (hs : n.store = true) (b r) : Leads n a (w.setBlock b r) :=
  h.setMst hs _ rfl id

theorem Leads.endStore {a : Work} (h : Leads n a w) (hs : n.store = true) (r b) : Leads n a (w.endStore r b) :=
  Leads.post (h.setMst hs { w.mst with writing := none, lastStore := r } rfl fun ho => ⟨ho.1, ho.2.1, fun _ e => by cases e⟩)
    _ _

theorem Leads.blockVerified (hs : n.store = true) (b) (hb : w.mst.ok → b < 11) : Leads n w (w.blockVerified b) := by
  unfold Work.blockVerified
  dsimp only
  have h := (((((Leads.refl (n := n) w).setMst hs { w.mst with store := w.mst.store.verified w.map b } rfl fun ho =>
    ⟨ho.1, Memory.setBlock_wf ho.2.1 (hb ho) _, ho.2.2⟩).setBlock hs b (w.block b).verified).reportChange .writeFailed b
      (w.block b).writeFailed false).reportChange .blockCorrected b (w.block b).correctedActive false).reportChange
        .blockDefaulted b (w.block b).defaultedActive false
  split
  · exact h.beginBlock hs _ (by omega)
  · exact h.endStore hs _ _

theorem Leads.blockFailed (hs : n.store = true) (b) : Leads n w (w.blockFailed b) :=
  (((Leads.refl w).setBlock hs _ _).reportChange _ _ _ _).endStore hs _ _

theorem Leads.frameArrived (hl : n.link = true) (m) : Leads n w (Work.frameArrived m w) := by
  unfold Work.frameArrived Work.restartSilence Work.buffer
  dsimp only
  have h := (Leads.refl (n := n) w).setHlc hl { w.hlc with receiver := .hunting } id
  split
  · have h' := ((h.setHlc hl { w.hlc with receiver := .hunting, lastValidAt := w.uptime, hostSilent := false }
      id).reportChange .hostSilent 0 w.hlc.hostSilent false)
    split
    · rename_i hlen
      refine h'.setHlc hl _ fun ho => ⟨ho.1, ?_, fun x => ?_, ho.2.2.2⟩
      · simp only [List.length_append, List.length_singleton]; omega
      · simp
    · exact h'
  · exact h

theorem Leads.becomeAutonomous (hc : n.cru = true) (hn : n.rgc = true) (hl : n.link = true) :
    Leads n w w.becomeAutonomous := by
  have h := (((Leads.refl (n := n) w).setHlc hl { w.hlc with mode := .autonomous } id).post .link
    (linkBody (w.setHlc { w.hlc with mode := .autonomous }).toState .silence)).modeToRgc hc hn
  exact ((h.setGiven _ _).recompute _).endEvent

theorem Leads.pauseEnds (k) : Leads n w (w.pauseEnds k) :=
  Leads.endEvent (Leads.runDuePass (.ite ((Leads.refl w).slotComplete _) (Leads.beginSlot _ _ _ ((Leads.refl w).setProgram _ _))))

theorem Leads.setPlp (hp : n.player = true) {a : Work} (h : Leads n a w) (v) : Leads n a (w.setPlp v) :=
  h.edit (.player _ v hp)

theorem Leads.statusTransaction (hp : n.player = true) (r) : Leads n w (w.statusTransaction r) := by
  have h : Leads n w (w.setPlp { w.plp with lastSent := some statusBytes }) := (Leads.refl w).edit (.player _ _ hp)
  unfold Work.statusTransaction
  exact Leads.setPlp hp (h.takeStatus r) _

theorem Leads.sendCommand (hp : n.player = true) (c) : Leads n w (w.sendCommand c) := (Leads.refl w).edit (.player _ _ hp)

theorem Leads.uptimeSecond (hu : n.uptime = true) : Leads n w w.uptimeSecond :=
  Leads.edit (w := { w with uptime := nextUptime w.uptime }) ((Leads.refl w).edit (.uptime _ _ hu)) (.lbu _ _ id id)

theorem startUp_edits (ht : n.trc = true) (hl : n.link = true) : Edits n s s.startUp := by
  refine Leads.finish ?_ ht hl
  refine .foldl _ ?_ fun _ _ h => (h.reportChange _ _ _ _).reportChange _ _ _ _
  exact ((Leads.refl _).post _ _).setHlc hl _ id

/-! ## The commands -/

/-- An outcome is a next state that edits of a reach lead to. -/
def Reaches (n : Reach) (s : State) (o : Outcome) : Prop := ∃ t, o = .next t ∧ Edits n s t

theorem Edits.reaches {t : State} (h : Edits n s t) : Reaches n s (.next t) := ⟨t, rfl, h⟩

theorem serveByte_reaches {m : Reach} {code : Nat} {rule : Work → Nat → Answer}
    (h : ∀ x, Leads m (Work.begin s) (rule (Work.begin s) x).work)
    (hm : m.link = false ∧ m.within n = true ∧ n.cru = true ∧ n.trc = true ∧ n.link = true) :
    Reaches n s (.next (s.serveByte code rule)) :=
  (serve_edits (fun _ => h _) hm.1 hm.2.1 hm.2.2.1 hm.2.2.2.1 hm.2.2.2.2).reaches

theorem serveEmpty_reaches {m : Reach} {code : Nat} {rule : Work → Answer}
    (h : Leads m (Work.begin s) (rule (Work.begin s)).work)
    (hm : m.link = false ∧ m.within n = true ∧ n.cru = true ∧ n.trc = true ∧ n.link = true) :
    Reaches n s (.next (s.serveEmpty code rule)) :=
  (serve_edits (fun _ => h) hm.1 hm.2.1 hm.2.2.1 hm.2.2.2.1 hm.2.2.2.2).reaches

theorem serve_reaches {m : Reach} {code : Nat} {ok} {rule : Work → List Byte → Answer}
    (h : ∀ body, Leads m (Work.begin s) (rule (Work.begin s) body).work)
    (hm : m.link = false ∧ m.within n = true ∧ n.cru = true ∧ n.trc = true ∧ n.link = true) :
    Reaches n s (.next (s.serve code ok rule)) :=
  (serve_edits h hm.1 hm.2.1 hm.2.2.1 hm.2.2.2.1 hm.2.2.2.2).reaches

theorem execStart_reaches : Reaches .base s (execStart s) := by
  refine Edits.reaches ?_
  split
  · exact .refl
  · exact startUp_edits rfl rfl

theorem execRequestArrival_reaches (frame) : Reaches .base s (execRequestArrival frame s) := by
  refine Edits.reaches ?_
  split
  · exact whenStarted_edits (.frameArrived rfl _) rfl rfl
  · exact .refl

theorem Leads.setReceiver (hl : n.link = true) (r) : Leads n w (w.setReceiver r) :=
  (Leads.refl w).setHlc hl { w.hlc with receiver := r } id

theorem execFrameGapTimeout_reaches : Reaches .base s (execFrameGapTimeout s) := by
  refine Edits.reaches (onEvent_edits ?_ rfl rfl)
  exact Leads.setReceiver rfl _

theorem execBadHostFrame_reaches (f) : Reaches .base s (execBadHostFrame f s) := by
  refine Edits.reaches (onEvent_edits ?_ rfl rfl)
  exact Leads.setReceiver rfl _

theorem execHostSyncReceived_reaches : Reaches .base s (execHostSyncReceived s) := by
  refine Edits.reaches (onEvent_edits ?_ rfl rfl)
  exact Leads.setReceiver rfl _

theorem execUnknownRequest_reaches : Reaches .served s (execUnknownRequest s) :=
  (serveWhere_edits (m := {}) (fun _ => .refl _) rfl rfl rfl rfl rfl).reaches

theorem execPing_reaches : Reaches .served s (execPing s) :=
  serveEmpty_reaches (m := {}) (.refl _) (by decide)

theorem execRestart_reaches : Reaches .served s (execRestart s) := by
  refine Edits.reaches ?_
  unfold State.serveEmpty State.serve State.serveWhere
  split
  · rename_i req hs
    split
    · have k : Leads Reach.served (Work.begin s) ((Work.begin s).setHlc { s.hlc with restartDue := true }) :=
        (Leads.refl _).setHlc rfl _ id
      have e : ∀ rule : Work → List Byte → Answer, (rule (Work.begin s) req.body).work =
          (Work.begin s).setHlc { s.hlc with restartDue := true } ∨ (rule (Work.begin s) req.body).work = Work.begin s →
          Edits Reach.served s (s.answer req rule) := by
        intro rule h
        refine answer_edits hs ?_ ?_ ?_ rfl rfl rfl
        · rcases h with h | h <;> rw [h]
          · exact k
          · exact .refl _
        · rcases h with h | h <;> rw [h] <;> rfl
        · rcases h with h | h <;> rw [h] <;> rfl
      refine e _ ?_
      unfold checked
      split
      · exact .inl rfl
      · exact .inr rfl
    · exact .refl
  · exact .refl

theorem execMapRead_reaches : Reaches .served s (execMapRead s) := by
  refine serve_reaches (m := {}) (fun body => ?_) (by decide)
  unfold mapReadRule
  dsimp only
  split <;> exact .refl _

theorem execMapStore_reaches : Reaches { Reach.served with store := true } s (execMapStore s) :=
  serveEmpty_reaches (m := { store := true }) (mapStore_leads rfl) (by decide)

theorem execMapStoreBlockDone_reaches (agrees) : Reaches { Reach.base with store := true } s (execMapStoreBlockDone agrees s) := by
  refine Edits.reaches ?_
  split
  · rename_i b hb
    refine whenStarted_edits ?_ rfl rfl
    split
    · exact .blockVerified rfl _ fun ho => ho.2.2 b hb
    · exact .blockFailed rfl _
  · exact .refl

theorem execMapStatus_reaches : Reaches .served s (execMapStatus s) :=
  serveEmpty_reaches (m := {}) (.refl _) (by decide)

theorem execReadRegime_reaches : Reaches .served s (execReadRegime s) :=
  serveEmpty_reaches (m := {}) (.refl _) (by decide)

theorem execReadFloor_reaches : Reaches .served s (execReadFloor s) :=
  serveByte_reaches (m := {}) query_leads (by decide)

theorem execReadZone_reaches : Reaches .served s (execReadZone s) :=
  serveByte_reaches (m := {}) query_leads (by decide)

theorem execReadDoor_reaches : Reaches .served s (execReadDoor s) :=
  serveByte_reaches (m := {}) query_leads (by decide)

theorem execReadCar_reaches : Reaches .served s (execReadCar s) :=
  serveByte_reaches (m := {}) query_leads (by decide)

theorem execReadProgram_reaches : Reaches .served s (execReadProgram s) := by
  refine serveByte_reaches (m := {}) (fun x => ?_) (by decide)
  unfold readProgramRule
  split <;> exact .refl _

theorem execReadBudget_reaches : Reaches .served s (execReadBudget s) :=
  serveByte_reaches (m := {}) query_leads (by decide)

theorem execReadTrouble_reaches : Reaches .served s (execReadTrouble s) :=
  serveByte_reaches (m := {}) query_leads (by decide)

theorem execReadStats_reaches : Reaches .regime s (execReadStats s) :=
  serveByte_reaches (m := { rgc := true }) (readStats_leads rfl) (by decide)

theorem execReadNode_reaches : Reaches .served s (execReadNode s) :=
  serveByte_reaches (m := {}) query_leads (by decide)

theorem execZoneDisable_reaches : Reaches .zones s (execZoneDisable s) :=
  serveByte_reaches (m := { cru := true, rgc := true, zev := true }) (zoneDisable_leads rfl rfl rfl) (by decide)

theorem execZoneEnable_reaches : Reaches .zones s (execZoneEnable s) :=
  serveByte_reaches (m := { cru := true, rgc := true, zev := true }) (zoneEnable_leads rfl rfl rfl) (by decide)

theorem execGeneralEvacuation_reaches : Reaches .regime s (execGeneralEvacuation s) :=
  serveEmpty_reaches (m := { cru := true, rgc := true }) (general_leads rfl rfl) (by decide)

theorem execHoldExtension_reaches : Reaches .regime s (execHoldExtension s) :=
  serveEmpty_reaches (m := { cru := true, rgc := true }) (hold_leads rfl rfl) (by decide)

theorem execReleaseExtension_reaches : Reaches .regime s (execReleaseExtension s) :=
  serveEmpty_reaches (m := { cru := true, rgc := true }) (release_leads rfl rfl) (by decide)

theorem execFloorClear_reaches : Reaches .regime s (execFloorClear s) :=
  serveByte_reaches (m := { cru := true, rgc := true }) (floorClear_leads rfl rfl) (by decide)

theorem execAlertMute_reaches : Reaches .regime s (execAlertMute s) :=
  serve_reaches (m := { cru := true, rgc := true }) (mute_leads rfl rfl) (by decide)

theorem execResetRegime_reaches : Reaches .zones s (execResetRegime s) :=
  serveEmpty_reaches (m := { cru := true, rgc := true, zev := true }) (reset_leads rfl rfl rfl) (by decide)

theorem execDoorRelease_reaches : Reaches .served s (execDoorRelease s) :=
  serveByte_reaches (m := {}) (fun _ => onDoor_leads _ (doorRelease_leads _)) (by decide)

theorem execDoorLock_reaches : Reaches .served s (execDoorLock s) :=
  serveByte_reaches (m := {}) (fun _ => onDoor_leads _ (doorLock_leads _)) (by decide)

theorem execDoorDisable_reaches : Reaches .served s (execDoorDisable s) :=
  serveByte_reaches (m := {}) (fun _ => onDoor_leads _ (doorDisable_leads _)) (by decide)

theorem execDoorEnable_reaches : Reaches .served s (execDoorEnable s) :=
  serveByte_reaches (m := {}) (fun _ => onDoor_leads _ (doorEnable_leads _)) (by decide)

theorem execFirefighterGrant_reaches : Reaches .served s (execFirefighterGrant s) :=
  serveByte_reaches (m := { cru := true }) (fun _ => onCar_leads _ (grant_leads rfl _)) (by decide)

theorem execFirefighterEnd_reaches : Reaches .served s (execFirefighterEnd s) :=
  serveByte_reaches (m := { cru := true }) (fun _ => onCar_leads _ (end_leads rfl _)) (by decide)

theorem execCarReturn_reaches : Reaches .served s (execCarReturn s) :=
  serveByte_reaches (m := { cru := true }) (carReturn_leads rfl) (by decide)

theorem execLiveStart_reaches : Reaches .served s (execLiveStart s) :=
  serve_reaches (m := {}) liveStart_leads (by decide)

theorem execLiveStop_reaches : Reaches .served s (execLiveStop s) :=
  serveEmpty_reaches (m := {}) liveStop_leads (by decide)

theorem execTenantStart_reaches : Reaches .served s (execTenantStart s) :=
  serve_reaches (m := {}) tenantStart_leads (by decide)

theorem execTenantStop_reaches : Reaches .served s (execTenantStop s) :=
  serveEmpty_reaches (m := {}) tenantStop_leads (by decide)

theorem execTestStart_reaches : Reaches .served s (execTestStart s) :=
  serve_reaches (m := {}) testStart_leads (by decide)

theorem execTroubleMask_reaches : Reaches .served s (execTroubleMask s) :=
  serveByte_reaches (m := { trc := true }) (fun _ => onGroups_leads _ fun _ => .setMasks rfl _ _ _) (by decide)

theorem execTroubleUnmask_reaches : Reaches .served s (execTroubleUnmask s) :=
  serveByte_reaches (m := { trc := true }) (fun _ => onGroups_leads _ fun _ => .setMasks rfl _ _ _) (by decide)

theorem execTroubleClear_reaches : Reaches .served s (execTroubleClear s) :=
  serveByte_reaches (m := { trc := true }) (fun _ => onGroups_leads _ fun _ => .clearTrouble rfl _ _) (by decide)

/-- The end of a response that is not an accepted RESTART's. -/
theorem execResponseSent_reaches (i) (hr : Claims.resets s (.responseSent i) = false) :
    Reaches .base s (execResponseSent i s) := by
  refine Edits.reaches ?_
  simp only [Claims.resets] at hr
  split
  · rename_i hx
    rw [hx] at hr
    simp only [Bool.and_true] at hr
    rw [if_neg (by simp [hr])]
    split
    · exact .single (.link _ _ rfl (Hlc.responseEnded_ok hx))
    · exact .refl
  · exact .refl
  · exact .refl

theorem execNoticeSent_reaches : Reaches .base s (execNoticeSent s) := by
  refine Edits.reaches ?_
  split
  · refine whenStarted_edits ((Leads.refl _).edit (.link _ _ rfl fun ho => ?_)) rfl rfl
    exact ⟨ho.1, ho.2.1, fun k => ho.2.2.1 (k.imp_right fun k => by cases k), fun _ => rfl⟩
  · exact .refl
  · exact .refl

theorem Leads.becomeSilent (hl : n.link = true) : Leads n w w.becomeSilent :=
  ((Leads.refl w).setHlc hl { w.hlc with hostSilent := true } id).reportChange _ _ _ _

theorem execShortExpiry_reaches : Reaches .base s (execShortExpiry s) := by
  refine Edits.reaches (onEvent_edits ?_ rfl rfl)
  exact .becomeSilent rfl

theorem execLongExpiry_reaches : Reaches .regime s (execLongExpiry s) := by
  refine Edits.reaches (onEvent_edits ?_ rfl rfl)
  exact .becomeAutonomous rfl rfl rfl

theorem execCycleStart_reaches : Reaches { Reach.served with zev := true, poll := true } s (execCycleStart s) := by
  refine Edits.reaches (onEvent_edits ?_ rfl rfl)
  exact (Leads.refl _).startCycle rfl rfl rfl

theorem execGoodReply_reaches (reply) : Reaches { Reach.zones with poll := true } s (execGoodReply reply s) := by
  refine Edits.reaches ?_
  split
  · split
    · split
      · exact whenStarted_edits ((Leads.replyRest ((Leads.refl _).setEntry rfl _) rfl rfl rfl).nextPoll rfl) rfl rfl
      · exact .refl
      · exact .refl
    · exact .refl
  · exact .refl

theorem Leads.typeWrongEvent (hc : n.cru = true) (hz : n.zev = true) (hp : n.poll = true) (e) :
    Leads n w (w.typeWrongEvent e) := by
  unfold Work.typeWrongEvent
  exact Leads.missEvent (((Leads.refl w).setEntry hp _).reportChange _ _ _ _) hc hz hp _

theorem execBadReply_reaches (reply) : Reaches { Reach.served with zev := true, poll := true } s (execBadReply reply s) := by
  refine Edits.reaches ?_
  split
  · split
    · split
      · exact .refl
      · exact whenStarted_edits ((Leads.typeWrongEvent rfl rfl rfl _).nextPoll rfl) rfl rfl
      · exact whenStarted_edits (((Leads.refl _).missEvent rfl rfl rfl _).nextPoll rfl) rfl rfl
    · exact .refl
  · exact .refl

theorem onPoll_miss_edits : Edits { Reach.served with zev := true, poll := true } s (s.onPoll fun _ e w => w.missEvent e) := by
  unfold State.onPoll
  split
  · split
    · exact whenStarted_edits (((Leads.refl _).missEvent rfl rfl rfl _).nextPoll rfl) rfl rfl
    · exact .refl
  · exact .refl

theorem execReplyTimeout_reaches : Reaches { Reach.served with zev := true, poll := true } s (execReplyTimeout s) :=
  onPoll_miss_edits.reaches

theorem execReplyGapTimeout_reaches : Reaches { Reach.served with zev := true, poll := true } s (execReplyGapTimeout s) :=
  onPoll_miss_edits.reaches

theorem execZoneWindowExpiry_reaches (z) : Reaches .zones s (execZoneWindowExpiry z s) := by
  refine Edits.reaches (onEvent_edits ?_ rfl rfl)
  exact (Leads.refl (Work.begin s)).zoneChanged rfl rfl rfl _ _ _

theorem execClockSecond_reaches : Reaches .regime s (execClockSecond s) := by
  refine Edits.reaches (onEvent_edits ?_ rfl rfl)
  exact (Leads.refl (Work.begin s)).rgcEvent rfl rfl _ _

theorem execClearTimerExpiry_reaches (f) : Reaches .regime s (execClearTimerExpiry f s) := by
  refine Edits.reaches (onEvent_edits ?_ rfl rfl)
  exact (Leads.refl (Work.begin s)).rgcEvent rfl rfl _ _

theorem execMuteExpiry_reaches : Reaches .regime s (execMuteExpiry s) := by
  refine Edits.reaches (onEvent_edits ?_ rfl rfl)
  exact (Leads.refl (Work.begin s)).rgcEvent rfl rfl _ _

theorem execAutoGeneralExpiry_reaches : Reaches .regime s (execAutoGeneralExpiry s) := by
  refine Edits.reaches (onEvent_edits ?_ rfl rfl)
  exact (Leads.refl (Work.begin s)).rgcEvent rfl rfl _ _

theorem Leads.holdDoor (d) : Leads n w (w.holdDoor d) := ((((Leads.refl w).setDoor _ _).markDoor _).report _ _ _).endEvent

theorem execDoorHeldExpiry_reaches (d) : Reaches .base s (execDoorHeldExpiry d s) := by
  refine Edits.reaches (onEvent_edits ?_ rfl rfl)
  exact .holdDoor _

theorem Leads.becomeLate (hc : n.cru = true) (c) : Leads n w (w.becomeLate c) :=
  (((Leads.refl w).setCar hc _ _).report _ _ _).endEvent

theorem execRecallLateExpiry_reaches (c) : Reaches .served s (execRecallLateExpiry c s) := by
  refine Edits.reaches (onEvent_edits ?_ rfl rfl)
  exact .becomeLate rfl _

theorem execPauseExpiry_reaches (k) : Reaches .base s (execPauseExpiry k s) := by
  refine Edits.reaches (onEvent_edits ?_ rfl rfl)
  exact .pauseEnds _

theorem execUptimeSecond_reaches : Reaches { Reach.base with uptime := true } s (execUptimeSecond s) := by
  refine Edits.reaches (whenStarted_edits ?_ rfl rfl)
  exact .uptimeSecond rfl

theorem execPlay_reaches : Reaches { Reach.base with player := true } s (execPlay s) := by
  refine Edits.reaches ?_
  split
  · exact whenStarted_edits (.sendCommand rfl _) rfl rfl
  · exact .refl

theorem execStop_reaches : Reaches { Reach.base with player := true } s (execStop s) := by
  refine Edits.reaches ?_
  split
  · exact whenStarted_edits (.sendCommand rfl _) rfl rfl
  · exact .refl

theorem execRouteLive_reaches : Reaches { Reach.base with player := true } s (execRouteLive s) := by
  refine Edits.reaches ?_
  split
  · exact whenStarted_edits (.sendCommand rfl _) rfl rfl
  · exact .refl

theorem execStatus_reaches (r) : Reaches { Reach.base with player := true } s (execStatus r s) := by
  refine Edits.reaches (onEvent_edits ?_ rfl rfl)
  exact .statusTransaction rfl _

theorem execPhraseTimeout_reaches (r) : Reaches { Reach.base with player := true } s (execPhraseTimeout r s) := by
  refine Edits.reaches (onEvent_edits ?_ rfl rfl)
  exact .statusTransaction rfl _

/-- Each command but the resets and MAP_WRITE is made of primitive edits of its reach. -/
theorem exec_reaches (c : Instr) (s : State) (hr : Claims.resets s c = false) (hm : c ≠ .mapWrite) :
    Reaches (reachOf c) s (exec c s) := by
  cases c with
  | powerOnReset i => cases hr
  | pinReset i => cases hr
  | start => exact execStart_reaches
  | requestArrival x => exact execRequestArrival_reaches x
  | frameGapTimeout => exact execFrameGapTimeout_reaches
  | unknownRequest => exact execUnknownRequest_reaches
  | ping => exact execPing_reaches
  | restart => exact execRestart_reaches
  | mapWrite => exact absurd rfl hm
  | mapRead => exact execMapRead_reaches
  | mapStore => exact execMapStore_reaches
  | mapStoreBlockDone x => exact execMapStoreBlockDone_reaches x
  | mapStatus => exact execMapStatus_reaches
  | readRegime => exact execReadRegime_reaches
  | readFloor => exact execReadFloor_reaches
  | readZone => exact execReadZone_reaches
  | readDoor => exact execReadDoor_reaches
  | readCar => exact execReadCar_reaches
  | readProgram => exact execReadProgram_reaches
  | readBudget => exact execReadBudget_reaches
  | readTrouble => exact execReadTrouble_reaches
  | readStats => exact execReadStats_reaches
  | readNode => exact execReadNode_reaches
  | zoneDisable => exact execZoneDisable_reaches
  | zoneEnable => exact execZoneEnable_reaches
  | generalEvacuation => exact execGeneralEvacuation_reaches
  | holdExtension => exact execHoldExtension_reaches
  | releaseExtension => exact execReleaseExtension_reaches
  | floorClear => exact execFloorClear_reaches
  | alertMute => exact execAlertMute_reaches
  | resetRegime => exact execResetRegime_reaches
  | doorRelease => exact execDoorRelease_reaches
  | doorLock => exact execDoorLock_reaches
  | doorDisable => exact execDoorDisable_reaches
  | doorEnable => exact execDoorEnable_reaches
  | firefighterGrant => exact execFirefighterGrant_reaches
  | firefighterEnd => exact execFirefighterEnd_reaches
  | carReturn => exact execCarReturn_reaches
  | liveStart => exact execLiveStart_reaches
  | liveStop => exact execLiveStop_reaches
  | tenantStart => exact execTenantStart_reaches
  | tenantStop => exact execTenantStop_reaches
  | testStart => exact execTestStart_reaches
  | troubleMask => exact execTroubleMask_reaches
  | troubleUnmask => exact execTroubleUnmask_reaches
  | troubleClear => exact execTroubleClear_reaches
  | responseSent i => exact execResponseSent_reaches i hr
  | noticeSent => exact execNoticeSent_reaches
  | shortExpiry => exact execShortExpiry_reaches
  | longExpiry => exact execLongExpiry_reaches
  | cycleStart => exact execCycleStart_reaches
  | goodReply x => exact execGoodReply_reaches x
  | badReply x => exact execBadReply_reaches x
  | replyTimeout => exact execReplyTimeout_reaches
  | replyGapTimeout => exact execReplyGapTimeout_reaches
  | zoneWindowExpiry x => exact execZoneWindowExpiry_reaches x
  | clockSecond => exact execClockSecond_reaches
  | clearTimerExpiry x => exact execClearTimerExpiry_reaches x
  | muteExpiry => exact execMuteExpiry_reaches
  | autoGeneralExpiry => exact execAutoGeneralExpiry_reaches
  | doorHeldExpiry x => exact execDoorHeldExpiry_reaches x
  | recallLateExpiry x => exact execRecallLateExpiry_reaches x
  | pauseExpiry x => exact execPauseExpiry_reaches x
  | uptimeSecond => exact execUptimeSecond_reaches
  | play => exact execPlay_reaches
  | stop => exact execStop_reaches
  | routeLive => exact execRouteLive_reaches
  | status x => exact execStatus_reaches x
  | phraseTimeout x => exact execPhraseTimeout_reaches x
  | hostSyncReceived => exact execHostSyncReceived_reaches
  | badHostFrame x => exact execBadHostFrame_reaches x

theorem exec_edits {c : Instr} {t : State} (h : exec c s = .next t) (hr : Claims.resets s c = false)
    (hm : c ≠ .mapWrite) : Edits (reachOf c) s t := by
  obtain ⟨f, e, k⟩ := exec_reaches c s hr hm
  rw [h] at e
  cases e
  exact k

end Sys2Proof.Machine
end

