-- ==== Sys2Proof/WellFormed.lean ====
section
/-! DEFINITION. Which commands the part's links and timers can form: the ranges of 0.5 and the lengths of R161, R131. -/

namespace Sys2Proof

/-- A stored word lies in a block 0 to 10 and is one of its 64 words (10.1, R180). -/
def CellError.wf (e : CellError) : Bool := e.block < 11 && e.word < 64

def ResetInputs.wf (i : ResetInputs) : Bool := i.cellErrors.all CellError.wf

/-- From LENGTH through the CRC a host frame has 5 to 203 bytes, and LENGTH counts those between the two (R161). -/
def hostFrameSized (frame : List Byte) : Bool :=
  match frame with
  | [] => false
  | length :: _ => 2 ≤ length.toNat && length.toNat ≤ 200 && frame.length = length.toNat + 3

def HostFrameFault.wf : HostFrameFault → Bool
  | .badLength length => length.toNat < 2 || 200 < length.toNat
  | .framingError => true
  | .badCrc frame => hostFrameSized frame

/-- A reply frame of the riser bus has SYNC, ADDRESS, two CONTROL bytes, LENGTH, at most 40 payload bytes and the CRC
(R131). -/
def riserReplySized (reply : List Byte) : Bool := 7 ≤ reply.length && reply.length ≤ 47

def Instr.wf : Instr → Bool
  | .powerOnReset i => i.wf
  | .pinReset i => i.wf
  | .responseSent i => i.wf
  | .requestArrival frame => hostFrameSized frame
  | .badHostFrame fault => fault.wf
  | .goodReply reply => riserReplySized reply
  | .badReply reply => 1 ≤ reply.length && reply.length ≤ 47
  | .zoneWindowExpiry z => z < 128
  | .clearTimerExpiry f => f < 32
  | .doorHeldExpiry d => d < 64
  | .recallLateExpiry c => c < 6
  | .start => true
  | .frameGapTimeout => true
  | .unknownRequest => true
  | .ping => true
  | .restart => true
  | .mapWrite => true
  | .mapRead => true
  | .mapStore => true
  | .mapStoreBlockDone _ => true
  | .mapStatus => true
  | .readRegime => true
  | .readFloor => true
  | .readZone => true
  | .readDoor => true
  | .readCar => true
  | .readProgram => true
  | .readBudget => true
  | .readTrouble => true
  | .readStats => true
  | .readNode => true
  | .zoneDisable => true
  | .zoneEnable => true
  | .generalEvacuation => true
  | .holdExtension => true
  | .releaseExtension => true
  | .floorClear => true
  | .alertMute => true
  | .resetRegime => true
  | .doorRelease => true
  | .doorLock => true
  | .doorDisable => true
  | .doorEnable => true
  | .firefighterGrant => true
  | .firefighterEnd => true
  | .carReturn => true
  | .liveStart => true
  | .liveStop => true
  | .tenantStart => true
  | .tenantStop => true
  | .testStart => true
  | .troubleMask => true
  | .troubleUnmask => true
  | .troubleClear => true
  | .noticeSent => true
  | .shortExpiry => true
  | .longExpiry => true
  | .cycleStart => true
  | .replyTimeout => true
  | .replyGapTimeout => true
  | .clockSecond => true
  | .muteExpiry => true
  | .autoGeneralExpiry => true
  | .pauseExpiry _ => true
  | .uptimeSecond => true
  | .play => true
  | .stop => true
  | .routeLive => true
  | .status _ => true
  | .phraseTimeout _ => true
  | .hostSyncReceived => true

end Sys2Proof
end

