-- ==== Sys2Proof/Laws/PerInstr.lean ====
section
/-! SUPPORT. Per command: the check of WellFormed.lean admits a command of every row, at the widest operand that the row's
range allows where it has a range. -/

namespace Sys2Proof.Laws

/-- The commands of a row are not all refused by the well-formedness check. -/
def Formed.Statement (i : Instr) : Prop := ∃ j : Instr, j.ctorIdx = i.ctorIdx ∧ j.wf = true

theorem Formed.powerOnReset (inputs : ResetInputs) : Formed.Statement (.powerOnReset inputs) :=
  ⟨.powerOnReset ⟨true, []⟩, rfl, rfl⟩
theorem Formed.pinReset (inputs : ResetInputs) : Formed.Statement (.pinReset inputs) :=
  ⟨.pinReset ⟨false, [⟨10, 63, .single⟩]⟩, rfl, rfl⟩
theorem Formed.start : Formed.Statement .start := ⟨.start, rfl, rfl⟩
theorem Formed.requestArrival (frame : List Byte) : Formed.Statement (.requestArrival frame) :=
  ⟨.requestArrival [2, 1, 0, 0, 0], rfl, rfl⟩
theorem Formed.frameGapTimeout : Formed.Statement .frameGapTimeout := ⟨.frameGapTimeout, rfl, rfl⟩
theorem Formed.unknownRequest : Formed.Statement .unknownRequest := ⟨.unknownRequest, rfl, rfl⟩
theorem Formed.ping : Formed.Statement .ping := ⟨.ping, rfl, rfl⟩
theorem Formed.restart : Formed.Statement .restart := ⟨.restart, rfl, rfl⟩
theorem Formed.mapWrite : Formed.Statement .mapWrite := ⟨.mapWrite, rfl, rfl⟩
theorem Formed.mapRead : Formed.Statement .mapRead := ⟨.mapRead, rfl, rfl⟩
theorem Formed.mapStore : Formed.Statement .mapStore := ⟨.mapStore, rfl, rfl⟩
theorem Formed.mapStoreBlockDone (agrees : Bool) : Formed.Statement (.mapStoreBlockDone agrees) :=
  ⟨.mapStoreBlockDone true, rfl, rfl⟩
theorem Formed.mapStatus : Formed.Statement .mapStatus := ⟨.mapStatus, rfl, rfl⟩
theorem Formed.readRegime : Formed.Statement .readRegime := ⟨.readRegime, rfl, rfl⟩
theorem Formed.readFloor : Formed.Statement .readFloor := ⟨.readFloor, rfl, rfl⟩
theorem Formed.readZone : Formed.Statement .readZone := ⟨.readZone, rfl, rfl⟩
theorem Formed.readDoor : Formed.Statement .readDoor := ⟨.readDoor, rfl, rfl⟩
theorem Formed.readCar : Formed.Statement .readCar := ⟨.readCar, rfl, rfl⟩
theorem Formed.readProgram : Formed.Statement .readProgram := ⟨.readProgram, rfl, rfl⟩
theorem Formed.readBudget : Formed.Statement .readBudget := ⟨.readBudget, rfl, rfl⟩
theorem Formed.readTrouble : Formed.Statement .readTrouble := ⟨.readTrouble, rfl, rfl⟩
theorem Formed.readStats : Formed.Statement .readStats := ⟨.readStats, rfl, rfl⟩
theorem Formed.readNode : Formed.Statement .readNode := ⟨.readNode, rfl, rfl⟩
theorem Formed.zoneDisable : Formed.Statement .zoneDisable := ⟨.zoneDisable, rfl, rfl⟩
theorem Formed.zoneEnable : Formed.Statement .zoneEnable := ⟨.zoneEnable, rfl, rfl⟩
theorem Formed.generalEvacuation : Formed.Statement .generalEvacuation := ⟨.generalEvacuation, rfl, rfl⟩
theorem Formed.holdExtension : Formed.Statement .holdExtension := ⟨.holdExtension, rfl, rfl⟩
theorem Formed.releaseExtension : Formed.Statement .releaseExtension := ⟨.releaseExtension, rfl, rfl⟩
theorem Formed.floorClear : Formed.Statement .floorClear := ⟨.floorClear, rfl, rfl⟩
theorem Formed.alertMute : Formed.Statement .alertMute := ⟨.alertMute, rfl, rfl⟩
theorem Formed.resetRegime : Formed.Statement .resetRegime := ⟨.resetRegime, rfl, rfl⟩
theorem Formed.doorRelease : Formed.Statement .doorRelease := ⟨.doorRelease, rfl, rfl⟩
theorem Formed.doorLock : Formed.Statement .doorLock := ⟨.doorLock, rfl, rfl⟩
theorem Formed.doorDisable : Formed.Statement .doorDisable := ⟨.doorDisable, rfl, rfl⟩
theorem Formed.doorEnable : Formed.Statement .doorEnable := ⟨.doorEnable, rfl, rfl⟩
theorem Formed.firefighterGrant : Formed.Statement .firefighterGrant := ⟨.firefighterGrant, rfl, rfl⟩
theorem Formed.firefighterEnd : Formed.Statement .firefighterEnd := ⟨.firefighterEnd, rfl, rfl⟩
theorem Formed.carReturn : Formed.Statement .carReturn := ⟨.carReturn, rfl, rfl⟩
theorem Formed.liveStart : Formed.Statement .liveStart := ⟨.liveStart, rfl, rfl⟩
theorem Formed.liveStop : Formed.Statement .liveStop := ⟨.liveStop, rfl, rfl⟩
theorem Formed.tenantStart : Formed.Statement .tenantStart := ⟨.tenantStart, rfl, rfl⟩
theorem Formed.tenantStop : Formed.Statement .tenantStop := ⟨.tenantStop, rfl, rfl⟩
theorem Formed.testStart : Formed.Statement .testStart := ⟨.testStart, rfl, rfl⟩
theorem Formed.troubleMask : Formed.Statement .troubleMask := ⟨.troubleMask, rfl, rfl⟩
theorem Formed.troubleUnmask : Formed.Statement .troubleUnmask := ⟨.troubleUnmask, rfl, rfl⟩
theorem Formed.troubleClear : Formed.Statement .troubleClear := ⟨.troubleClear, rfl, rfl⟩
theorem Formed.responseSent (inputs : ResetInputs) : Formed.Statement (.responseSent inputs) :=
  ⟨.responseSent ⟨true, []⟩, rfl, rfl⟩
theorem Formed.noticeSent : Formed.Statement .noticeSent := ⟨.noticeSent, rfl, rfl⟩
theorem Formed.shortExpiry : Formed.Statement .shortExpiry := ⟨.shortExpiry, rfl, rfl⟩
theorem Formed.longExpiry : Formed.Statement .longExpiry := ⟨.longExpiry, rfl, rfl⟩
theorem Formed.cycleStart : Formed.Statement .cycleStart := ⟨.cycleStart, rfl, rfl⟩
theorem Formed.goodReply (reply : List Byte) : Formed.Statement (.goodReply reply) :=
  ⟨.goodReply (List.replicate 47 0), rfl, rfl⟩
theorem Formed.badReply (reply : List Byte) : Formed.Statement (.badReply reply) :=
  ⟨.badReply [0x3A], rfl, rfl⟩
theorem Formed.replyTimeout : Formed.Statement .replyTimeout := ⟨.replyTimeout, rfl, rfl⟩
theorem Formed.replyGapTimeout : Formed.Statement .replyGapTimeout := ⟨.replyGapTimeout, rfl, rfl⟩
theorem Formed.zoneWindowExpiry (zone : Nat) : Formed.Statement (.zoneWindowExpiry zone) :=
  ⟨.zoneWindowExpiry 127, rfl, rfl⟩
theorem Formed.clockSecond : Formed.Statement .clockSecond := ⟨.clockSecond, rfl, rfl⟩
theorem Formed.clearTimerExpiry (floor : Nat) : Formed.Statement (.clearTimerExpiry floor) :=
  ⟨.clearTimerExpiry 31, rfl, rfl⟩
theorem Formed.muteExpiry : Formed.Statement .muteExpiry := ⟨.muteExpiry, rfl, rfl⟩
theorem Formed.autoGeneralExpiry : Formed.Statement .autoGeneralExpiry := ⟨.autoGeneralExpiry, rfl, rfl⟩
theorem Formed.doorHeldExpiry (door : Nat) : Formed.Statement (.doorHeldExpiry door) :=
  ⟨.doorHeldExpiry 63, rfl, rfl⟩
theorem Formed.recallLateExpiry (car : Nat) : Formed.Statement (.recallLateExpiry car) :=
  ⟨.recallLateExpiry 5, rfl, rfl⟩
theorem Formed.pauseExpiry (kind : ProgramKind) : Formed.Statement (.pauseExpiry kind) :=
  ⟨.pauseExpiry .live, rfl, rfl⟩
theorem Formed.uptimeSecond : Formed.Statement .uptimeSecond := ⟨.uptimeSecond, rfl, rfl⟩
theorem Formed.play : Formed.Statement .play := ⟨.play, rfl, rfl⟩
theorem Formed.stop : Formed.Statement .stop := ⟨.stop, rfl, rfl⟩
theorem Formed.routeLive : Formed.Statement .routeLive := ⟨.routeLive, rfl, rfl⟩
theorem Formed.status (reply : StatusReply) : Formed.Statement (.status reply) :=
  ⟨.status ⟨0, 0, 1, 0⟩, rfl, rfl⟩
theorem Formed.phraseTimeout (reply : StatusReply) : Formed.Statement (.phraseTimeout reply) :=
  ⟨.phraseTimeout ⟨1, 0, 1, 0⟩, rfl, rfl⟩
theorem Formed.hostSyncReceived : Formed.Statement .hostSyncReceived := ⟨.hostSyncReceived, rfl, rfl⟩
theorem Formed.badHostFrame (fault : HostFrameFault) : Formed.Statement (.badHostFrame fault) :=
  ⟨.badHostFrame (.badLength 201), rfl, rfl⟩

end Sys2Proof.Laws
end

