-- ==== Sys2Proof/Laws/Serving.lean ====
section
/-! SUPPORT. What serving a request comes to (R163, R164, R172): the request that is served, the response that becomes
pending or leaves at once, the return to HOSTED, and what stays of the part. -/

namespace Sys2Proof.Machine

open Sys2Proof.Claims

variable {s : State} {req : Request}

/-! ## The end of a step -/

/-- A link record but for its queue of notices. -/
def Hlc.unposted (h g : Hlc) : Prop := { h with notices := g.notices, seq := g.seq, lost := g.lost } = g

theorem Hlc.unposted.response {h g : Hlc} (e : h.unposted g) : h.response = g.response := (congrArg Hlc.response e :)
theorem Hlc.unposted.transmitter {h g : Hlc} (e : h.unposted g) : h.transmitter = g.transmitter :=
  (congrArg Hlc.transmitter e :)
theorem Hlc.unposted.mode {h g : Hlc} (e : h.unposted g) : h.mode = g.mode := (congrArg Hlc.mode e :)
theorem Hlc.unposted.buffer {h g : Hlc} (e : h.unposted g) : h.buffer = g.buffer := (congrArg Hlc.buffer e :)
theorem Hlc.unposted.refl (h : Hlc) : h.unposted h := rfl
theorem Hlc.unposted.trans {h g f : Hlc} (e : h.unposted g) (k : g.unposted f) : h.unposted f := by
  have := congrArg (fun x : Hlc => { x with notices := f.notices, seq := f.seq, lost := f.lost }) e
  exact this.trans k

theorem State.takeCondition_unposted (s : State) (now c) : (s.takeCondition now c).hlc.unposted s.hlc := by
  unfold State.takeCondition
  dsimp only
  split
  · exact Hlc.post_link _ _ _
  · rfl

/-- Before the arbiter chooses, the end of a step only posts. -/
theorem Work.finish_hlc (w : Work) : ∃ h : Hlc, w.finish.hlc = h.arbitrate ∧ h.unposted w.hlc := by
  refine ⟨_, rfl, ?_⟩
  have key : ∀ (l : List CondChange) (s : State),
      (l.foldl (fun s c => s.takeCondition s.uptime c) s).hlc.unposted s.hlc := by
    intro l
    induction l with
    | nil => exact fun s => .refl _
    | cons c l ih => exact fun s => (ih _).trans (s.takeCondition_unposted _ c)
  exact key w.conds w.toState

/-- A step that reports no condition ends with the arbiter's choice alone. -/
theorem Work.finish_plain (w : Work) (h : w.conds = []) : w.finish = { w.toState with hlc := w.hlc.arbitrate } := by
  simp only [Work.finish, h, List.foldl_nil]

/-- A step leaves everything but the collection and the link as its work has it. -/
theorem Work.finish_others (w : Work) : { w.finish with trc := w.trc, hlc := w.hlc } = w.toState := w.finish_settled.others

theorem Hlc.arbitrate_response {h : Hlc} {r : Response} (hr : h.response = some r) :
    (h.transmitter = .idle → h.arbitrate.transmitter = .sendingResponse r.frame ∧ h.arbitrate.response = none) ∧
      ∀ f, h.transmitter = .sendingNotice f → h.arbitrate.transmitter = .sendingNotice f ∧ h.arbitrate.response = some r := by
  constructor
  · intro hi
    simp [Hlc.arbitrate, hi, hr]
  · intro f hf
    simp [Hlc.arbitrate, hf, hr]

/-- R164: a response made pending by a work is pending or leaving at the end of the step. -/
theorem finish_responds {w : Work} {r : Result} {fields : List Byte} (hr : w.hlc.response = some (response req r fields))
    (hx : w.hlc.transmitter = s.hlc.transmitter) : Responds s w.finish req r fields := by
  obtain ⟨h, e, k⟩ := w.finish_hlc
  have a := Hlc.arbitrate_response (h := h) (k.response.trans hr)
  unfold Responds
  rw [e, ← hx, ← k.transmitter]
  exact a

/-! ## The return to HOSTED -/

theorem returnToHosted_hosted (w : Work) (h : w.hlc.mode = .hosted) : w.returnToHosted = w := by
  unfold Work.returnToHosted
  rw [if_neg (by rw [h]; decide)]

/-- R172: the return changes the mode and posts; the hand-off reaches the cars, never the regime. -/
theorem returnToHosted_hlc (w : Work) : w.returnToHosted.hlc.unposted { w.hlc with mode := .hosted } := by
  unfold Work.returnToHosted
  split
  · dsimp only
    have h : Leads ({ cru := true, rgc := true } : Reach) ((w.setHlc { w.hlc with mode := .hosted }).post .link
        (linkBody (w.setHlc { w.hlc with mode := .hosted }).toState .request))
        ((w.setHlc { w.hlc with mode := .hosted }).post .link
        (linkBody (w.setHlc { w.hlc with mode := .hosted }).toState .request)).modeToRgc := Leads.modeToRgc (.refl _) rfl rfl
    have k : Hlc.unposted _ _ := h.untouched.link rfl
    exact k.trans (Hlc.post_link _ _ _)
  · rename_i h
    have e : w.hlc.mode = .hosted := by cases hm : w.hlc.mode <;> simp_all
    show Hlc.unposted w.hlc { w.hlc with mode := .hosted }
    rw [show ({ w.hlc with mode := .hosted } : Hlc) = w.hlc from by rw [← e]]
    rfl

/-! ## Serving -/

theorem serve_served {code : Nat} {ok : List Byte → Bool} {rule : Work → List Byte → Answer} (hs : s.servable = some req)
    (hc : req.code = code) : s.serve code ok rule = s.answer req (checked ok rule) := by
  simp only [State.serve, State.serveWhere, hs, hc, decide_true, if_true]

/-- R164, R172: a served request is answered, and the mode is HOSTED at the end. -/
theorem answer_responds {rule : Work → List Byte → Answer}
    (hx : (rule (Work.begin s) req.body).work.hlc.transmitter = s.hlc.transmitter) :
    Responds s (s.answer req rule) req (rule (Work.begin s) req.body).result (rule (Work.begin s) req.body).fields ∧
      (s.answer req rule).hlc.mode = .hosted ∧
      (s.answer req rule).hlc.buffer = (rule (Work.begin s) req.body).work.hlc.buffer := by
  have k := returnToHosted_hlc ((rule (Work.begin s) req.body).work.respond req (rule (Work.begin s) req.body).result
    (rule (Work.begin s) req.body).fields)
  refine ⟨finish_responds k.response (k.transmitter.trans hx), ?_, ?_⟩
  · have := (Work.finish_settled (Work.returnToHosted ((rule (Work.begin s) req.body).work.respond req
      (rule (Work.begin s) req.body).result (rule (Work.begin s) req.body).fields))).link
    exact ((congrArg Hlc.mode this :)).trans k.mode
  · have := (Work.finish_settled (Work.returnToHosted ((rule (Work.begin s) req.body).work.respond req
      (rule (Work.begin s) req.body).result (rule (Work.begin s) req.body).fields))).link
    exact ((congrArg Hlc.buffer this :)).trans k.buffer

/-- A request whose rule does nothing is answered, and nothing else changes. -/
theorem answer_plain {rule : Work → List Byte → Answer} (hm : s.hlc.mode = .hosted)
    (hw : (rule (Work.begin s) req.body).work = Work.begin s) :
    s.answer req rule = answered s req (rule (Work.begin s) req.body).result (rule (Work.begin s) req.body).fields := by
  unfold State.answer
  dsimp only
  rw [hw, returnToHosted_hosted _ (by exact hm), Work.finish_plain _ rfl]
  rfl

/-- R164: a request of another length than its own is refused with REFUSED_RANGE, and nothing else changes. -/
theorem answer_checked_bad {ok : List Byte → Bool} {rule : Work → List Byte → Answer} (hm : s.hlc.mode = .hosted)
    (h : ok req.body = false) : s.answer req (checked ok rule) = answered s req .refusedRange [] := by
  have e : checked ok rule (Work.begin s) req.body = .refuse (Work.begin s) .refusedRange := by simp [checked, h]
  rw [answer_plain hm (by rw [e]; rfl), e]
  rfl

/-- A request of its own length, whose rule does nothing, is answered, and nothing else changes. -/
theorem answer_checked_plain {ok : List Byte → Bool} {rule : Work → List Byte → Answer} {r : Result} {fields : List Byte}
    (hm : s.hlc.mode = .hosted) (h : ok req.body = true) (hr : rule (Work.begin s) req.body = ⟨Work.begin s, r, fields⟩) :
    s.answer req (checked ok rule) = answered s req r fields := by
  have e : checked ok rule (Work.begin s) req.body = ⟨Work.begin s, r, fields⟩ := by simp [checked, h, hr]
  rw [answer_plain hm (by rw [e]), e]

/-- A request of its own length in HOSTED whose rule is an event of a reach without the link: it is answered, the link's
own records stay, and everything but the collection and the link is as the rule's work has it. -/
theorem answer_done {n : Reach} {ok : List Byte → Bool} {rule : Work → List Byte → Answer} {w : Work} {r : Result}
    {fields : List Byte} (hm : s.hlc.mode = .hosted) (h : ok req.body = true)
    (hr : rule (Work.begin s) req.body = ⟨w, r, fields⟩) (hl : Leads n (Work.begin s) w) (hn : n.link = false) :
    Done s (s.answer req (checked ok rule)) req r fields ∧
      { s.answer req (checked ok rule) with trc := w.trc, hlc := w.hlc } = w.toState := by
  have e : checked ok rule (Work.begin s) req.body = ⟨w, r, fields⟩ := by simp [checked, h, hr]
  have u : w.hlc.unposted s.hlc := hl.untouched.link hn
  have f : s.answer req (checked ok rule) = (w.respond req r fields).finish := by
    unfold State.answer
    dsimp only
    rw [e]
    exact congrArg Work.finish (returnToHosted_hosted _ (u.mode.trans hm))
  rw [f]
  refine ⟨⟨finish_responds rfl u.transmitter, ?_⟩, ?_⟩
  · have k := (w.respond req r fields).finish_settled.link
    unfold LinkKept
    have := congrArg (fun x : Hlc => { x with
      notices := s.hlc.notices, lost := s.hlc.lost, seq := s.hlc.seq, response := s.hlc.response,
      transmitter := s.hlc.transmitter }) k
    refine Eq.trans (Eq.trans ?_ this) ?_
    · rfl
    · have v := congrArg (fun x : Hlc => { x with response := s.hlc.response, transmitter := s.hlc.transmitter }) u
      exact v
  · have k := (w.respond req r fields).finish_others
    have := congrArg (fun x : State => { x with trc := w.trc, hlc := w.hlc }) k
    exact this

/-! ## Requests that change nothing -/

/-- Nothing has been gathered for the end of an event. -/
def Work.idle (w : Work) : Prop :=
  w.given = [] ∧ w.moved = [] ∧ w.toPlace = [] ∧ w.joinsDue = false ∧ w.passDue = false ∧ w.doorMarks = [] ∧
    w.programMarks = [] ∧ w.carMarks = [] ∧ w.alarmStops = [] ∧ w.conds = []

/-- From `v` to `w` nothing but the queue of notices changed. -/
def Work.onlyPosted (v w : Work) : Prop := { w with hlc := v.hlc } = v ∧ w.hlc.unposted v.hlc

theorem Work.onlyPosted.refl (w : Work) : w.onlyPosted w := ⟨rfl, .refl _⟩
theorem Work.onlyPosted.trans {u v w : Work} (a : u.onlyPosted v) (b : v.onlyPosted w) : u.onlyPosted w :=
  ⟨(congrArg (fun x : Work => { x with hlc := u.hlc }) b.1).trans a.1, b.2.trans a.2⟩

theorem Work.post_onlyPosted (w : Work) (k : NoticeKind) (body) : w.onlyPosted (w.post k body) := by
  refine ⟨rfl, ?_⟩
  show (w.hlc.post k body).unposted w.hlc
  exact Hlc.post_link _ _ _

theorem Work.retargetChanged_same (w : Work) : w.retargetChanged w.cru.banks = w := by
  unfold Work.retargetChanged
  have key : ∀ (l : List Nat), l.foldl (fun v c =>
      let b := carBank v.map c
      if (vget w.cru.banks b .reset).recallFloor = (v.bank b).recallFloor then v else v.retarget c) w = w := by
    intro l
    induction l with
    | nil => rfl
    | cons c l ih =>
      rw [List.foldl_cons]
      have : (vget w.cru.banks (carBank w.map c) .reset).recallFloor = (w.bank (carBank w.map c)).recallFloor := rfl
      simp only [this, if_true]
      exact ih
  exact key _

theorem Work.endEvent_idle (w : Work) (h : w.idle) : w.endEvent = w := by
  obtain ⟨h1, h2, h3, h4, h5, h6, h7, h8, h9, h10⟩ := h
  have a : w.settle = w := by
    simp [Work.settle, Work.settleJoins, settleBound, Work.settleDoors, h2, h3, h4]
  simp only [Work.endEvent, a, Work.postDoors, Work.postPrograms, Work.postCars, h6, h7, h8, h9, List.contains_nil,
    List.filter_false, List.foldl_nil, Bool.or_false]
  obtain ⟨s, g⟩ := w
  simp_all [Work.settled]

theorem Work.druPhases_nil (w : Work) (h : w.toPlace = []) : w.druPhases [] = w := by
  simp [Work.druPhases, doorsOf, Work.placeDoors, h]

/-- An RGC event that changes nothing of the regime only posts. -/
theorem Work.rgcEvent_same (w : Work) (h : w.idle) : w.onlyPosted (w.rgcEvent w.rgc { regimeNotice := true }) := by
  have hf : ∀ f : Nat, floorNoticed (w.rgc.floor f) (w.rgc.floor f) = false := by simp [floorNoticed]
  have p : (w.setRgc w.rgc).postRegime w.rgc { regimeNotice := true } = w.post .regime (regimeBody w.toState) := by
    simp [Work.postRegime, Work.postFloors, Work.setRgc, hf]
  have k : ∀ v : Work, v.idle → v.handOff v.rgc { regimeNotice := true } = v := by
    intro v hv
    have d : v.druPhases [] = v := v.druPhases_nil hv.2.2.1
    unfold Work.handOff
    simp [d, Work.cruPart, Work.endEvent_idle v hv, Work.retargetChanged_same]
  have e : w.rgcEvent w.rgc { regimeNotice := true } = w.post .regime (regimeBody w.toState) := by
    unfold Work.rgcEvent
    rw [p]
    exact k _ h
  rw [e]
  exact w.post_onlyPosted _ _

/-- R42: told of the mode HOSTED, RGC only posts. -/
theorem Work.modeToRgc_hosted (w : Work) (h : w.idle) (m : w.hlc.mode = .hosted) : w.onlyPosted w.modeToRgc := by
  have e : w.escalating = false := by simp [State.escalating, m]
  have b : w.modeToRgc = w.rgcEvent w.rgc { regimeNotice := true } := by
    unfold Work.modeToRgc
    rw [e]
    rfl
  rw [b]
  exact w.rgcEvent_same h

/-- R172: with nothing gathered, the return to HOSTED changes the mode and posts, and changes nothing else. -/
theorem returnToHosted_only (w : Work) (h : w.idle) : { w.returnToHosted with hlc := w.hlc } = w := by
  have key : ∀ v : Work, v.idle → v.hlc.mode = .hosted → ∀ body, v.onlyPosted (v.post .link body).modeToRgc := by
    intro v hv hm body
    have a := v.post_onlyPosted .link body
    exact a.trans (Work.modeToRgc_hosted _ hv (a.2.mode.trans hm))
  unfold Work.returnToHosted
  split
  · have d := (key (w.setHlc { w.hlc with mode := .hosted }) h rfl
      (linkBody (w.setHlc { w.hlc with mode := .hosted }).toState .request)).1
    dsimp only
    generalize ((w.setHlc { w.hlc with mode := .hosted }).post .link _).modeToRgc = x at d ⊢
    exact congrArg (fun x : Work => { x with hlc := w.hlc }) d
  · rfl

/-- A request whose rule does nothing, in either link mode: it is answered, the mode is HOSTED at the end, and nothing but
the link changes. -/
theorem answer_reads {s : State} {req : Request} {rule : Work → List Byte → Answer}
    (hw : (rule (Work.begin s) req.body).work = Work.begin s) :
    Reads s (s.answer req rule) req (rule (Work.begin s) req.body).result (rule (Work.begin s) req.body).fields := by
  have hr := answer_responds (s := s) (req := req) (rule := rule) (by rw [hw]; rfl)
  refine ⟨hr.1, ?_, ?_, hr.2.1, fun hm => answer_plain hm hw⟩
  · unfold State.answer
    dsimp only
    rw [hw]
    have i : ((Work.begin s).respond req (rule (Work.begin s) req.body).result
      (rule (Work.begin s) req.body).fields).idle := ⟨rfl, rfl, rfl, rfl, rfl, rfl, rfl, rfl, rfl, rfl⟩
    have k := returnToHosted_only _ i
    have c : ((Work.begin s).respond req (rule (Work.begin s) req.body).result
      (rule (Work.begin s) req.body).fields).returnToHosted.conds = [] := (congrArg Work.conds k :)
    rw [Work.finish_plain _ c]
    exact congrArg (fun x : Work => { x.toState with hlc := s.hlc }) k
  · have k := returnToHosted_hlc ((rule (Work.begin s) req.body).work.respond req (rule (Work.begin s) req.body).result
      (rule (Work.begin s) req.body).fields)
    obtain ⟨g, e, u⟩ := Work.finish_hlc (Work.returnToHosted ((rule (Work.begin s) req.body).work.respond req
      (rule (Work.begin s) req.body).result (rule (Work.begin s) req.body).fields))
    have v := u.trans k
    rw [hw] at v
    unfold State.answer
    dsimp only
    rw [e]
    have q := congrArg (fun x : Hlc => { x with
      notices := s.hlc.notices, lost := s.hlc.lost, seq := s.hlc.seq, response := s.hlc.response,
      transmitter := s.hlc.transmitter, mode := s.hlc.mode }) g.arbitrate_link
    have r := congrArg (fun x : Hlc => { x with
      notices := s.hlc.notices, lost := s.hlc.lost, seq := s.hlc.seq, response := s.hlc.response,
      transmitter := s.hlc.transmitter, mode := s.hlc.mode }) v
    exact q.trans r

end Sys2Proof.Machine
end

