-- ==== Sys2Proof/Laws/Whole.lean ====
section
/-! SUPPORT. MAP_WRITE and the resets beside the commands of Commands.lean: what they keep, so that what every command
keeps follows by one case distinction. -/

namespace Sys2Proof.Machine

variable {n : Reach} {s : State} {w : Work}

/-! ## MAP_WRITE -/

/-- The work of an accepted MAP_WRITE before the change is handed on. -/
def Work.mapped (w : Work) (b : Nat) (m : Memory) : Work :=
  (w.setBlock b { w.block b with modified := true }).setMst
    { (w.setBlock b { w.block b with modified := true }).mst with map := m }

/-- The hand-on of a change is made of edits under the new map. -/
theorem acceptWrite_leads (hc : n.cru = true) (hn : n.rgc = true) (hz : n.zev = true) (w : Work) (b : Nat) (m : Memory) :
    w.acceptWrite b m = w ∨ Leads n (w.mapped b m) (w.acceptWrite b m) := by
  unfold Work.acceptWrite
  dsimp only
  split
  · exact .inl rfl
  · exact .inr (Leads.handOn (w := w.mapped b m) (.refl _) hc hn hz _)

/-- R63: an accepted write leaves every source within its capacity under the new map. -/
theorem acceptWrite_account (w : Work) (b : Nat) (m : Memory) (h : w.lbu.ok w.capacity) :
    (w.acceptWrite b m).lbu.ok (w.acceptWrite b m).capacity := by
  unfold Work.acceptWrite
  dsimp only
  split
  · exact h
  · show (Work.handOn (w.mapped b m) w.map).lbu.ok (Work.handOn (w.mapped b m) w.map).capacity
    have pre : Leads .zones (w.mapped b m) ((if cruReads w.map (((w.mapped b m).zevAtWrite w.map).druAtWrite w.map).map then
        (((w.mapped b m).zevAtWrite w.map).druAtWrite w.map).cruAtWrite w.map
        else ((w.mapped b m).zevAtWrite w.map).druAtWrite w.map).ansAtWrite w.map) :=
      Leads.ansAtWrite (.ite ((((Leads.refl _).zevAtWrite rfl rfl rfl _).druAtWrite _).cruAtWrite rfl _)
        (((Leads.refl _).zevAtWrite rfl rfl rfl _).druAtWrite _)) _
    refine lbuAtWrite_ok _ _ (pre.single h.1) fun hf => pre.account ?_
    rw [show State.map _ = (w.mapped b m).map from pre.untouched.map] at hf
    have e : capacityOf w.map w.lbu.mode = (w.mapped b m).capacity := capacityOf_congr hf _
    exact e ▸ h

/-- R164: after its rule, a served request is edits. -/
theorem answer_rest {req : Request} {rule : Work → List Byte → Answer} (hs : s.servable = some req)
    (hb : (rule (Work.begin s) req.body).work.hlc.buffer = s.hlc.buffer)
    (hx : (rule (Work.begin s) req.body).work.hlc.transmitter = s.hlc.transmitter) :
    Edits .served (rule (Work.begin s) req.body).work.toState (s.answer req rule) := by
  obtain ⟨_, _, hnow, hhead⟩ := servable_some hs
  refine Leads.finish (Leads.returnToHosted ((Leads.refl (Work.begin _)).edit (.link _ _ rfl ?_)) rfl rfl) rfl rfl
  intro ho
  refine ⟨ho.1, ho.2.1, fun _ e => ?_, fun _ => hx ▸ hnow⟩
  rw [show _ = s.hlc.buffer from hb] at e
  simp [e] at hhead

/-- The hand-on leaves the link's buffer and transmitter alone. -/
theorem acceptWrite_link (w : Work) (b : Nat) (m : Memory) :
    (w.acceptWrite b m).hlc.buffer = w.hlc.buffer ∧ (w.acceptWrite b m).hlc.transmitter = w.hlc.transmitter := by
  rcases acceptWrite_leads (n := { cru := true, rgc := true, zev := true }) rfl rfl rfl w b m with e | h
  · rw [e]; exact ⟨rfl, rfl⟩
  · have k := h.untouched.link rfl
    exact ⟨(congrArg Hlc.buffer k :), (congrArg Hlc.transmitter k :)⟩

/-- The work that a MAP_WRITE's rule leaves: nothing done, or the map written and the change handed on. -/
theorem mapWriteRule_work (w : Work) (body : List Byte) :
    (mapWriteRule w body).work = w ∨ ∃ b m, b < 11 ∧ (w.mst.map.wf → m.wf) ∧
      w.rgc.state = .quiet ∧ w.mst.writing = none ∧ (mapWriteRule w body).work = w.acceptWrite b m := by
  unfold mapWriteRule
  dsimp only
  split
  · exact .inl rfl
  · rename_i hr
    split
    · exact .inl rfl
    · rename_i hq
      split
      · exact .inl rfl
      · rename_i hw
        split
        · exact .inl rfl
        · have hb : byteAt body 0 < 11 := by
            simp only [mapRangeOk, Bool.not_eq_true', Bool.not_eq_false, Bool.and_eq_true, decide_eq_true_eq] at hr
            omega
          exact .inr ⟨_, _, hb, fun hm => Memory.storeBlock_wf hm hb _, by simpa using hq, by simpa using hw, rfl⟩

/-- A MAP_WRITE is edits of a served request, or an accepted write followed by them. -/
theorem execMapWrite_cases (s : State) :
    ∃ t, execMapWrite s = .next t ∧
      (Edits .served s t ∨ ∃ b m, b < 11 ∧ (s.mst.map.wf → m.wf) ∧ s.rgc.state = .quiet ∧ s.mst.writing = none ∧
        Edits .served ((Work.begin s).acceptWrite b m).toState t) := by
  refine ⟨_, rfl, ?_⟩
  unfold State.serve State.serveWhere
  split
  · rename_i req hs
    split
    · have key : ∀ rule : Work → List Byte → Answer,
          ((rule (Work.begin s) req.body).work = Work.begin s ∨ ∃ b m, b < 11 ∧ (s.mst.map.wf → m.wf) ∧
            s.rgc.state = .quiet ∧ s.mst.writing = none ∧
            (rule (Work.begin s) req.body).work = (Work.begin s).acceptWrite b m) →
          (Edits .served s (s.answer req rule) ∨ ∃ b m, b < 11 ∧ (s.mst.map.wf → m.wf) ∧ s.rgc.state = .quiet ∧
            s.mst.writing = none ∧ Edits .served ((Work.begin s).acceptWrite b m).toState (s.answer req rule)) := by
        intro rule h
        rcases h with h | ⟨b, m, hb, hm, hq, hw, h⟩
        · exact .inl (answer_edits hs (by rw [h]; exact .refl _) (by rw [h]; rfl) (by rw [h]; rfl) rfl rfl rfl)
        · refine .inr ⟨b, m, hb, hm, hq, hw, h ▸ answer_rest hs ?_ ?_⟩
          · rw [h]; exact (acceptWrite_link _ b m).1
          · rw [h]; exact (acceptWrite_link _ b m).2
      refine key _ ?_
      unfold checked
      split
      · exact mapWriteRule_work _ _
      · exact .inl rfl
    · exact .inl .refl
  · exact .inl .refl

/-- What every command keeps, an accepted write keeps. -/
theorem acceptWrite_inv (hs : w.toState.Inv) {b : Nat} {m : Memory} (hb : w.mst.map.wf → m.wf) :
    (w.acceptWrite b m).toState.Inv := by
  rcases acceptWrite_leads (n := .zones) rfl rfl rfl w b m with e | h
  · rw [e]; exact hs
  · exact ⟨h.trcOk hs.1, h.hlcOk hs.2.1, h.mstOk ⟨hb hs.2.2.1.1, hs.2.2.1.2⟩, acceptWrite_account w b m hs.2.2.2⟩

/-- What a MAP_WRITE keeps beside the map and what its hand-on reaches. -/
theorem execMapWrite_untouched {t : State} (h : execMapWrite s = .next t) :
    t.pending = s.pending ∧ t.uptime = s.uptime ∧ t.mst.store = s.mst.store ∧ t.mst.writing = s.mst.writing ∧
      t.rbm.polling = s.rbm.polling ∧ t.plp.lastSent = s.plp.lastSent := by
  obtain ⟨f, e, k⟩ := execMapWrite_cases s
  rw [h] at e
  cases e
  have base : ∀ {u v : State}, Edits .served u v → v.pending = u.pending ∧ v.uptime = u.uptime ∧
      v.mst = u.mst ∧ v.rbm.polling = u.rbm.polling ∧ v.plp.lastSent = u.plp.lastSent := by
    intro u v huv
    have x := (show Leads .served (Work.begin u) (Work.begin v) from huv).untouched
    exact ⟨x.pending, x.uptime rfl, x.mst rfl, (congrArg Rbm.polling (x.poll rfl) :), x.lastSent rfl⟩
  rcases k with k | ⟨b, m, _, _, _, _, k⟩
  · obtain ⟨h1, h2, h3, h4, h5⟩ := base k
    exact ⟨h1, h2, by rw [h3], by rw [h3], h4, h5⟩
  · obtain ⟨h1, h2, h3, h4, h5⟩ := base k
    rcases acceptWrite_leads (n := .zones) rfl rfl rfl (Work.begin s) b m with e | h'
    · rw [e] at h1 h2 h3 h4 h5
      exact ⟨h1, h2, by rw [h3]; rfl, by rw [h3]; rfl, h4, h5⟩
    · have x := h'.untouched
      refine ⟨h1.trans x.pending, h2.trans (x.uptime rfl), ?_, ?_, h4.trans (congrArg Rbm.polling (x.poll rfl) :),
        h5.trans (x.lastSent rfl)⟩
      · rw [h3, x.mst rfl]; rfl
      · rw [h3, x.mst rfl]; rfl

/-! ## Resets -/

/-- R160: what every command keeps, a reset keeps. -/
theorem afterReset_inv (hs : s.mst.ok) (cause : ResetCause) (i : ResetInputs) : (s.afterReset cause i).Inv := by
  refine ⟨⟨Nat.zero_le _, List.Pairwise.nil⟩, ⟨Nat.zero_le _, Nat.zero_le _, fun h => ?_, fun h => ?_⟩,
    Mst.afterReset_ok hs i, ⟨List.nodup_nil, fun src => ?_⟩⟩
  · rcases h with h | h <;> cases h
  · cases h
  · exact Nat.zero_le _

end Sys2Proof.Machine
end

