-- ==== Sys2Proof/Tests/Slice0.lean ====
section
/-! SUPPORT. The model's own tests: the well-formedness check refuses ill-formed terms; worked values of the manual; one
step of a command on a small part; and for every statement with hypotheses a state and operands that meet them. Each test
that checks a value names the rule the value comes from. -/

namespace Sys2Proof.Tests

open Sys2Proof Sys2Proof.Machine Sys2Proof.Claims

-- The tests are checked one after another, so that they need few threads at a time.
set_option Elab.async false

/-! ## Well-formedness: an ill-formed term for each check -/

theorem test_wf_refuses_cell_block : (Instr.powerOnReset ⟨true, [⟨11, 0, .single⟩]⟩).wf = false := by decide
theorem test_wf_refuses_cell_word : (Instr.pinReset ⟨true, [⟨10, 64, .uncorrectable⟩]⟩).wf = false := by decide
theorem test_wf_refuses_reset_inputs : (Instr.responseSent ⟨true, [⟨0, 64, .single⟩]⟩).wf = false := by decide
theorem test_wf_refuses_short_frame : (Instr.requestArrival [1, 0, 0, 0]).wf = false := by decide
theorem test_wf_refuses_missized_frame : (Instr.requestArrival [2, 0, 0, 0]).wf = false := by decide
theorem test_wf_refuses_good_length : (Instr.badHostFrame (.badLength 200)).wf = false := by decide
theorem test_wf_refuses_missized_crc_frame : (Instr.badHostFrame (.badCrc [3, 0, 0, 0, 0])).wf = false := by decide
theorem test_wf_refuses_short_reply : (Instr.goodReply [0x3A, 1, 128, 0, 0, 0]).wf = false := by decide
theorem test_wf_refuses_empty_reply : (Instr.badReply []).wf = false := by decide
theorem test_wf_refuses_zone : (Instr.zoneWindowExpiry 128).wf = false := by decide
theorem test_wf_refuses_floor : (Instr.clearTimerExpiry 32).wf = false := by decide
theorem test_wf_refuses_door : (Instr.doorHeldExpiry 64).wf = false := by decide
theorem test_wf_refuses_car : (Instr.recallLateExpiry 6).wf = false := by decide

/-! ## Worked values -/

/-- 11.1: the CRC of the nine characters 123456789. -/
theorem test_crc_check_value : crc16 [0x31, 0x32, 0x33, 0x34, 0x35, 0x36, 0x37, 0x38, 0x39] = 0xE5CC#16 := by decide +kernel

/-- R31: an origin on floor 14 at clock 0 with I 120 offers floor 16 120 seconds, floor 13 120 and floor 12 240. -/
theorem test_origin_ranks : (originRank 14 16, originRank 14 13, originRank 14 12) = (1, 1, 2) := by decide

/-! ## A small part -/

/-- Floors 0, 1 and 31 of 32 with nodes and both doors, floor 0 a direct exit; zone 0 a detector of floor 1 with two
alarms to confirm in 5 seconds, zone 1 its call point, zone 127 of no floor; cars 0 and 5; one panel and the power
node. -/
def buildingMap : Memory :=
  [(4, 1), (9, 60), (11, 60), (256, 10), (257, 3), (264, 11), (265, 3), (504, 41), (505, 3)] ++
    ([(512, 1), (514, 2), (515, 5), (520, 1), (521, 1)] ++
      ([(1536, 1), (1538, 20), (1539, 1), (1543, 3), (1576, 1), (1578, 25), (1579, 1), (1583, 3)] ++
        [(1792, 1), (1796, 5)]))

theorem test_building_map_is_canonical : buildingMap.wf := by decide +kernel

/-- The part at work over the small building, every node answering and no payload in flight. -/
def part : State :=
  { State.reset with
    mst := { Mst.reset with map := buildingMap }
    rbm := { Rbm.reset with
      nodes := (sortedNodeSet buildingMap).map fun c => { NodeEntry.fresh c with state := .ok, inFlight := false } }
    hlc := { Hlc.reset with started := true } }

/-- A request waits to be served. -/
def serving (s : State) (code : Nat) (body : List Byte) : State :=
  { s with hlc := { s.hlc with buffer := [⟨code, 7, body⟩] } }

def asked (code : Nat) (body : List Byte) : Request := ⟨code, 7, body⟩

def withRegime (s : State) (st : RegimeState) : State := { s with rgc := { s.rgc with state := st } }
def withZone (s : State) (z : Nat) (r : Zone) : State := { s with zev := { s.zev with zones := vset s.zev.zones z r } }
def withFloor (s : State) (f : Nat) (r : Floor) : State := { s with rgc := { s.rgc with floors := vset s.rgc.floors f r } }
def withDoor (s : State) (d : Nat) (r : Door) : State := { s with doors := vset s.doors d r }
def withCar (s : State) (c : Nat) (r : Car) : State := { s with cru := { s.cru with cars := vset s.cru.cars c r } }
def withProgram (s : State) (k : ProgramKind) (r : Program) : State :=
  { s with ans := { s.ans with programs := vset s.ans.programs k.priority r } }
def withChannel (s : State) (c : Nat) (r : Channel) : State :=
  { s with ans := { s.ans with channels := vset s.ans.channels c r } }

/-- What a command answers; the state as it stands where it does not answer. -/
def after (c : Instr) (s : State) : State :=
  match exec c s with
  | .next t => t
  | .fault _ => s
  | .refused _ => s

/-! ## One step -/

/-- R14: a disabled zone loses its count and its deadline. -/
theorem test_zone_disable : (after .zoneDisable (serving (withZone part 0 ⟨.alarm, false, .verifying, 1, some 4, 3⟩) 0x20
    [0])).zone 0 = ⟨.alarm, false, .disabled, 0, none, 3⟩ := by decide +kernel

/-- R15, R7: an enabled detector in ALARM verifies with count 1 and its window ahead. -/
theorem test_zone_enable : (after .zoneEnable (serving (withZone part 0 ⟨.alarm, false, .disabled, 0, none, 3⟩) 0x21
    [0])).zone 0 = ⟨.alarm, false, .verifying, 1, some 5, 3⟩ := by decide +kernel

/-- R9, R25, R30: the expiry confirms the zone; the regime starts with floor 1 the origin and floor 2 above it. -/
theorem test_window_expiry_starts_regime :
    let t := after (.zoneWindowExpiry 0) (withZone part 0 ⟨.alarm, false, .verifying, 1, some 0, 0⟩)
    (t.zone 0).eval = .confirmed ∧ t.rgc.state = .active ∧ (t.floor 1).phase = .evacuate ∧ (t.floor 2).phase = .evacuate ∧
      (t.floor 0).cause = some .direct ∧ (t.floor 3).phase = .alert := by decide +kernel

/-- R76, R67: a released door is queued, and the reserve of 12 units grants its 3. -/
theorem test_door_release :
    let t := after .doorRelease (serving part 0x2C [62])
    (t.door 62).manual = true ∧ (t.door 62).desired = .release ∧ t.lbu.used .shared + t.lbu.used .doorReserve = 3 := by
  decide +kernel

/-- R77: the end of a manual release returns the claim. -/
theorem test_door_lock :
    let t := after .doorLock (serving (withDoor part 0 { Door.reset with state := .releasePending, manual := true }) 0x2D [0])
    (t.door 0).manual = false ∧ (t.door 0).state ∈ [DoorState.relocking, .locked] := by decide +kernel

/-- R78: DOOR_DISABLED becomes active. -/
theorem test_door_disable :
    let t := after .doorDisable (serving part 0x2E [3])
    (t.door 3).state = .disabled ∧ t.trc.details = [⟨.doorDisabled, 3, true, 0⟩] := by decide +kernel

/-- R79. -/
theorem test_door_enable :
    ((after .doorEnable (serving (withDoor part 3 { Door.reset with state := .disabled }) 0x2F [3])).door 3).state = .locked := by
  decide +kernel

/-- R99. -/
theorem test_firefighter_grant :
    let t := after .firefighterGrant (serving (withCar part 5 { Car.reset with state := .parked, key := some true }) 0x30 [5])
    (t.car 5).state = .firefighter ∧ (t.car 5).command = .firefighterEnable := by decide +kernel

/-- R101, R93: a car in AUTO is recalled to floor 0. -/
theorem test_firefighter_end :
    let t := after .firefighterEnd (serving (withCar part 0 { Car.reset with state := .firefighter, mode := some .auto }) 0x31
      [0])
    (t.car 0).target = some 0 ∧ (t.car 0).command = .recall 0 := by decide +kernel

/-- R102. -/
theorem test_car_return_all :
    ((after .carReturn (serving (withCar part 5 { Car.reset with state := .parked, target := some 0 }) 0x32 [0xFF])).car
      5).state = .inService := by decide +kernel

/-- R97. -/
theorem test_recall_late :
    ((after (.recallLateExpiry 5) { withCar part 5 { Car.reset with state := .recalling, recallStarted := some 0 } with
      uptime := 180 }).car 5).late = true := by decide +kernel

/-- R83: door_open_time is 60. -/
theorem test_door_held :
    ((after (.doorHeldExpiry 1) { withDoor part 1 { Door.reset with heldSince := some 0 } with uptime := 60 }).door 1).held =
      true ∧
    ((after (.doorHeldExpiry 1) { withDoor part 1 { Door.reset with heldSince := some 0 } with uptime := 59 }).door 1).held =
      false := by decide +kernel

/-- R36: a cleared floor leaves EVACUATE with cause HOST. -/
theorem test_floor_clear :
    let t := after .floorClear (serving (withFloor (withRegime part .active) 31 { Floor.reset with phase := .evacuate }) 0x27
      [31])
    (t.floor 31).phase = .cleared ∧ (t.floor 31).cause = some .host := by decide +kernel

/-- R39: the clock stops at 65535, and so does the mute's end. -/
theorem test_alert_mute :
    (after .alertMute (serving { part with rgc := { part.rgc with state := .active, clock := 65000 } } 0x28 [0x03, 0x84])
      ).rgc.muteUntil = some 65535 := by decide +kernel

/-- R38. -/
theorem test_hold_extension : (after .holdExtension (serving (withRegime part .active) 0x25 [])).rgc.hold = true := by
  decide +kernel

/-- R38, R34: a released hold promotes the head of the queue. -/
theorem test_release_extension :
    let s := withFloor { part with rgc := { part.rgc with state := .active, hold := true, queue := [3] } } 3
      { Floor.reset with phase := .alert }
    let t := after .releaseExtension (serving s 0x26 [])
    t.rgc.hold = false ∧ (t.floor 3).cause = some .schedule ∧ t.rgc.queue = [] := by decide +kernel

/-- R40, R41: every floor evacuates. -/
theorem test_general_evacuation :
    let t := after .generalEvacuation (serving part 0x24 [])
    t.rgc.state = .general ∧ (t.floor 31).phase = .evacuate ∧ (t.floor 31).cause = some .general ∧
      (t.floor 0).cause = some .direct := by decide +kernel

/-- R43, R44: with nothing left, the regime returns to QUIET. -/
theorem test_reset_regime :
    let s := withZone (withFloor (withRegime part .active) 1 { Floor.reset with fireState := .alarm, alarmLatch := true })
      0 ⟨.normal, false, .confirmed, 0, none, 0⟩
    let t := after .resetRegime (serving s 0x29 [])
    (t.zone 0).eval = .quiet ∧ t.rgc.state = .quiet ∧ (t.floor 1).fireState = .normal := by decide +kernel

/-- R27: the clock stops at 65535. -/
theorem test_clock_second :
    (after .clockSecond { part with rgc := { part.rgc with state := .active, clock := 65535 } }).rgc.clock = 65535 := by
  decide +kernel

/-- R32: at clock 65535 a floor with evacuate_at 65535 is at or below the clock; hold keeps it in the queue. -/
theorem test_clock_second_takes_unscheduled :
    (after .clockSecond (withFloor { part with rgc := { part.rgc with state := .active, hold := true, clock := 65534 } } 31
      { Floor.reset with phase := .alert })).rgc.queue = [31] := by decide +kernel

/-- R108: a running ALL_CLEAR takes in a floor that a MAP_WRITE makes present. -/
theorem test_all_clear_follows_presence :
    let s := withProgram { part with mst := { part.mst with map := mapWritten part.map 0 0 [31] } } .allClear
      { Program.reset with givenSet := 0x7FFFFFFF }
    (s.floorSetOf .allClear).getLsbD 31 = false ∧
      ({ s with mst := { s.mst with map := part.map } } : State).floorSetOf .allClear = presentSet part.map := by
  decide +kernel

/-- 9.7.1, steps 5 and 6: response 7 ends with TAG 8 and notices waiting; TAG 8 is served and its response goes out
ahead of them. -/
theorem test_response_before_notices :
    let s := { part with hlc := { part.hlc with
      buffer := [asked 1 [], ⟨1, 8, []⟩], notices := [⟨.link, 0, []⟩], transmitter := .sendingResponse [] } }
    let t := after (.responseSent ⟨true, []⟩) s
    t.hlc.transmitter = .idle ∧ (after .ping t).hlc.transmitter = .sendingResponse
      (hostFrame 1 1 8 (0 :: pingFields t)) := by decide +kernel

/-- R167, 9.7.2 at 4200: the notice of an arrival that ends HOST_SILENT leaves an idle transmitter at once. -/
theorem test_arrival_notice_leaves :
    let s := { part with
      hlc := { part.hlc with hostSilent := true }, trc := { Trc.reset with details := [⟨.hostSilent, 0, true, 0⟩] } }
    let t := after (.requestArrival (hostFrame 0 0x01 9 []).tail) s
    t.hlc.transmitter.sendingResponseNow = false ∧ t.hlc.transmitter ≠ .idle ∧ t.hlc.notices = [] ∧
      t.hlc.buffer = [⟨1, 9, []⟩] := by decide +kernel

/-- R127: LIVE takes channel 0 first, and its claim. -/
theorem test_live_start :
    let t := after .liveStart (serving part 0x34 [0x80, 0, 0, 1])
    (t.program .live).floorSet = 0x80000001#32 ∧ t.lbu.has (.program .live) = true := by decide +kernel

/-- R128. -/
theorem test_tenant_start :
    ((after .tenantStart (serving part 0x36 [0, 0, 0, 2, 15, 20])).program .tenant).template = some 15 := by
  decide +kernel

/-- R129. -/
theorem test_test_start : ((after .testStart (serving part 0x38 [0, 0, 0, 2, 3])).program .test).givenSet = 2#32 := by
  decide +kernel

/-- R176, R187: an interval of 65535 is stored as 600, and is clamped; a floor count of 0 is stored as 1. -/
theorem test_map_write :
    let t := after .mapWrite (serving part 0x04 [0, 0, 7, 0, 0, 0, 0, 1, 0xFF, 0xFF])
    floorCount t.map = 1 ∧ interval t.map = 600 ∧ (t.block 0).modified = true := by decide +kernel

/-- R180. -/
theorem test_map_store : (after .mapStore (serving part 0x06 [])).mst.writing = some 0 := by decide +kernel

/-- R181: a block that does not read back as written fails the store. -/
theorem test_map_store_block_failed :
    let t := after (.mapStoreBlockDone false) { part with mst := { part.mst with writing := some 10 } }
    t.mst.lastStore = .failed 10 ∧ t.mst.writing = none ∧ (t.block 10).modified = true ∧ t.trc.details = [⟨.writeFailed, 10, true, 0⟩] := by
  decide +kernel

/-- R163: two requests are held, a third is discarded. -/
theorem test_request_arrival :
    ((after (.requestArrival (hostFrame 0 0x01 9 []).tail) part).hlc.buffer = [⟨0x01, 9, []⟩]) ∧
    ((after (.requestArrival (hostFrame 0 0x01 9 []).tail)
      { part with hlc := { part.hlc with buffer := [asked 1 [], asked 2 []] } }).hlc.buffer =
      [asked 1 [], asked 2 []]) := by decide +kernel

/-- R171. -/
theorem test_long_expiry : (after .longExpiry { part with uptime := 60 }).hlc.mode = .autonomous := by decide +kernel

/-- R172. -/
theorem test_request_returns_to_hosted :
    (after .ping (serving { part with hlc := { part.hlc with mode := .autonomous } } 0x01 [])).hlc.mode = .hosted := by
  decide +kernel

/-- R154. -/
theorem test_trouble_mask : (after .troubleMask (serving part 0x3C [0xFF])).trc.masks = Vector.replicate 8 true := by
  decide +kernel

/-- R152: an inactive detail is removed, an active one stays. -/
theorem test_trouble_clear :
    (after .troubleClear (serving { part with trc := { part.trc with
      details := [⟨.doorHeld, 1, false, 0⟩, ⟨.doorHeld, 2, true, 0⟩, ⟨.nodeLost, 1, false, 0⟩] } } 0x3E [2])).trc.details =
      [⟨.doorHeld, 2, true, 0⟩, ⟨.nodeLost, 1, false, 0⟩] := by decide +kernel

/-- R123, R186: the first STOP after reset. -/
theorem test_stop : (after .stop part).plp = ⟨[.stop 1, .stop 2, .stop 3, .stop 4, .stop 5], some [2, 0, 0, 0], false⟩ := by
  decide +kernel

/-- The part with the STOPs of the reset sent. -/
def polledPlayer : State := { part with plp := ⟨[], none, true⟩ }

/-- R124: an all-ones reply loses the player; R123: no STATUS before the STOPs of the reset have been sent. -/
theorem test_status_lost :
    (after (.status ⟨0xFF, 0xFF, 0xFF, 0xFF⟩) polledPlayer).ans.playerLost = true ∧
      after (.status ⟨0xFF, 0xFF, 0xFF, 0xFF⟩) part = part := by decide +kernel

/-- R117, R118: after the last phrase of its one run TEST completes, with its slot still the last step. -/
theorem test_status_completes_test :
    let s := withChannel (withProgram polledPlayer .test { Program.reset with
        state := .playing, givenSet := 1, floorSet := 1, template := some 0, channel := some 0, slot := 11,
        repeatsLeft := 1, played := true }) 0
      { Channel.reset with state := .held, holder := some .test, awaiting := .phrase, issuedAt := some 0 }
    let t := after (.status ⟨0, 0, 1, 0⟩) s
    (t.program .test).state = .stopping ∧ (t.program .test).slot = 11 ∧ t.plp.commands = [.stop 0] := by decide +kernel

/-- R64. -/
theorem test_uptime_second : (after .uptimeSecond part).uptime = 1 := by decide +kernel

/-- R134, R146: a door queued and granted at the cycle start that gives its floor a new address has RELEASE held. -/
theorem test_readdressed_floor_holds :
    let s := withDoor { part with mst := { part.mst with map := mapWritten part.map 1 8 [12] } } 2
      { Door.reset with manual := true }
    let d := (after .cycleStart { s with lbu := { s.lbu with mode := .mains } }).door 2
    d.state = .releasing ∧ d.desired = .lock ∧ d.pendingDesired = some .release := by decide +kernel

/-- R135: the lowest address is polled first. -/
theorem test_cycle_start :
    let t := after .cycleStart part
    t.rbm.toPoll = [5, 10, 11, 20, 25, 41] ∧ t.rbm.polling.map Poll.address = some 1 := by decide +kernel

/-- R137: the third miss in a row loses the node. -/
theorem test_reply_timeout_loses :
    let e : NodeEntry := { NodeEntry.fresh ⟨1, .panel, .panel 0⟩ with state := .missing, misses := 2 }
    let t := after .replyTimeout { part with rbm := ⟨[e], 7, [], some ⟨1, 7, []⟩⟩ }
    (t.entryAt 1).map NodeEntry.state = some .lost ∧ t.trc.details = [⟨.nodeLost, 1, true, 0⟩] ∧ t.rbm.cycle = 8 := by
  decide +kernel

/-- R4, R7: a reported ALARM of zone 1, a call point, confirms it. -/
theorem test_good_reply_alarm :
    let e : NodeEntry := { NodeEntry.fresh ⟨1, .panel, .panel 0⟩ with state := .ok }
    let s := withZone { part with rbm := ⟨[e], 7, [], some ⟨1, 7, []⟩⟩ } 1 { Zone.reset with condition := .normal }
    let t := after (.goodReply (replyFrame 1 .panel ⟨false, false, false, [0x10, 0, 0, 0, 0, 0, 0, 0, 0]⟩ 0)) s
    (t.zone 1).eval = .confirmed ∧ t.rgc.latestOrigin = some 1 := by decide +kernel

/-! ## States and operands that meet the hypotheses of the statements -/

/-- A state with claims, a detail, a waiting notice, a request and a store under way. -/
def busy : State :=
  { part with
    lbu := ⟨.mains, none, [⟨.door 0, 1, 3, some .shared, 0, some 0⟩, ⟨.program .alert, 3, 10, none, 1, none⟩], 2, 1, .zero⟩
    trc := { Trc.reset with details := [⟨.nodeLost, 1, true, 0⟩, ⟨.nodeLost, 5, false, 0⟩] }
    mst := { Mst.reset with map := buildingMap, writing := some 10 }
    hlc := { part.hlc with
      buffer := [asked 1 [], asked 2 []], notices := [⟨.link, 0, []⟩], transmitter := .sendingResponse [0xC5] } }

theorem test_witness_StepKeepsInvariant :
    { busy with pending := [.clockSecond] }.Inv ∧
      step { busy with pending := [.clockSecond] } = .next (after .clockSecond busy) := by
  refine ⟨⟨⟨by decide +kernel, ?_⟩, ⟨by decide +kernel, by decide +kernel, by decide +kernel, by decide +kernel⟩, ⟨by decide +kernel, by decide +kernel, ?_⟩, by decide +kernel, ?_⟩,
    rfl⟩
  · show List.Pairwise _ _
    decide +kernel
  · intro b h
    cases h
    decide +kernel
  · intro src
    cases src <;> decide +kernel

theorem test_witness_CommandsLeaveQueueMapAndUptime :
    exec .ping busy = .next (after .ping busy) ∧ resets busy .ping = false := ⟨rfl, rfl⟩

theorem test_witness_OtherCommandsKeepFireRecords :
    exec .doorLock busy = .next (after .doorLock busy) ∧ noFireCommand .doorLock = true := ⟨rfl, rfl⟩

def confirmedZone : Zone := ⟨.alarm, false, .confirmed, 0, none, 0⟩

theorem test_witness_ConfirmedZoneStays :
    let s := serving (withRegime (withZone part 127 confirmedZone) .active) 0x20 [126]
    exec .zoneDisable s = .next (after .zoneDisable s) ∧ (s.zone 127).eval = .confirmed ∧ resets s .zoneDisable = false ∧
      (s.servable.map fun req => byteAt req.body 0) = some 126 ∧ (s.zone 127).condition = .alarm :=
  ⟨rfl, by decide +kernel, rfl, rfl, by decide +kernel⟩

theorem test_witness_RegimeEndsOnlyByReset :
    let s := withRegime part .general
    exec .clockSecond s = .next (after .clockSecond s) ∧ resets s .clockSecond = false ∧ s.rgc.state.running = true :=
  ⟨rfl, rfl, rfl⟩

def storedPart : State :=
  { part with mst := { part.mst with
      store := ⟨buildingMap, Vector.replicate 11 true, [⟨10, 63, .single⟩, ⟨9, 0, .uncorrectable⟩]⟩ } }

theorem test_witness_ResetLoadsTheStore :
    exec (.powerOnReset ⟨true, []⟩) storedPart = .next (after (.powerOnReset ⟨true, []⟩) storedPart) ∧
      exec (.pinReset ⟨true, []⟩) storedPart = .next (after (.pinReset ⟨true, []⟩) storedPart) ∧
      resets { part with hlc := { part.hlc with transmitter := .sendingResponse [], restartDue := true } }
        (.responseSent ⟨true, []⟩) = true ∧
      (vget part.mst.store.marks 0 false = false) ∧
      (∃ x ∈ storedPart.mst.store.errors ++ [], x.block = 9 ∧ x.error = .uncorrectable) ∧
      (∃ x ∈ storedPart.mst.store.errors ++ [], x.block = 10 ∧ x.error = .single) ∧
      vget storedPart.mst.store.marks 10 false = true ∧ vget storedPart.mst.store.marks 0 false = true := by
  refine ⟨rfl, rfl, rfl, rfl, ?_⟩
  decide +kernel

theorem test_witness_StartBeginsTheWork :
    part.hlc.started = true ∧ State.reset.hlc.started = false ∧ State.reset.hlc.transmitter = .idle ∧
      State.reset.hlc.response = none ∧ State.reset.hlc.notices = [] ∧ State.reset.trc.details = [] :=
  ⟨rfl, rfl, rfl, rfl, rfl, rfl⟩

theorem test_witness_HostFramesReadBack : 3 < 4 ∧ 63 < 64 ∧ (List.replicate 198 (0xC5 : Byte)).length ≤ 198 := by decide +kernel

theorem test_witness_RiserRepliesReadBack :
    255 < 256 ∧ (List.replicate 9 (1 : Byte)).length = NodeType.panel.replyLength := by decide +kernel

theorem test_witness_ReceptionFramesAndBuffers :
    part.hlc.started = true ∧ part.hlc.receiver = .hunting ∧
      { part.hlc with receiver := .receiving }.receiver = .receiving ∧ abandons (.badLength 1) = true ∧
      abandons (.badLength 201) = true ∧ abandons .framingError = true ∧ abandons (.badCrc [2, 1, 1, 0, 0]) = true ∧
      parseHostFrame (hostFrame 0 1 255 []).tail = some ⟨0, 1, 255, []⟩ ∧
      parseHostFrame (hostFrame 3 63 0 [1]).tail = some ⟨3, 63, 0, [1]⟩ := by decide +kernel

theorem test_witness_TransmissionsEnd :
    Serves (serving part 0x02 []) 0x02 (asked 0x02 []) ∧ Serves (serving part 0x02 [1]) 0x02 (asked 0x02 [1]) ∧
      { part.hlc with transmitter := .sendingResponse [1] }.transmitter = .sendingResponse [1] ∧
      part.hlc.restartDue = false ∧ (serving part 0x02 []).hlc.buffer.length ≤ 1 ∧ ¬ busy.hlc.buffer.length ≤ 1 ∧
      { part.hlc with transmitter := .sendingNotice [1] }.transmitter = .sendingNotice [1] ∧
      (serving part 0x3F []).servable = some (asked 0x3F []) ∧ catalogue.contains 0x3F = false ∧
      (serving part 0x3F []).hlc.mode = .hosted := by decide +kernel

theorem test_witness_NoticesQueueAndArbitrate :
    (List.replicate 31 (⟨.link, 0, []⟩ : Notice)).length < 32 ∧ 32 ≤ (List.replicate 32 (⟨.link, 0, []⟩ : Notice)).length ∧
      busy.hlc.transmitter ≠ .idle ∧ part.hlc.transmitter = .idle ∧
      { part.hlc with response := some ⟨1, 0, []⟩ }.response = some ⟨1, 0, []⟩ ∧
      busy.hlc.notices = [⟨.link, 0, []⟩] ∧ busy.hlc.response = none ∧ part.hlc.notices = [] := by decide +kernel

theorem test_witness_SilenceExpiries :
    let at10 := { part with uptime := 10 }
    let at60 := withRegime { part with uptime := 60 } .active
    at10.hlc.started = true ∧ at10.hlc.lastValidAt + shortSilence at10.map ≤ at10.uptime ∧
      part.uptime < part.hlc.lastValidAt + shortSilence part.map ∧ at60.hlc.mode = .hosted ∧
      at60.hlc.lastValidAt + longSilence at60.map ≤ at60.uptime ∧ escalates at60.map = true ∧ at60.rgc.state = .active ∧
      part.rgc.state ≠ .active ∧ part.uptime < part.hlc.lastValidAt + longSilence part.map := by decide +kernel

theorem test_witness_ServedRequestsReturnToHosted :
    let a := { part with hlc := { part.hlc with mode := .autonomous } }
    (serving a 0x3E [255]).servable = some (asked 0x3E [255]) ∧ codeOf .troubleClear = some (asked 0x3E [255]).code ∧
      (serving a 0x3F [1]).servable = some (asked 0x3F [1]) ∧ catalogue.contains (asked 0x3F [1]).code = false := by
  decide +kernel

theorem test_witness_QueriesChangeNothing :
    codeOf .readDoor = some 0x13 ∧ Asks (serving part 0x13 [63]) 0x13 (asked 0x13 [63]) ∧
      Asks (serving part 0x13 [64]) 0x13 (asked 0x13 [64]) ∧
      Asks (serving part 0x05 [10, 128, 128]) 0x05 (asked 0x05 [10, 128, 128]) := by decide +kernel

theorem test_witness_PingAnswers :
    let s := serving { part with hlc := { part.hlc with mode := .autonomous } } 0x01 []
    Asks s 0x01 (asked 0x01 []) ∧ s.hlc.started = true ∧ Asks (serving part 0x01 []) 0x01 (asked 0x01 []) := by
  decide +kernel

theorem test_witness_ReadDoorCarriesTheRecord :
    Asks (serving part 0x13 [63]) 0x13 (asked 0x13 [63]) ∧ Asks (serving part 0x13 [64]) 0x13 (asked 0x13 [64]) := by
  decide +kernel

theorem test_witness_ReadStatsReadsThenClears :
    Serves (serving part 0x18 [1]) 0x18 (asked 0x18 [1]) ∧ Serves (serving part 0x18 [254]) 0x18 (asked 0x18 [254]) := by
  decide +kernel

/-- MAP_WRITE of one byte. -/
def oneByte (b o v : Byte) : List Byte := [b, o, 1, v]

theorem test_witness_MapWriteChecksInOrder :
    let s := fun body => serving part 0x04 body
    let r := fun body => asked 0x04 body
    Serves (s (oneByte 10 255 0)) 0x04 (r (oneByte 10 255 0)) ∧
      ¬ byteAt (oneByte 11 0 0) 0 ≤ 10 ∧ ¬ [0, 0].length ≥ 3 ∧
      (withRegime part .alerted).rgc.state ≠ .quiet ∧ part.rgc.state = .quiet ∧ busy.mst.writing ≠ none ∧
      part.mst.writing = none ∧
      firstDuplicate (nodeCandidates (mapWritten part.map 7 0 ((oneByte 7 0 5).drop 3))) [] = some 5 := by decide +kernel

theorem test_witness_MapWriteStoresTheFields :
    let body := oneByte 10 255 9
    Serves (serving part 0x04 body) 0x04 (asked 0x04 body) ∧ 3 ≤ body.length ∧ body.length = 3 + byteAt body 2 ∧
      byteAt body 0 ≤ 10 ∧ 1 ≤ (body.drop 3).length ∧ (body.drop 3).length ≤ 128 ∧
      byteAt body 1 + (body.drop 3).length ≤ 256 ∧ part.rgc.state = .quiet ∧ part.mst.writing = none ∧
      firstDuplicate (nodeCandidates (mapWritten part.map 10 255 (body.drop 3))) [] = none := by decide +kernel

theorem test_witness_MapStoreWritesBlockByBlock :
    Serves (serving part 0x06 []) 0x06 (asked 0x06 []) ∧ part.mst.writing = none ∧ busy.hlc.started = true ∧
      busy.mst.writing = some 10 ∧ { busy.mst with writing := some 0 }.writing = some 0 := by decide +kernel

/-- Zone 126 a hoistway of bank 1, zone 125 a lift lobby of floor 31 confirmed by one alarm; car 5 of bank 1. -/
def lifts : State :=
  let m := mapWritten (mapWritten part.map 5 232 [31, 2, 1, 0, 0]) 5 240 [0, 4, 1, 0, 1]
  { part with mst := { part.mst with map := mapWritten m 6 41 [1] } }

/-- A window of a zone that has run out over a recorded condition. -/
def expiring (s : State) (z : Nat) (c : Condition) : State := withZone s z ⟨c, false, .verifying, 1, some 0, 0⟩

/-- The classes of a zone, the evaluations it may come to, and the regimes, fire states and cars that meet it. -/
theorem test_witness_ZoneWindowExpires :
    let s := expiring lifts 127 .alarm
    let u := withZone part 127 ⟨.alarm, false, .verifying, 1, some 1, 0⟩
    s.hlc.started = true ∧ (s.zone 127).eval = .verifying ∧ (s.zone 127).deadline = some 0 ∧ 0 ≤ s.uptime ∧
      (u.zone 127).deadline = some 1 ∧ u.uptime < 1 ∧ (part.zone 128).eval ≠ .verifying ∧
      zoneClass lifts.map 127 = .floorless ∧ zoneClass lifts.map 126 = .machine 1 ∧
      zoneClass lifts.map 125 = .floorZone 31 ∧ zoneKind lifts.map 125 = .liftLobby ∧
      (∀ z ∈ [125, 126, 127], ((after (.zoneWindowExpiry z) (expiring lifts z .alarm)).zone z).eval = .confirmed) ∧
      ((after (.zoneWindowExpiry 125) (expiring lifts 125 .normal)).zone 125).eval = .quiet ∧
      lifts.rgc.state = .quiet ∧ (withRegime lifts .active).rgc.state = .active ∧ (lifts.floor 31).fireState ≠ .alarm ∧
      carPresent lifts.map 5 = true ∧ carBank lifts.map 5 = 1 ∧ (lifts.car 5).state = .inService ∧
      (lifts.car 5).mode = none ∧ (lifts.car 5).shutdownDue = false ∧
      ((after (.zoneWindowExpiry 125) (expiring lifts 125 .alarm)).floor 31).lobbyAlarm = true ∧
      (lifts.floor 31).lobbyAlarm = false := by decide +kernel

/-- The fire states by R18, and the regimes that R24 re-examines, beside the two requests. -/
theorem test_witness_ZoneDisableAndEnable :
    let s := withZone part 127 { confirmedZone with eval := .disabled }
    let v := withRegime (withFloor (expiring lifts 125 .alarm) 31 { Floor.reset with fireState := .preAlarm }) .alerted
    let e := withZone part 0 ⟨.alarm, false, .disabled, 0, none, 0⟩
    let d := after .zoneDisable (serving v 0x20 [125])
    let n := after .zoneEnable (serving e 0x21 [0])
    Serves (serving s 0x20 [127]) 0x20 (asked 0x20 [127]) ∧ (s.zone 127).eval = .disabled ∧
      Serves (serving part 0x20 [128]) 0x20 (asked 0x20 [128]) ∧ (part.zone 127).eval ≠ .disabled ∧
      Serves (serving s 0x21 [127]) 0x21 (asked 0x21 [127]) ∧ Serves (serving part 0x21 [128]) 0x21 (asked 0x21 [128]) ∧
      (v.floor 31).alarmLatch = false ∧ v.rgc.state = .alerted ∧ zoneClass v.map 125 = .floorZone 31 ∧
      (∀ z < 128, ¬ (zoneClass v.map z = .floorZone 31 ∧ (d.zone z).eval = .verifying)) ∧
      (∀ g < 32, ¬ (floorPresent v.map g = true ∧ (d.floor g).fireState = .preAlarm)) ∧ d.rgc.state = .quiet ∧
      (e.floor 1).alarmLatch = false ∧ e.rgc.state = .quiet ∧ zoneClass e.map 0 = .floorZone 1 ∧
      (n.zone 0).eval = .verifying ∧ floorPresent e.map 1 = true ∧
      (n.floor 1).fireState = .preAlarm ∧ n.rgc.state = .alerted := by
  decide +kernel

theorem test_witness_RegimeStartSetsPhases :
    31 < 32 ∧ directExit part.map 0 = true ∧ directExit part.map 31 = false ∧ floorPresent part.map 31 = true ∧
      floorPresent (mapWritten [] 0 0 [31]) 31 = false := by decide +kernel

theorem test_witness_OriginSchedulesFloors :
    let s := withFloor (withFloor part 31 { Floor.reset with phase := .alert }) 30 { Floor.reset with phase := .cleared }
    floorPresent s.map 31 = true ∧ (s.rgc.floor 31).phase = .alert ∧ (s.rgc.floor 30).phase = .cleared ∧
      (s.rgc.floor 29).phase = .none ∧ floorPresent (mapWritten [] 0 0 [31]) 31 = false := by decide +kernel

theorem test_witness_PromotionStopsAtCapacity :
    { Rgc.reset with hold := true, queue := [1] }.hold = true := rfl

theorem test_witness_RegimeClockAndTimers :
    let c := withFloor (withRegime part .active) 31 { Floor.reset with phase := .alert, evacuateAt := 1 }
    let s := withFloor { part with rgc := { part.rgc with state := .active, clock := 59, muteUntil := some 60 } } 31
      { Floor.reset with phase := .evacuate, evacuatingSince := some 0 }
    let early := { s with rgc := { s.rgc with clock := 58 } }
    part.rgc.state.running = false ∧ c.hlc.started = true ∧ c.rgc.state.running = true ∧
      (c.floor 31).evacuateAt ≤ c.rgc.clock + 1 ∧
      Serves (serving s 0x28 [0, 30]) 0x28 (asked 0x28 [0, 30]) ∧ 256 * byteAt [0x03, 0x84] 0 + byteAt [0x03, 0x84] 1 = 900 ∧
      s.rgc.state = .active ∧ part.rgc.state ≠ .active ∧ s.hlc.started = true ∧ s.rgc.muteUntil = some 60 ∧
      60 ≤ s.rgc.clock + 1 ∧ part.rgc.muteUntil = none ∧ clearTime s.map = 60 ∧ floorPresent s.map 31 = true ∧
      (s.floor 31).phase = .evacuate ∧ (s.floor 31).evacuatingSince = some 0 ∧
      min (0 + clearTime s.map) 65535 ≤ s.rgc.clock + 1 ∧ autoGeneralTime s.map = 60 ∧
      autoGeneralTime s.map ≤ s.rgc.clock + 1 ∧ (part.floor 31).phase ≠ .evacuate ∧
      early.rgc.clock + 1 < min (0 + clearTime early.map) 65535 ∧ early.rgc.clock + 1 < autoGeneralTime early.map := by
  decide +kernel

theorem test_witness_GeneralEvacuationEntersGeneral :
    let s := withFloor (withRegime part .active) 31 { Floor.reset with phase := .alert }
    Serves (serving (withRegime part .general) 0x24 []) 0x24 (asked 0x24 []) ∧ s.rgc.state ≠ .general ∧
      floorPresent s.map 31 = true ∧ (s.floor 31).phase = .alert ∧ directExit part.map 0 = true := by decide +kernel

theorem test_witness_HoldAndRelease :
    Serves (serving part 0x25 []) 0x25 (asked 0x25 []) ∧ Serves (serving part 0x26 []) 0x26 (asked 0x26 []) ∧
      part.rgc.state = .quiet ∧ (withRegime part .alerted).rgc.state ≠ .quiet ∧ part.rgc.hold = false ∧
      { part.rgc with hold := true }.hold = true := by decide +kernel

theorem test_witness_FloorClearClears :
    let s := withFloor part 31 { Floor.reset with phase := .evacuate }
    Serves (serving s 0x27 [31]) 0x27 (asked 0x27 [31]) ∧ floorPresent s.map 31 = true ∧
      (s.floor 31).phase = .evacuate ∧ (part.floor 31).phase ≠ .evacuate ∧ floorPresent s.map 32 = false := by
  decide +kernel

theorem test_witness_ResetRegimeFreesAndReturns :
    Serves (serving part 0x29 []) 0x29 (asked 0x29 []) ∧ part.rgc.state = .quiet ∧
      (withRegime part .alerted).rgc.state ≠ .quiet := by decide +kernel

/-- An account whose shared pool of 10 carries 13, with a waiting P0 claim and a claim in the door reserve. -/
def overdrawn : Lbu :=
  { Lbu.reset with claims := [⟨.door 0, 2, 3, some .shared, 0, some 0⟩, ⟨.program .alert, 3, 10, some .shared, 1, some 1⟩,
    ⟨.door 1, 4, 3, some .doorReserve, 2, some 2⟩, ⟨.program .live, 0, 10, none, 3, none⟩] }

theorem test_witness_GrantPassOnlyGrants :
    (overdrawn.claims.map Claim.claimant).Nodup ∧ (busy.lbu.claims.map Claim.claimant).Nodup ∧
      (∃ c ∈ overdrawn.claims, c.source = some .doorReserve) ∧ overdrawn.urgentWaiting = true ∧
      busy.lbu.waitList.head? = some ⟨.program .alert, 3, 10, none, 1, none⟩ ∧
      (busy.lbu.refill ⟨13, 0, 0⟩).used .shared + 10 ≤ 13 ∧ 12 < (busy.lbu.refill ⟨12, 0, 10⟩).used .shared + 10 ∧
      reserveOf 3 = some .audioReserve ∧ (overdrawn.pass ⟨13, 3, 9⟩).1.urgentWaiting = true := by decide +kernel

theorem test_witness_SheddingFollowsTheOrder :
    (overdrawn.claims.map Claim.claimant).Nodup ∧
      (shedShared ⟨10, 3, 0⟩ ⟨overdrawn, [], 0⟩).shed = [.program .alert] ∧
      (shedShared ⟨10, 3, 10⟩ ⟨overdrawn, [], 0⟩).resourced = 1 := by decide +kernel

theorem test_witness_DoorReleaseSetsManual :
    let s := serving part 0x2C [63]
    Serves s 0x2C (asked 0x2C [63]) ∧ doorPresent s.map 63 = true ∧ doorPresent s.map 64 = false ∧ s.rgc.state = .quiet ∧
      (s.door 63).manual = false ∧ (s.door 63).state = .locked ∧ s.nodeLost (.floor 31) = false ∧
      ((withDoor s 63 { Door.reset with manual := true }).door 63).manual = true ∧
      ((withDoor s 63 { Door.reset with state := .relocking }).door 63).state = .relocking ∧
      ((withDoor s 63 { Door.reset with state := .disabled }).door 63).state ∉ [DoorState.locked, .relocking] ∧
      ({ s with rbm := { s.rbm with nodes := [{ NodeEntry.fresh ⟨41, .floor, .floor 31⟩ with state := .lost }] } } :
        State).nodeLost (.floor 31) = true ∧ (withRegime part .alerted).rgc.state ≠ .quiet := by decide +kernel

theorem test_witness_DoorLockEndsDemand :
    let s := serving (withDoor part 63 { Door.reset with state := .released, manual := true }) 0x2D [63]
    Serves s 0x2D (asked 0x2D [63]) ∧ doorPresent s.map 63 = true ∧ (s.floor (63 / 2)).phase = .none ∧
      (s.door 63).manual = true ∧ (s.door 63).state ∈ [DoorState.releasePending, .releasing, .released] ∧
      (part.door 63).manual = false ∧ (part.door 63).state ∈ [DoorState.locked, .disabled] ∧
      ((withFloor s 31 { Floor.reset with phase := .alert }).floor 31).phase ≠ .none ∧ doorPresent s.map 2 = true := by
  decide +kernel

theorem test_witness_DoorDisableAndEnable :
    let s := withDoor part 63 { Door.reset with state := .disabled, manual := true }
    Serves (serving s 0x2E [63]) 0x2E (asked 0x2E [63]) ∧ Serves (serving s 0x2F [63]) 0x2F (asked 0x2F [63]) ∧
      doorPresent s.map 63 = true ∧ (s.door 63).state = .disabled ∧ (part.door 63).state ≠ .disabled ∧
      s.doorDemand 63 ≠ none ∧ s.nodeLost (.floor 31) = false ∧ part.doorDemand 63 = none := by decide +kernel

theorem test_witness_SupervisionTimers :
    let s := withCar (withDoor { part with uptime := 180 } 63 { Door.reset with heldSince := some 120 }) 5
      { Car.reset with state := .lost, recallStarted := some 0 }
    s.hlc.started = true ∧ doorPresent s.map 63 = true ∧ (s.door 63).state ∈ [DoorState.locked, .disabled] ∧
      (s.door 63).held = false ∧ (s.door 63).heldSince = some 120 ∧ 120 + doorOpenTime s.map ≤ s.uptime ∧
      (part.door 63).heldSince = none ∧ carPresent s.map 5 = true ∧
      (s.car 5).state ∈ [CarState.recallIssued, .recalling, .lost] ∧ (s.car 5).late = false ∧
      (s.car 5).recallStarted = some 0 ∧ 0 + recallTime s.map ≤ s.uptime ∧ (part.car 5).recallStarted = none := by
  decide +kernel

theorem test_witness_RecallFloorChoice :
    let s := withFloor part 0 { Floor.reset with lobbyAlarm := true }
    (part.floor (effectivePrimary part.map 1)).lobbyAlarm = false ∧
      (s.floor (effectivePrimary s.map 1)).lobbyAlarm = true ∧ effectiveAlternate s.map 1 = none ∧
      effectiveAlternate (mapWritten s.map 6 49 [31]) 0 = some 31 ∧ (s.floor 31).lobbyAlarm = false ∧
      bankServes s.map 0 1 = true ∧ (s.floor 1).lobbyAlarm = false ∧ (s.floor 1).fireState ≠ .alarm ∧
      (∀ k < 32, bankServes s.map 0 k = true → (s.floor k).lobbyAlarm = false → k = 1) ∧
      (∀ k < 32, bankServes s.map 1 k = false) := by decide +kernel

theorem test_witness_FirefighterGrantAndEnd :
    let s := withCar part 5 { Car.reset with state := .parked, key := some true }
    let u := withCar part 5 { Car.reset with state := .firefighter, mode := some .auto }
    Serves (serving s 0x30 [5]) 0x30 (asked 0x30 [5]) ∧ carPresent s.map 5 = true ∧ carPresent s.map 6 = false ∧
      (s.car 5).state = .parked ∧ carEligible s.map 5 = true ∧ (s.car 5).key = some true ∧
      ((List.range 6).filter fun i => (s.car i).state = .firefighter).length < eligibleCount s.map ∧
      (part.car 5).state ≠ .parked ∧ Serves (serving u 0x31 [5]) 0x31 (asked 0x31 [5]) ∧ (u.car 5).state = .firefighter ∧
      (u.car 5).inAuto = true ∧ ((withCar part 5 { Car.reset with state := .firefighter, mode := some .inspection }).car
        5).inAuto = false := by decide +kernel

theorem test_witness_CarReturnEndsRecall :
    let s := withCar (withCar part 5 { Car.reset with state := .shutDown }) 0 { Car.reset with state := .lost }
    Serves (serving s 0x32 [0xFF]) 0x32 (asked 0x32 [0xFF]) ∧ Serves (serving s 0x32 [5]) 0x32 (asked 0x32 [5]) ∧
      carPresent s.map 5 = true ∧ carPresent s.map 6 = false ∧ s.rgc.state = .quiet ∧
      (s.car 5).state ∉ [CarState.firefighter, .lost] ∧ (s.car 0).state ∈ [CarState.firefighter, .lost] ∧
      carPresent s.map 0 = true ∧ (withRegime part .general).rgc.state ≠ .quiet := by decide +kernel

def playingLive : Program := { Program.reset with state := .playing, givenSet := 1, floorSet := 1, channel := some 5 }

theorem test_witness_LiveSetsItsFloors :
    let s := withProgram part .live playingLive
    Serves (serving part 0x34 [0x80, 0, 0, 0]) 0x34 (asked 0x34 [0x80, 0, 0, 0]) ∧
      (part.program .live).state = .idle ∧ (part.program .live).floorSet = 0 ∧
      setAt [0x80, 0, 0, 0] 0 &&& presentSet part.map ≠ 0 ∧ Serves (serving s 0x35 []) 0x35 (asked 0x35 []) ∧
      Serves (serving part 0x35 []) 0x35 (asked 0x35 []) ∧ (s.program .live).floorSet ≠ 0 ∧
      (s.program .live).state = .playing ∧
      ((withProgram part .live { playingLive with state := .waitingBudget }).program .live).state ∈
        [ProgramState.waitingChannel, .waitingBudget] := by decide +kernel

theorem test_witness_TenantAndTestStart :
    let body : List Byte := [0x80, 0, 0, 0, 15, 20]
    let given := setAt body 0
    let auto := serving { part with hlc := { part.hlc with mode := .autonomous } } 0x36 body
    Serves (serving part 0x36 body) 0x36 (asked 0x36 body) ∧ given &&& presentSet part.map ≠ 0 ∧
      (part.program .tenant).state = .idle ∧ given.getLsbD 31 = true ∧ floorPresent part.map 31 = true ∧
      (part.floor 31).phase = .none ∧ (part.program .tenant).floorSet = 0 ∧
      Serves (serving part 0x37 []) 0x37 (asked 0x37 []) ∧
      ((withProgram part .tenant playingLive).program .tenant).state ≠ .idle ∧ auto.servable = some (asked 0x36 body) ∧
      auto.hlc.mode = .autonomous ∧ Serves (serving part 0x38 (body.take 5)) 0x38 (asked 0x38 (body.take 5)) ∧
      part.rgc.state = .quiet ∧ (part.program .test).state = .idle ∧ (part.program .test).floorSet = 0 ∧
      (∀ c < 6, (part.channel c).holder ≠ some .tenant) ∧ (∀ c < 6, (part.channel c).holder ≠ some .test) ∧
      templateSlot (mapWritten part.map 9 0 [1, 0, 9]) 0 0 = some (.phrase 9) := by
  decide +kernel

/-- Templates 0 to 3 of the witnesses below: PAUSE then PHRASE; PAUSE, ORIGIN_FLOOR, TONE; PAUSE, PAUSE; ORIGIN_FLOOR. -/
def pausing (template repeats : Nat) (played : Bool) : State :=
  let m := mapWritten part.map 9 0 [2, 0x30, 1, 0, 9]
  let m := mapWritten m 9 30 [3, 0x30, 1, 0x20, 0, 0x10, 9]
  let m := mapWritten (mapWritten m 9 60 [2, 0x30, 1, 0x30, 2]) 9 90 [1, 0x20, 0]
  withProgram { part with mst := { part.mst with map := m } } .tenant
    { playingLive with template := some template, played := played, pauseUntil := some 0, repeatsLeft := repeats }

/-- What the next slot is, in each of the forms of the statement: a PHRASE; an ORIGIN_FLOOR without an origin before a
TONE; a PAUSE; a template of one slot that has played nothing; the end of a template behind its last slot; and one that
ends played, at its slot 0, and plays nothing in the repetition that follows. -/
theorem test_witness_PauseEndsInTheNextSlot :
    let slot := fun s : State => templateSlot s.map (s.templateOf .tenant)
    let s := pausing 0 2 true
    s.hlc.started = true ∧ (s.program .tenant).state = .playing ∧ (s.program .tenant).played = true ∧
      (s.program .tenant).pauseUntil = some 0 ∧ 0 ≤ s.uptime ∧ (s.program .tenant).channel = some 5 ∧
      (s.program .tenant).slot = 0 ∧ slot s 0 = some (.pause 1) ∧ slot s 1 = some (.phrase 9) ∧ slot s 2 = none ∧
      s.rgc.latestOrigin = none ∧ slot (pausing 1 2 true) 1 = some .originFloor ∧
      slot (pausing 1 2 true) 2 = some (.tone 9) ∧ slot (pausing 2 2 true) 1 = some (.pause 2) ∧
      slot (pausing 3 2 false) 0 = some .originFloor ∧ slot (pausing 3 2 false) 1 = none ∧
      slot (pausing 3 1 true) 1 = none ∧ endless .tenant = false ∧ ((pausing 3 1 true).program .tenant).repeatsLeft ≤ 1 ∧
      1 < ((pausing 3 2 true).program .tenant).repeatsLeft ∧
      ((pausing 3 3 true).program .tenant).slot = 0 ∧ slot (pausing 3 3 true) (0 + 1) = none ∧
      slot (pausing 3 3 true) 0 = some .originFloor ∧ 1 < 3 - 1 ∧ 3 - 2 ≤ 1 ∧
      ((after (.pauseExpiry .tenant) (pausing 3 3 true)).program .tenant).repeatsLeft = 1 ∧
      ((after (.pauseExpiry .tenant) (pausing 3 2 true)).program .tenant).stopReason = some .completed ∧
      (∀ j ∈ ProgramKind.all, j ≠ .tenant → (s.program j).channel ≠ some 5) ∧
      (part.program .tenant).state ≠ .playing ∧ (s.program .live).pauseUntil = none := by decide +kernel

theorem test_witness_SpeakersFollowPriority :
    let s := withProgram part .live playingLive
    (s.program .live).state = .playing ∧ (s.program .live).channel = some 5 ∧
      (s.program .live).floorSet.getLsbD 0 = true ∧ (part.program .test).state ≠ .playing ∧
      (∀ j : ProgramKind, j ∈ ProgramKind.all → (part.program j).state ≠ .playing) ∧ 31 ∉ (Work.begin s).given ∧
      s.selectorFor 0 ≠ (s.join 0).sent ∧ s.nodeInFlight (.floor 0) = false ∧ s.selectorFor 31 = (s.join 31).sent ∧
      { s with rbm := { s.rbm with nodes := (sortedNodeSet s.map).map NodeEntry.fresh } }.nodeInFlight (.floor 0) = true ∧
      { s with rbm := { s.rbm with nodes := [] } }.entryOf (.floor 0) = none := by decide +kernel

/-- R121: the join of a floor without a node is computed and sent to no node; it is not confirmed. -/
theorem test_join_without_node :
    let s := withProgram { part with rbm := { part.rbm with nodes := [] } } .live playingLive
    let t := ((Work.begin { s with ans := { s.ans with joins := vset s.ans.joins 0 { Join.reset with confirmed := true } } }
      ).compareJoin 0)
    t.join 0 = { Join.reset with desired := .channel 5, sent := .channel 5 } ∧ t.rbm = s.rbm := by decide +kernel

/-- R121, R146, assumption 56: at the cycle start that drops a floor's node the held selector becomes the one sent,
unconfirmed. -/
theorem test_join_node_removed :
    let s := { part with
      mst := { part.mst with map := mapWritten part.map 1 0 [0] }
      ans := { part.ans with joins := vset part.ans.joins 0 { Join.reset with pending := some (.channel 3), confirmed := true } } }
    (after .cycleStart s).join 0 = { Join.reset with sent := .channel 3 } := by decide +kernel

theorem test_witness_PlayerSendsTheHead :
    part.hlc.started = true ∧ part.plp.commands = .stop 0 :: [.stop 1, .stop 2, .stop 3, .stop 4, .stop 5] := by decide +kernel

theorem test_witness_StatusRecordsTheFlags :
    part.hlc.started = true ∧ (1 : Byte).getLsbD 0 = true ∧ part.plp.commands ≠ [] ∧ part.plp.drained = false ∧
      polledPlayer.plp.drained = true := by decide +kernel

theorem test_witness_PhraseTimeoutFaultsTheChannel :
    let s := withChannel (withProgram { polledPlayer with uptime := 60 } .tenant playingLive) 5
      { Channel.reset with state := .held, holder := some .tenant, awaiting := .phrase, issuedAt := some 0 }
    let r : StatusReply := ⟨0x20, 0, 1, 0⟩
    s.plp.commands = [] ∧ (∀ d < 6, d ≠ 5 → (s.channel d).holder ≠ some .tenant) ∧
      (s.channel 5).state ∈ [ChannelState.held, .stopping] ∧ badStatus ⟨0, 0x20, 1, 0⟩ = false ∧
      (0x20 : Byte).getLsbD 5 = true ∧ badStatus ⟨0, 0, 0, 0⟩ = true ∧ s.hlc.started = true ∧ r.ready.getLsbD 0 = true ∧ r.spare ≠ 0xFF ∧ r.busy.getLsbD 5 = true ∧
      (∀ d < 6, r.fault.getLsbD d = false) ∧ (∀ d < 6, d ≠ 5 → (s.channel d).state = .free) ∧
      (s.channel 5).state = .held ∧ (s.channel 5).holder = some .tenant ∧ (s.channel 5).awaiting = .phrase ∧
      (s.channel 5).issuedAt = some 0 ∧ 0 + maxPhraseTime s.map ≤ s.uptime ∧ (s.program .tenant).state = .playing ∧
      ∀ j ∈ ProgramKind.all, j ≠ .tenant → (s.program j).channel ≠ some 5 := by decide +kernel

/-- The third part of the statement, with two phrases in template 0: a phrase completion with a slot to come, one that
ends the last repetition, and a stop completion with and without a reservation. -/
theorem test_witness_PhraseTimeoutFaultsTheChannel_ends :
    let p : Program := { playingLive with template := some 0, repeatsLeft := 1 }
    let held : Channel := { Channel.reset with state := .held, holder := some .tenant, awaiting := .phrase }
    let base : State := { polledPlayer with mst := { part.mst with map := mapWritten part.map 9 0 [2, 0, 8, 0, 9] } }
    let s := withChannel (withProgram base .tenant p) 5 held
    let slot := templateSlot s.map (s.templateOf .tenant)
    let u := withChannel (withProgram base .tenant { p with state := .stopping, floorSet := 0 }) 5
      { held with state := .stopping, awaiting := .stop, reservedFor := some .live }
    badStatus ⟨0, 0, 1, 0⟩ = false ∧ s.plp.commands = [] ∧ (s.channel 5).holder = some .tenant ∧
      (∀ d < 6, d ≠ 5 → (s.channel d).state = .free ∧ (s.channel d).reservedFor = none) ∧
      (∀ j ∈ ProgramKind.all, j ≠ .tenant → (s.program j).channel ≠ some 5) ∧ (s.channel 5).reservedFor = none ∧
      (s.program .tenant).state = .playing ∧ (s.program .tenant).channel = some 5 ∧ slot 1 = some (.phrase 9) ∧
      slot 2 = none ∧ endless .tenant = false ∧ p.repeatsLeft ≤ 1 ∧ endless .alert = true ∧
      (u.channel 5).state = .stopping ∧ (u.program .tenant).state = .stopping ∧ (u.program .tenant).floorSet = 0 ∧
      (u.channel 5).reservedFor = some .live ∧ p.floorSet ≠ 0 := by decide +kernel

theorem test_witness_CollectionLatches :
    busy.trc.keysDistinct ∧ (⟨.nodeLost, 1, true, 0⟩ : Detail) ∈ busy.trc.details ∧ busy.trc.details.length < 64 ∧
      64 ≤ (List.replicate 64 (⟨.nodeLost, 1, true, 0⟩ : Detail)).length := by
  refine ⟨?_, by decide +kernel, by decide +kernel, by decide +kernel⟩
  show List.Pairwise _ _
  decide +kernel

theorem test_witness_MasksAndTroubleClear :
    Serves (serving part 0x3C [7]) 0x3C (asked 0x3C [7]) ∧ Serves (serving part 0x3D [0xFF]) 0x3D (asked 0x3D [0xFF]) ∧
      Serves (serving part 0x3E [8]) 0x3E (asked 0x3E [8]) ∧ Serves (serving part 0x3E [7]) 0x3E (asked 0x3E [7]) ∧
      vget part.trc.markers 7 false = false := by decide +kernel

theorem test_witness_CycleStartTakesTheNodeSet :
    part.hlc.started = true ∧ part.rbm.polling = none ∧
      { part.rbm with polling := some ⟨1, 0, []⟩ }.polling ≠ none := by decide +kernel

def panelEntry : NodeEntry := { NodeEntry.fresh ⟨1, .panel, .panel 0⟩ with state := .missing, misses := 2 }
def polled : State := { part with rbm := ⟨[panelEntry], 7, [], some ⟨1, 7, []⟩⟩ }
def panelReply : NodeReply := ⟨true, false, false, [0, 0, 0, 0, 0, 0, 0, 0, 0]⟩

theorem test_witness_PollsEndByReplyOrMiss :
    polled.hlc.started = true ∧ polled.rbm.polling = some ⟨1, 7, []⟩ ∧ polled.entryAt 1 = some panelEntry ∧
      checkReply 1 .panel (replyFrame 1 .panel panelReply 0) = .good panelReply ∧ checkReply 1 .panel [] = .bad ∧
      checkReply 1 .panel (replyFrame 1 .power ⟨true, false, false, [0, 0]⟩ 0) = .typeWrong := by decide +kernel

def powerPoll : State := { part with rbm := { part.rbm with polling := some ⟨5, 0, []⟩ } }

theorem test_witness_PanelAndPowerRepliesAreTaken :
    let r : NodeReply := ⟨false, false, false, [1, 1]⟩
    polled.hlc.started = true ∧ polled.rbm.polling = some ⟨1, 7, []⟩ ∧ polled.entryAt 1 = some panelEntry ∧
      checkReply 1 .panel (replyFrame 1 .panel panelReply 0) = .good panelReply ∧ panelEntry.owner = .panel 0 ∧
      31 / 32 = 0 ∧ 32 / 32 ≠ 0 ∧ (polled.zone 31).condition ≠ decodeCondition panelReply.payload 31 ∧
      (polled.zone 31).eval = .quiet ∧ decodeCondition [0, 0, 0, 0, 0, 0, 0, 1, 0] 31 = .alarm ∧
      decodeCondition [0, 0, 0, 0, 0, 0, 0, 3, 0] 31 = .isolated ∧
      powerPoll.entryAt 5 = powerPoll.entryOf .power ∧ (powerPoll.entryAt 5).map NodeEntry.owner = some .power ∧
      checkReply 5 .power (replyFrame 5 .power r 0) = .good r ∧ powerPoll.lbu.mode = .battery ∧
      (decodePower r.payload).low = true ∧ (powerPoll.lbu.claims.map Claim.claimant).Nodup := by decide +kernel

theorem test_witness_FloorAndLiftRepliesAreTaken :
    let floor : NodeEntry := { NodeEntry.fresh ⟨41, .floor, .floor 31⟩ with state := .ok }
    let lift : NodeEntry := { NodeEntry.fresh ⟨25, .lift, .car 5⟩ with state := .missing }
    let f : NodeReply := ⟨false, false, false, [1, 3, 0xFF, 0]⟩
    let c : NodeReply := ⟨false, false, false, [0, 0, 0, 0, 0, 1]⟩
    let s := withCar (withDoor { part with rbm := ⟨[lift, floor], 0, [], some ⟨41, 0, []⟩⟩ } 63
      { Door.reset with state := .releasing, desired := .release }) 5
      { Car.reset with state := .recallIssued, target := some 0 }
    let told := decodeCar s.map c.payload
    s.hlc.started = true ∧ s.entryAt 41 = some floor ∧ s.entryAt 25 = some lift ∧
      checkReply 41 .floor (replyFrame 41 .floor f 0) = .good f ∧ checkReply 25 .lift (replyFrame 25 .lift c 0) = .good c ∧
      floor.inFlight = true ∧ f.toggle = floor.outToggle ∧ lift.inFlight = true ∧ doorPresent s.map 63 = true ∧
      (s.door 63).confirmed = false ∧ (s.door 63).pendingDesired = none ∧ s.doorDemand 63 = none ∧
      carPresent s.map 5 = true ∧ (s.car 5).pendingCommand = none ∧ told.position = some 0 ∧ told.motion = some .stopped ∧
      told.door = some .opened ∧ told.applied = some .recall ∧ told.mode = .auto ∧
      (decodeCar s.map [31, 0, 0, 1, 0, 1]).mode ≠ .auto := by decide +kernel

/-- R90: a recall judged from the first reply of a HELD_OUT car back in AUTO is held, since the payload is in flight. -/
theorem test_first_heard_holds_the_recall :
    let lift : NodeEntry := NodeEntry.fresh ⟨25, .lift, .car 5⟩
    let s := withCar { part with rbm := ⟨[lift], 0, [], some ⟨25, 0, []⟩⟩ } 5 { Car.reset with state := .heldOut }
    let t := after (.goodReply (replyFrame 25 .lift ⟨false, false, true, [1, 0, 0, 0, 0, 0]⟩ 0)) s
    (t.car 5).command = .normal ∧ (t.car 5).pendingCommand = some (.recall 0) ∧
      (t.entryAt 25).map NodeEntry.freshMark = some true := by decide +kernel

theorem test_witness_TogglesConfirmAndSlip :
    let ok : NodeEntry := { NodeEntry.fresh ⟨10, .floor, .floor 0⟩ with state := .ok, outToggle := true }
    panelEntry.state = .missing ∧ (NodeEntry.fresh ⟨10, .floor, .floor 0⟩).state = .unknown ∧ ok.inFlight = true ∧
      ok.outToggle = true := by decide +kernel

theorem test_witness_UptimeSecondCounts :
    part.hlc.started = true ∧ { part with uptime := 4294967294 }.uptime < 4294967295 := by decide +kernel

end Sys2Proof.Tests
end

section
/-! PROOFS. Chapter 2: an origin applied to the floor table (R30, R31) and the clearing of a floor by the host (R36). -/

namespace Sys2Proof.Machine

/-! ## The operations of the regime record -/

theorem Rgc.floor_mapFloors (r : Rgc) (p : Nat → Bool) (g : Nat → Floor → Floor) {f : Nat} (hf : f < 32) :
    (r.mapFloors p g).floor f = if p f then g f (r.floor f) else r.floor f :=
  vget_vmapIdx _ _ _ _ hf

@[simp] theorem Rgc.floor_sortQueue (r : Rgc) (f : Nat) : r.sortQueue.floor f = r.floor f := rfl

@[simp] theorem Rgc.mem_queue_sortQueue (r : Rgc) (f : Nat) : f ∈ r.sortQueue.queue ↔ f ∈ r.queue := mem_sortBy _ _ _

/-! ## What an origin offers a floor in ALERT (R31) -/

@[simp] theorem Floor.offered_phase (x : Floor) (c k : Nat) : (x.offered c k).phase = x.phase := by
  unfold Floor.offered
  split
  · rfl
  · split <;> rfl

theorem Floor.offered_evacuateAt (x : Floor) (c k : Nat) : (x.offered c k).evacuateAt = min x.evacuateAt c := by
  unfold Floor.offered
  split
  case isTrue h => exact (Nat.min_eq_right h.le).symm
  case isFalse h =>
    have later : x.evacuateAt ≤ c := Nat.not_lt.mp h
    split <;> exact (Nat.min_eq_left later).symm

theorem Floor.offered_schedRank (x : Floor) (c k : Nat) :
    (x.offered c k).schedRank =
      if c < x.evacuateAt then k else if c = x.evacuateAt then min x.schedRank k else x.schedRank := by
  unfold Floor.offered
  split
  · rfl
  · split <;> rfl

/-- The floor above the origin has rank 0 by either reading, so the ranks count from the second floor above. -/
theorem originRank_eq (o f : Nat) : originRank o f = if o + 2 ≤ f then f - o - 1 else o - f := by
  unfold originRank
  split <;> split <;> omega

/-! ## What an origin does to each floor and to the queue (R30) -/

theorem Rgc.originMoves_iff (m : Memory) (r : Rgc) (o f : Nat) :
    r.originMoves m o f = true ↔
      (f = o ∨ f = o + 1) ∧ floorPresent m f = true ∧ (r.floor f).phase ≠ .evacuate ∧ (r.floor f).phase ≠ .cleared := by
  simp only [Rgc.originMoves, Bool.and_eq_true, Bool.or_eq_true, decide_eq_true_eq, and_assoc]

/-- R30: the regime record once the origin's own floors are in EVACUATE, before any schedule is compared. -/
def Rgc.originMoved (m : Memory) (o : Nat) (r : Rgc) : Rgc :=
  r.mapFloors (r.originMoves m o) fun _ x => x.evacuate .origin r.clock

theorem Rgc.floor_originMoved (m : Memory) (r : Rgc) (o : Nat) {f : Nat} (hf : f < 32) :
    (r.originMoved m o).floor f =
      if r.originMoves m o f then (r.floor f).evacuate .origin r.clock else r.floor f :=
  r.floor_mapFloors _ _ hf

theorem Rgc.floor_origin_eq_offered (m : Memory) (r : Rgc) (o : Nat) {f : Nat} (hf : f < 32) :
    (r.origin m o).floor f =
      if floorPresent m f && ((r.originMoved m o).floor f).phase = .alert then
        ((r.originMoved m o).floor f).offered (originCandidate m o r.clock f) (originRank o f)
      else (r.originMoved m o).floor f :=
  Rgc.floor_mapFloors _ _ _ hf

/-- A floor that the origin moves is in EVACUATE when the schedules are compared, so it is offered no time. -/
theorem Rgc.floor_origin (m : Memory) (r : Rgc) (o : Nat) {f : Nat} (hf : f < 32) :
    (r.origin m o).floor f =
      if r.originMoves m o f then (r.floor f).evacuate .origin r.clock
      else if floorPresent m f && (r.floor f).phase = .alert then
        (r.floor f).offered (originCandidate m o r.clock f) (originRank o f)
      else r.floor f := by
  rw [r.floor_origin_eq_offered m o hf, r.floor_originMoved m o hf]
  by_cases h : r.originMoves m o f = true
  · simp [h, Floor.evacuate]
  · simp only [if_neg h]

theorem Rgc.floor_origin_of_moves {m : Memory} {r : Rgc} {o f : Nat} (hf : f < 32) (h : r.originMoves m o f = true) :
    (r.origin m o).floor f = (r.floor f).evacuate .origin r.clock := by
  rw [Rgc.floor_origin m r o hf, if_pos h]

theorem Rgc.floor_origin_of_alert {m : Memory} {r : Rgc} {o f : Nat} (hf : f < 32) (h : r.originMoves m o f ≠ true)
    (hp : floorPresent m f = true) (ha : (r.floor f).phase = .alert) :
    (r.origin m o).floor f = (r.floor f).offered (originCandidate m o r.clock f) (originRank o f) := by
  simp [Rgc.floor_origin m r o hf, h, hp, ha]

theorem Rgc.floor_origin_of_apart {m : Memory} {r : Rgc} {o f : Nat} (hf : f < 32) (h : r.originMoves m o f ≠ true)
    (hn : floorPresent m f = false ∨ (r.floor f).phase ≠ .alert) : (r.origin m o).floor f = r.floor f := by
  rw [Rgc.floor_origin m r o hf, if_neg h, if_neg]
  simp only [Bool.and_eq_true, decide_eq_true_eq, not_and]
  intro hp
  exact hn.resolve_left (by simp [hp])

theorem Rgc.mem_queue_origin (m : Memory) (r : Rgc) (o f : Nat) :
    f ∈ (r.origin m o).queue ↔ f ∈ r.queue ∧ r.originMoves m o f = false := by
  have h : f ∈ (r.origin m o).queue ↔ f ∈ r.queue.filter fun g => !r.originMoves m o g := Rgc.mem_queue_sortQueue _ f
  rw [h, List.mem_filter, Bool.not_eq_true']

/-! ## An event of RGC as a whole (R29, R188) -/

/-- The hand-off reaches doors, programs and cars, never the regime record again. -/
@[simp] theorem Work.rgcEvent_rgc (w : Work) (r : Rgc) (n : News) : (w.rgcEvent r n).rgc = r := by
  have h : Leads { cru := true } (w.setRgc r) (w.rgcEvent r n) := ((Leads.refl _).postRegime _ _).handOff rfl _ _
  exact h.untouched.rgc rfl

end Sys2Proof.Machine

namespace Sys2Proof.Claims

open Sys2Proof Sys2Proof.Machine

/-- What a work of RGC's reach settles into keeps the zones, the store, the uptime and the queue of commands. -/
theorem regimeOnly_of_leads {w : Work} {s t : State} (h : Leads { cru := true, rgc := true } (Work.begin s) w)
    (ht : { t with trc := w.trc, hlc := w.hlc } = w.toState) : RegimeOnly s t := by
  have u := h.untouched
  have uptime : t.uptime = s.uptime := (congrArg State.uptime ht).trans (u.uptime rfl)
  have zev : t.zev = s.zev := (congrArg State.zev ht).trans (u.zev rfl)
  have mst : t.mst = s.mst := (congrArg State.mst ht).trans (u.mst rfl)
  have pending : t.pending = s.pending := (congrArg State.pending ht).trans u.pending
  unfold RegimeOnly
  rw [uptime, zev, mst, pending]

/-- A served request whose rule is an event of RGC: it is answered, nothing but what such an event reaches changes, and
the regime record is the one that the rule gives. -/
theorem serve_rgcEvent {s : State} {req : Request} {code : Nat} {ok : List Byte → Bool} {rule : Work → List Byte → Answer}
    {r : Rgc} {n : News} {result : Result} {fields : List Byte} (hs : Serves s code req) (hl : ok req.body = true)
    (hr : rule (Work.begin s) req.body = ⟨(Work.begin s).rgcEvent r n, result, fields⟩) :
    Done s (s.serve code ok rule) req result fields ∧ RegimeOnly s (s.serve code ok rule) ∧
      (s.serve code ok rule).rgc = r := by
  obtain ⟨servable, hcode, hosted⟩ := hs
  have leads : Leads { cru := true, rgc := true } (Work.begin s) ((Work.begin s).rgcEvent r n) :=
    (Leads.refl _).rgcEvent rfl rfl _ _
  rw [serve_served servable hcode]
  obtain ⟨done, rest⟩ := answer_done hosted hl hr leads rfl
  exact ⟨done, regimeOnly_of_leads leads rest, (congrArg State.rgc rest).trans (Work.rgcEvent_rgc _ _ _)⟩

/-- A served request of its own length whose rule does nothing is answered, and nothing else changes. -/
theorem serve_plain {s : State} {req : Request} {code : Nat} {ok : List Byte → Bool} {rule : Work → List Byte → Answer}
    {result : Result} {fields : List Byte} (hs : Serves s code req) (hl : ok req.body = true)
    (hr : rule (Work.begin s) req.body = ⟨Work.begin s, result, fields⟩) :
    s.serve code ok rule = answered s req result fields := by
  obtain ⟨servable, hcode, hosted⟩ := hs
  rw [serve_served servable hcode, answer_checked_plain hosted hl hr]

/-! ## The rule of FLOOR_CLEAR, case by case (R36) -/

theorem exec_floorClear (s : State) :
    exec .floorClear s = .next (s.serve 0x27 (lengthIs 1) fun w body => floorClearRule w (byteAt body 0)) := rfl

theorem floorClearRule_absent {w : Work} {f : Nat} (h : floorPresent w.map f = false) :
    floorClearRule w f = ⟨w, .refusedRange, []⟩ := by
  simp [floorClearRule, h, Answer.refuse]

theorem floorClearRule_other_phase {w : Work} {f : Nat} (h : floorPresent w.map f = true)
    (hp : (w.floor f).phase ≠ .evacuate) : floorClearRule w f = ⟨w, .refusedState, []⟩ := by
  simp [floorClearRule, h, hp, Answer.refuse]

theorem floorClearRule_clears {w : Work} {f : Nat} (h : floorPresent w.map f = true)
    (hp : (w.floor f).phase = .evacuate) :
    floorClearRule w f = ⟨w.rgcEvent (w.rgc.clearFloor w.map f .host) {}, .ok, []⟩ := by
  simp [floorClearRule, h, hp]

/-! ## The obligations -/

/-- Settles O29: each floor is one that the origin moves, one in ALERT that it offers a time, or one that it leaves. -/
theorem originSchedulesFloors : Obligations.OriginSchedulesFloors := by
  intro m r o f hf x y rank candidate
  have hrank : originRank o f = rank := originRank_eq o f
  have hcandidate : originCandidate m o r.clock f = candidate := by
    rw [originCandidate, hrank]
  have unmoved (h : f ≠ o) (h' : f ≠ o + 1) : r.originMoves m o f ≠ true := fun k =>
    ((r.originMoves_iff m o f).mp k).1.elim h h'
  refine ⟨fun hof hp => ⟨fun hphase => ?_, fun hphase => ?_⟩, fun h h' hp ha => ?_, fun hn h h' => ?_,
    rfl, rfl, rfl, rfl, rfl⟩
  · refine Rgc.floor_origin_of_apart hf (fun k => ?_) (.inr fun ha => ?_)
    · obtain ⟨-, -, hevacuate, hcleared⟩ := (r.originMoves_iff m o f).mp k
      exact hphase.elim hevacuate hcleared
    · rcases hphase with e | e <;> cases ha.symm.trans e
  · have moves : r.originMoves m o f = true := by
      refine (r.originMoves_iff m o f).mpr ⟨hof, hp, fun e => ?_, fun e => ?_⟩ <;>
        rcases hphase with k | k <;> cases e.symm.trans k
    refine ⟨Rgc.floor_origin_of_moves hf moves, fun hq => ?_⟩
    simp [((r.mem_queue_origin m o f).mp hq).2] at moves
  · have hy : y = x.offered candidate rank := by
      rw [← hrank, ← hcandidate]
      exact Rgc.floor_origin_of_alert hf (unmoved h h') hp ha
    rw [hy]
    exact ⟨(x.offered_phase _ _).trans ha, x.offered_evacuateAt _ _, x.offered_schedRank _ _⟩
  · exact Rgc.floor_origin_of_apart hf (unmoved h h') hn

/-- Settles O35, by the three cases of the rule. -/
theorem floorClearClears : Obligations.FloorClearClears := by
  intro s req f hs hbody
  have length : lengthIs 1 req.body = true := by rw [hbody]; rfl
  have index : byteAt req.body 0 = f.toNat := by rw [hbody]; rfl
  rw [exec_floorClear]
  refine ⟨fun absent => ?_, fun present other => ?_, fun present evacuating => ?_⟩
  · rw [serve_plain hs length (by rw [index]; exact floorClearRule_absent absent)]
  · rw [serve_plain hs length (by rw [index]; exact floorClearRule_other_phase present other)]
  · exact ⟨_, rfl, serve_rgcEvent hs length (by rw [index]; exact floorClearRule_clears present evacuating)⟩

end Sys2Proof.Claims
end

section
/-! PROOFS. Chapter 4: the end of a door's demand (R72) and what follows it to the end of its event, with the lock of a
door under manual release (R77). -/

namespace Sys2Proof.Machine

/-! ## The claimants of the account (R51) -/

theorem Lbu.has_congr {l m : Lbu} (h : m.claims.map Claim.claimant = l.claims.map Claim.claimant) (who : Claimant) :
    m.has who = l.has who := by
  have e (k : Lbu) : k.has who = (k.claims.map Claim.claimant).any fun x => x = who := by
    rw [List.any_map]; rfl
  rw [e, e, h]

@[simp] theorem Lbu.has_change (l : Lbu) (j : Claimant) {f : Claim → Claim} (hf : Claim.Keeps f) (who : Claimant) :
    (l.change j f).has who = l.has who :=
  Lbu.has_congr (l.claimants_change j hf) who

theorem Lbu.has_drop (l : Lbu) (j who : Claimant) : (l.drop j).has who = (decide (who ≠ j) && l.has who) := by
  rw [Bool.eq_iff_iff]
  simp only [Lbu.has, Lbu.drop, List.any_filter, List.any_eq_true, Bool.and_eq_true, decide_eq_true_eq]
  constructor
  · rintro ⟨c, hc, hj, rfl⟩
    exact ⟨hj, c, hc, rfl⟩
  · rintro ⟨hj, c, hc, rfl⟩
    exact ⟨c, hc, hj, rfl⟩

theorem Lbu.has_place_ne (l : Lbu) {j who : Claimant} (h : j ≠ who) (level cost : Nat) :
    (l.place j level cost).has who = l.has who := by
  unfold Lbu.place
  split
  · rfl
  · simp [Lbu.has, h]

theorem refillOne_has (cap : Capacity) (u : Bool) (l : Lbu) (c : Claim) (who : Claimant) :
    (refillOne cap u l c).has who = l.has who := by
  unfold refillOne
  split
  · exact l.has_change _ (Claim.keeps_source _) who
  · rfl

theorem scanOne_has (cap : Capacity) (acc : Lbu × List Claimant) (c : Claim) (who : Claimant) :
    (scanOne cap acc c).1.has who = acc.1.has who := by
  unfold scanOne
  split
  · exact acc.1.has_change _ (Claim.keeps_grant _ _) who
  · rfl

/-- R55: a grant pass moves claims between the sources, and neither places nor returns one. -/
@[simp] theorem Lbu.has_pass (l : Lbu) (cap : Capacity) (who : Claimant) : (l.pass cap).1.has who = l.has who := by
  have refill : (l.refill cap).has who = l.has who :=
    List.foldlRecOn (motive := fun m : Lbu => m.has who = l.has who) _ _ rfl
      fun m hm c _ => (refillOne_has cap _ m c who).trans hm
  exact List.foldlRecOn (motive := fun acc : Lbu × List Claimant => acc.1.has who = l.has who) _ _ refill
    fun acc hacc c _ => (scanOne_has cap acc c who).trans hacc

/-! ## A door's record -/

/-- R68: outside a regime only a manual release is a demand. -/
theorem State.doorDemand_eq_none (s : State) (d : Nat) :
    s.doorDemand d = none ↔ (s.floor (d / 2)).phase = .none ∧ (s.door d).manual = false := by
  unfold State.doorDemand
  split <;> simp_all

/-- A row of the door table is as it was, or it is the row replaced. -/
theorem Work.door_setDoor (w : Work) (x d : Nat) (r : Door) :
    (w.setDoor x r).door d = w.door d ∨ x = d ∧ (w.setDoor x r).door d = r := by
  by_cases e : x = d
  · subst e
    by_cases bound : x < 64
    · exact .inr ⟨rfl, w.setDoor_door_self x r bound⟩
    · exact .inl (congrArg (vget · x Door.reset) (vset_of_le w.doors x r (Nat.not_lt.mp bound)))
  · exact .inl (w.setDoor_door_ne x d r e)

@[simp] theorem Work.reportChange_toPlace (w : Work) (k : Kind) (n : Nat) (x y : Bool) :
    (w.reportChange k n x y).toPlace = w.toPlace := by
  unfold Work.reportChange
  split <;> rfl

/-- R83, R84: a change of a door's state replaces the door's record by one of that state under the same manual
release; beside notices and conditions it changes nothing else. -/
theorem Work.setDoorState_cases (w : Work) (x : Nat) (st : DoorState) :
    (w.door x).state = st ∧ w.setDoorState x st = w ∨
      ∃ r : Door, r.state = st ∧ r.manual = (w.door x).manual ∧
        (w.setDoorState x st).toState = (w.setDoor x r).toState ∧ (w.setDoorState x st).toPlace = w.toPlace := by
  unfold Work.setDoorState
  dsimp only
  split
  case isTrue same => exact .inl ⟨same, rfl⟩
  case isFalse =>
    refine .inr ⟨_, ?_, ?_, Work.reportChange_toState _ _ _ _ _, Work.reportChange_toPlace _ _ _ _ _⟩ <;> split <;> rfl

/-! ## A door without demand, through the rest of its event (R55, R69, R70, R72) -/

/-- R72: the demand of a door has ended: none stands, the door is relocking or locked, and it neither has a claim nor
stands among those queued for one. -/
def Work.Resting (w : Work) (d : Nat) : Prop :=
  w.doorDemand d = none ∧ (w.door d).state ∈ [.relocking, .locked] ∧ w.lbu.has (.door d) = false ∧ d ∉ w.toPlace

section
variable {w : Work} {d : Nat}

theorem Work.Resting.state (h : w.Resting d) : (w.door d).state ∈ [.relocking, .locked] := by
  obtain ⟨-, state, -, -⟩ := h
  exact state

theorem Work.Resting.manual (h : w.Resting d) : (w.door d).manual = false := by
  obtain ⟨demand, -, -, -⟩ := h
  exact ((w.doorDemand_eq_none d).mp demand).2

theorem Work.Resting.unclaimed (h : w.Resting d) : w.lbu.has (.door d) = false := by
  obtain ⟨-, -, unclaimed, -⟩ := h
  exact unclaimed

theorem Work.Resting.of_same {v : Work} (h : w.Resting d) (hs : v.toState = w.toState) (hq : v.toPlace = w.toPlace) :
    v.Resting d := by
  unfold Work.Resting at *
  rw [hs, hq]
  exact h

theorem Work.Resting.ite {c : Prop} [Decidable c] {u v : Work} (hu : u.Resting d) (hv : v.Resting d) :
    (if c then u else v).Resting d := by
  split
  · exact hu
  · exact hv

theorem Work.Resting.foldl {α : Type} {f : Work → α → Work} (l : List α) (h : w.Resting d)
    (step : ∀ v x, v.Resting d → (f v x).Resting d) : (l.foldl f w).Resting d :=
  List.foldlRecOn (motive := fun v : Work => v.Resting d) _ _ h fun v hv x _ => step v x hv

/-! ### Doors -/

theorem Work.Resting.setDoor (h : w.Resting d) (x : Nat) (r : Door)
    (hr : x = d → r.manual = false ∧ r.state ∈ [.relocking, .locked]) : (w.setDoor x r).Resting d := by
  obtain ⟨demand, state, unclaimed, unqueued⟩ := h
  obtain ⟨phase, manual⟩ := (w.doorDemand_eq_none d).mp demand
  have record : ((w.setDoor x r).door d).manual = false ∧ ((w.setDoor x r).door d).state ∈ [.relocking, .locked] := by
    rcases w.door_setDoor x d r with e | ⟨rfl, e⟩
    · rw [e]; exact ⟨manual, state⟩
    · rw [e]; exact hr rfl
  exact ⟨(State.doorDemand_eq_none _ d).mpr ⟨phase, record.1⟩, record.2, unclaimed, unqueued⟩

/-- What leaves a door's state and its manual release may be any door's change. -/
theorem Work.Resting.amendDoor (h : w.Resting d) (x : Nat) (r : Door) (hm : r.manual = (w.door x).manual)
    (hs : r.state = (w.door x).state) : (w.setDoor x r).Resting d :=
  h.setDoor x r fun e => by
    rw [hm, hs, e]
    exact ⟨h.manual, h.state⟩

theorem Work.Resting.setDoorState (h : w.Resting d) (x : Nat) (st : DoorState)
    (hst : x = d → st ∈ [.relocking, .locked]) : (w.setDoorState x st).Resting d := by
  rcases w.setDoorState_cases x st with ⟨-, same⟩ | ⟨r, state, manual, hs, hq⟩
  · rw [same]; exact h
  · have row : (w.setDoor x r).Resting d := h.setDoor x r fun e => by
      rw [manual, state, e]
      exact ⟨h.manual, hst e⟩
    exact row.of_same hs hq

/-- A door in another state than RELOCKING or LOCKED is another door. -/
theorem Work.Resting.ne_of_state (h : w.Resting d) {x : Nat} {st : DoorState} (hx : (w.door x).state = st)
    (hst : st ∉ [.relocking, .locked]) : x ≠ d := by
  rintro rfl
  exact hst (hx ▸ h.state)

theorem Work.Resting.doorGranted (h : w.Resting d) (x : Nat) : (w.doorGranted x).Resting d := by
  unfold Work.doorGranted
  split
  case isTrue pending => exact h.setDoorState x _ fun e => absurd e (h.ne_of_state pending (by decide))
  case isFalse => exact h

theorem Work.Resting.queueDoor (h : w.Resting d) {x : Nat} (hx : x ≠ d) : (w.queueDoor x).Resting d := by
  obtain ⟨demand, state, unclaimed, unqueued⟩ := h.setDoorState x .releasePending fun e => absurd e hx
  refine ⟨demand, state, unclaimed, fun hd => ?_⟩
  rcases List.mem_append.mp hd with old | new
  · exact unqueued old
  · exact hx (List.mem_singleton.mp new).symm

theorem Work.Resting.giveFloor (h : w.Resting d) (f : Nat) : (w.giveFloor f).Resting d := .ite h h

theorem Work.Resting.compareStrike (h : w.Resting d) (x : Nat) : (w.compareStrike x).Resting d := by
  refine .ite ?_ (.ite ?_ (giveFloor ?_ _))
  all_goals exact h.amendDoor x _ rfl rfl

/-- R70: a confirmation that finds the door RELOCKING locks it, because no demand stands to queue it anew. -/
theorem Work.Resting.confirmStep (h : w.Resting d) (x : Nat) : (w.confirmStep x).Resting d := by
  unfold Work.confirmStep
  dsimp only
  split
  case isTrue releasing =>
    exact h.setDoorState x _ fun e => absurd e (h.ne_of_state releasing.1 (by decide))
  case isFalse =>
    split
    case isFalse => exact h
    case isTrue relocking =>
      have amended : (w.setDoor x { w.door x with reRequest := false }).Resting d := h.amendDoor x _ rfl rfl
      split
      case isTrue again =>
        refine amended.queueDoor ?_
        rintro rfl
        obtain ⟨demand, -, -, -⟩ := h
        simp [demand] at again
      case isFalse => exact amended.setDoorState x _ fun _ => by decide

theorem Work.Resting.settleDoor (h : w.Resting d) (x : Nat) : (w.settleDoor x).Resting d :=
  .ite ((h.compareStrike x).confirmStep x) (h.compareStrike x)

/-! ### Programs and the account -/

theorem Work.Resting.setProgram (h : w.Resting d) (k : ProgramKind) (r : Program) : (w.setProgram k r).Resting d :=
  .ite h h

theorem Work.Resting.dropClaim (h : w.Resting d) (who : Claimant) : (w.dropClaim who).Resting d := by
  obtain ⟨demand, state, unclaimed, unqueued⟩ := h
  exact .ite ⟨demand, state, by simp [Lbu.has_drop, Work.owePass, unclaimed], unqueued⟩
    ⟨demand, state, unclaimed, unqueued⟩

theorem Work.Resting.stopProgram (h : w.Resting d) (k : ProgramKind) (why : StopReason) (r : Option ProgramKind) :
    (w.stopProgram k why r).Resting d := by
  unfold Work.stopProgram
  dsimp only
  split <;> exact h.setProgram k _

theorem Work.Resting.completeProgram (h : w.Resting d) (k : ProgramKind) : (w.completeProgram k).Resting d :=
  ((h.stopProgram k _ _).setProgram k _).dropClaim _

theorem Work.Resting.playPhrase (h : w.Resting d) (k : ProgramKind) (n : Nat) : (w.playPhrase k n).Resting d := by
  unfold Work.playPhrase
  dsimp only
  split <;> exact h.setProgram k _

theorem Work.Resting.beginSlot (k : ProgramKind) (n : Nat) :
    ∀ {w : Work} (i : Nat), w.Resting d → (w.beginSlot n k i).Resting d := by
  induction n with
  | zero => exact fun _ h => h
  | succ n ih =>
    intro w i h
    have entered : (w.enterSlot k i).Resting d := h.setProgram k _
    unfold Work.beginSlot
    dsimp only
    split
    · exact entered.playPhrase k _
    · exact entered.playPhrase k _
    · split
      · exact entered.playPhrase k _
      · exact ih _ entered
    · exact h.setProgram k _
    · exact .ite ((h.setProgram k _).completeProgram k) (.ite (ih _ (h.setProgram k _)) (h.setProgram k _))

theorem Work.Resting.programGranted (h : w.Resting d) (k : ProgramKind) : (w.programGranted k).Resting d := by
  unfold Work.programGranted
  dsimp only
  refine .ite (.ite ?_ (beginSlot k _ _ (h.setProgram k _))) (h.dropClaim _)
  split <;> exact h.setProgram k _

theorem Work.Resting.handGrant (h : w.Resting d) (who : Claimant) : (w.handGrant who).Resting d := by
  cases who with
  | door x => exact h.doorGranted x
  | program k => exact h.programGranted k

theorem Work.Resting.setLbu (h : w.Resting d) {l : Lbu} (hl : l.has (.door d) = w.lbu.has (.door d)) :
    (w.setLbu l).Resting d := by
  obtain ⟨demand, state, unclaimed, unqueued⟩ := h
  exact ⟨demand, state, hl.trans unclaimed, unqueued⟩

theorem Work.Resting.grantPass (n : Nat) : ∀ {w : Work}, w.Resting d → (w.grantPass n).Resting d := by
  induction n with
  | zero => exact fun h => h
  | succ n ih =>
    intro w h
    have passed : ((w.setLbu (w.lbu.pass (capacityOf w.map w.lbu.mode)).1).owePass false).Resting d :=
      h.setLbu (w.lbu.has_pass _ _)
    unfold Work.grantPass
    exact passed.foldl _ fun v who hv => .ite (ih (hv.handGrant who)) (hv.handGrant who)

theorem Work.Resting.runDuePass (h : w.Resting d) : w.runDuePass.Resting d := .ite (h.grantPass _) h

/-- R68: the claims placed together are those of the queued doors. -/
theorem Work.Resting.placeDoors (h : w.Resting d) : w.placeDoors.Resting d := by
  unfold Work.placeDoors
  refine .ite h (grantPass passBound ?_)
  obtain ⟨demand, state, unclaimed, unqueued⟩ := h
  refine ⟨demand, state, ?_, List.not_mem_nil⟩
  refine List.foldlRecOn (motive := fun l : Lbu => l.has (.door d) = false) _ _ unclaimed fun l hl x hx => ?_
  have other : Claimant.door x ≠ .door d := by
    rintro ⟨⟩
    simp [unqueued] at hx
  rw [l.has_place_ne other]
  exact hl

/-! ### The end of the event -/

theorem Work.Resting.settleDoors (n : Nat) : ∀ {w : Work}, w.Resting d → (w.settleDoors n).Resting d := by
  induction n with
  | zero => exact fun h => h
  | succ n ih =>
    intro w h
    exact .ite h (ih (placeDoors (foldl (w := w.noneMoved) _ h fun _ x hv => hv.settleDoor x)))

theorem Work.Resting.compareJoin (h : w.Resting d) (f : Nat) : (w.compareJoin f).Resting d :=
  .ite h (.ite h (giveFloor (w := w.setJoin f _) h f))

theorem Work.Resting.settle (h : w.Resting d) : w.settle.Resting d :=
  .ite (foldl (w := (w.settleDoors settleBound).noJoins) _ (h.settleDoors _) fun _ f hv => hv.compareJoin f)
    (h.settleDoors _)

theorem Work.Resting.endEvent (h : w.Resting d) : w.endEvent.Resting d := by
  have doors : w.settle.postDoors.Resting d := h.settle.foldl _ fun _ _ hv => hv
  have programs : w.settle.postDoors.postPrograms.Resting d := doors.foldl _ fun _ _ hv => hv
  have cars : w.settle.postDoors.postPrograms.postCars.Resting d := programs.foldl _ fun _ _ hv => hv
  obtain ⟨demand, state, unclaimed, -⟩ := cars
  exact ⟨demand, state, unclaimed, List.not_mem_nil⟩

end

/-! ## The end of demand, by the door's state (R72) -/

theorem Work.endOfDemand_of_releasing {w : Work} {d : Nat}
    (h : (w.door d).state ∈ [.releasePending, .releasing, .released]) :
    w.endOfDemand d = (w.setDoorState d .relocking).returnClaim (.door d) := by
  unfold Work.endOfDemand
  split <;> simp_all

theorem Work.endOfDemand_of_relocking {w : Work} {d : Nat} (h : (w.door d).state = .relocking) :
    w.endOfDemand d = w.setDoor d { w.door d with reRequest := false } := by
  simp only [Work.endOfDemand, h]

theorem Work.endOfDemand_of_still {w : Work} {d : Nat} (h : (w.door d).state ∈ [.locked, .disabled]) :
    w.endOfDemand d = w := by
  unfold Work.endOfDemand
  split <;> simp_all

theorem Work.resting_dropClaim {w : Work} {d : Nat} (demand : w.doorDemand d = none)
    (state : (w.door d).state ∈ [.relocking, .locked]) (unqueued : d ∉ w.toPlace) :
    (w.dropClaim (.door d)).Resting d := by
  unfold Work.dropClaim
  split
  case isTrue => exact ⟨demand, state, by simp [Lbu.has_drop, Work.owePass], unqueued⟩
  case isFalse unclaimed => exact ⟨demand, state, by simpa using unclaimed, unqueued⟩

/-- A door on its way to release, or released, rests once its demand has ended. -/
theorem Work.resting_endOfDemand {w : Work} {d : Nat} (bound : d < 64) (demand : w.doorDemand d = none)
    (unqueued : d ∉ w.toPlace) (h : (w.door d).state ∈ [.releasePending, .releasing, .released]) :
    (w.endOfDemand d).Resting d := by
  rw [Work.endOfDemand_of_releasing h]
  refine Work.Resting.runDuePass ?_
  rcases w.setDoorState_cases d .relocking with ⟨same, -⟩ | ⟨r, state, manual, hs, hq⟩
  · rw [same] at h
    exact absurd h (by decide)
  · obtain ⟨phase, unreleased⟩ := (w.doorDemand_eq_none d).mp demand
    have record : (w.setDoor d r).door d = r := w.setDoor_door_self d r bound
    refine Work.resting_dropClaim ?_ ?_ (hq ▸ unqueued)
    · rw [hs, State.doorDemand_eq_none, record]
      exact ⟨phase, manual.trans unreleased⟩
    · rw [hs, record, state]
      decide

/-! ## The rule of DOOR_LOCK, case by case (R77) -/

theorem onDoor_absent {rule : Work → Nat → Answer} {w : Work} {d : Nat} (h : doorPresent w.map d = false) :
    onDoor rule w d = ⟨w, .refusedRange, []⟩ := by
  simp [onDoor, h, Answer.refuse]

theorem onDoor_present {rule : Work → Nat → Answer} {w : Work} {d : Nat} (h : doorPresent w.map d = true) :
    onDoor rule w d = rule w d := by
  simp [onDoor, h]

theorem doorPresent_lt {m : Memory} {d : Nat} (h : doorPresent m d = true) : d < 64 := by
  simp only [doorPresent, Bool.and_eq_true, decide_eq_true_eq, and_assoc] at h
  exact h.1

theorem doorLockRule_in_phase {w : Work} {d : Nat} (h : (w.floor (d / 2)).phase ≠ .none) :
    doorLockRule w d = ⟨w, .refusedState, []⟩ := by
  simp [doorLockRule, h, Answer.refuse]

theorem doorLockRule_unreleased {w : Work} {d : Nat} (h : (w.floor (d / 2)).phase = .none)
    (hm : (w.door d).manual = false) : doorLockRule w d = ⟨w, .ok, []⟩ := by
  simp [doorLockRule, Work.lockDoor, h, hm]

/-- R77: a door's manual release cleared, before its demand ends. -/
def Work.clearManual (w : Work) (d : Nat) : Work := w.setDoor d { w.door d with manual := false }

theorem doorLockRule_released {w : Work} {d : Nat} (h : (w.floor (d / 2)).phase = .none)
    (hm : (w.door d).manual = true) :
    doorLockRule w d = ⟨((w.clearManual d).endOfDemand d).endEvent, .ok, []⟩ := by
  simp [doorLockRule, Work.lockDoor, Work.clearManual, h, hm]

theorem Work.door_clearManual (w : Work) {d : Nat} (bound : d < 64) :
    (w.clearManual d).door d = { w.door d with manual := false } :=
  w.setDoor_door_self d _ bound

theorem Work.doorDemand_clearManual (w : Work) {d : Nat} (bound : d < 64) (h : (w.floor (d / 2)).phase = .none) :
    (w.clearManual d).doorDemand d = none :=
  (State.doorDemand_eq_none _ d).mpr ⟨h, by rw [w.door_clearManual bound]⟩

/-! ### The door at the end of the event -/

section
variable {w : Work} {d : Nat}

theorem Work.resting_lock (idle : w.idle) (bound : d < 64) (phase : (w.floor (d / 2)).phase = .none)
    (h : (w.door d).state ∈ [.releasePending, .releasing, .released]) :
    ((w.clearManual d).endOfDemand d).endEvent.Resting d := by
  have unqueued : d ∉ (w.clearManual d).toPlace := by
    obtain ⟨-, -, none, -⟩ := idle
    simp [Work.clearManual, Work.setDoor, none]
  refine (Work.resting_endOfDemand bound (w.doorDemand_clearManual bound phase) unqueued ?_).endEvent
  rw [w.door_clearManual bound]
  exact h

theorem Work.door_lock_of_relocking (idle : w.idle) (bound : d < 64) (h : (w.door d).state = .relocking) :
    ((w.clearManual d).endOfDemand d).endEvent.door d = { w.door d with manual := false, reRequest := false } := by
  have record := w.door_clearManual bound
  rw [Work.endOfDemand_of_relocking (by rw [record]; exact h), Work.endEvent_idle _ (by exact idle),
    Work.setDoor_door_self _ _ _ bound, record]

theorem Work.door_lock_of_still (idle : w.idle) (bound : d < 64) (h : (w.door d).state ∈ [.locked, .disabled]) :
    ((w.clearManual d).endOfDemand d).endEvent.door d = { w.door d with manual := false } := by
  have record := w.door_clearManual bound
  rw [Work.endOfDemand_of_still (by rw [record]; exact h), Work.endEvent_idle _ (by exact idle), record]

theorem Work.manual_lock (idle : w.idle) (bound : d < 64) (phase : (w.floor (d / 2)).phase = .none) :
    (((w.clearManual d).endOfDemand d).endEvent.door d).manual = false := by
  have groups : (w.door d).state ∈ [.releasePending, .releasing, .released] ∨ (w.door d).state = .relocking ∨
      (w.door d).state ∈ [.locked, .disabled] := by
    cases (w.door d).state <;> decide
  rcases groups with releasing | relocking | still
  · exact (Work.resting_lock idle bound phase releasing).manual
  · rw [Work.door_lock_of_relocking idle bound relocking]
  · rw [Work.door_lock_of_still idle bound still]

end

end Sys2Proof.Machine

namespace Sys2Proof.Claims

open Sys2Proof Sys2Proof.Machine

/-- What a work of the least reach settles into changes only what draws on the supply. -/
theorem supplyOnly_of_leads {w : Work} {s t : State} (h : Leads {} (Work.begin s) w)
    (ht : { t with trc := w.trc, hlc := w.hlc } = w.toState) : SupplyOnly s t := by
  have u := h.untouched
  have uptime : t.uptime = s.uptime := (congrArg State.uptime ht).trans (u.uptime rfl)
  have zev : t.zev = s.zev := (congrArg State.zev ht).trans (u.zev rfl)
  have rgc : t.rgc = s.rgc := (congrArg State.rgc ht).trans (u.rgc rfl)
  have cru : t.cru = s.cru := (congrArg State.cru ht).trans (u.cru rfl)
  have mst : t.mst = s.mst := (congrArg State.mst ht).trans (u.mst rfl)
  have pending : t.pending = s.pending := (congrArg State.pending ht).trans u.pending
  unfold SupplyOnly
  rw [uptime, zev, rgc, cru, mst, pending]

/-- A served request whose rule is an event of the least reach: it is answered, nothing but what draws on the supply
changes, and the doors and the account are those that the rule leaves. -/
theorem serve_supplyEvent {s : State} {req : Request} {code : Nat} {ok : List Byte → Bool}
    {rule : Work → List Byte → Answer} {w : Work} {result : Result} {fields : List Byte} (hs : Serves s code req)
    (hl : ok req.body = true) (hr : rule (Work.begin s) req.body = ⟨w, result, fields⟩)
    (leads : Leads {} (Work.begin s) w) :
    Done s (s.serve code ok rule) req result fields ∧ SupplyOnly s (s.serve code ok rule) ∧
      (s.serve code ok rule).doors = w.doors ∧ (s.serve code ok rule).lbu = w.lbu := by
  obtain ⟨servable, hcode, hosted⟩ := hs
  rw [serve_served servable hcode]
  obtain ⟨done, rest⟩ := answer_done hosted hl hr leads rfl
  exact ⟨done, supplyOnly_of_leads leads rest, (congrArg State.doors rest :), (congrArg State.lbu rest :)⟩

theorem exec_doorLock (s : State) :
    exec .doorLock s = .next (s.serve 0x2D (lengthIs 1) fun w body => onDoor doorLockRule w (byteAt body 0)) := rfl

/-- Settles O40: the two refusals and the door without a manual release change nothing; a door whose manual release is
cleared has no demand left, so nothing in the rest of the event gives it a claim or releases it. -/
theorem doorLockEndsDemand : Obligations.DoorLockEndsDemand := by
  intro s req n hs hbody d
  have length : lengthIs 1 req.body = true := by rw [hbody]; rfl
  have index : byteAt req.body 0 = d := by rw [hbody]; rfl
  have idle : (Work.begin s).idle := ⟨rfl, rfl, rfl, rfl, rfl, rfl, rfl, rfl, rfl, rfl⟩
  have admitted (present : doorPresent s.map d = true) :
      onDoor doorLockRule (Work.begin s) (byteAt req.body 0) = doorLockRule (Work.begin s) d := by
    rw [index]; exact onDoor_present present
  rw [exec_doorLock]
  refine ⟨fun absent => ?_, fun present inPhase => ?_, fun present phase unreleased => ?_,
    fun present phase released => ?_⟩
  · rw [serve_plain hs length (by rw [index]; exact onDoor_absent absent)]
  · rw [serve_plain hs length (by exact (admitted present).trans (doorLockRule_in_phase inPhase))]
  · rw [serve_plain hs length (by exact (admitted present).trans (doorLockRule_unreleased phase unreleased))]
  · have bound : d < 64 := doorPresent_lt present
    have locked : onDoor doorLockRule (Work.begin s) (byteAt req.body 0) =
        ⟨(((Work.begin s).clearManual d).endOfDemand d).endEvent, .ok, []⟩ :=
      (admitted present).trans (doorLockRule_released phase released)
    have leads : Leads {} (Work.begin s) (((Work.begin s).clearManual d).endOfDemand d).endEvent :=
      (((Leads.refl _).setDoor _ _).endOfDemand _).endEvent
    obtain ⟨done, supply, doors, lbu⟩ := serve_supplyEvent
      (rule := fun w body => onDoor doorLockRule w (byteAt body 0)) hs length locked leads
    refine ⟨_, rfl, done, supply, ?_⟩
    unfold State.door
    rw [doors, lbu]
    refine ⟨Work.manual_lock idle bound phase, fun releasing => ?_, fun relocking => ?_, fun still => ?_⟩
    · have resting := Work.resting_lock idle bound phase releasing
      exact ⟨resting.unclaimed, resting.state⟩
    · exact Work.door_lock_of_relocking idle bound relocking
    · exact Work.door_lock_of_still idle bound still

end Sys2Proof.Claims
end

section
/-! PROOFS. The machine as a whole: a step and its queue, the invariant of every step, and what each command leaves alone
(R148, R149, R160, R163, R174; 0.8). -/

namespace Sys2Proof.Machine

/-- Edits seen as an event, so that the laws of events apply to whole commands. -/
theorem Edits.leads {n : Reach} {s t : State} (h : Edits n s t) : Leads n (Work.begin s) (Work.begin t) := h

theorem Edits.untouched {n : Reach} {s t : State} (h : Edits n s t) : Untouched n s t := h.leads.untouched
theorem Edits.inv {n : Reach} {s t : State} (h : Edits n s t) (hs : s.Inv) : t.Inv := h.leads.inv hs

/-- R166: the end of the response of an accepted RESTART resets the part. -/
theorem exec_responseSent_of_resets {i : ResetInputs} {s : State} (h : Claims.resets s (.responseSent i) = true) :
    exec (.responseSent i) s = .next (s.afterReset .restart i) := by
  obtain ⟨due, sending⟩ := Bool.and_eq_true_iff.mp h
  cases sent : s.hlc.transmitter with
  | sendingResponse f => simp [exec, execResponseSent, sent, due]
  | sendingNotice f => simp [sent] at sending
  | idle => simp [sent] at sending

/-- R160, R166: a command that resets the part leaves the state after a reset of some cause. -/
theorem exec_of_resets {c : Instr} {s : State} (h : Claims.resets s c = true) :
    ∃ cause i, exec c s = .next (s.afterReset cause i) := by
  cases c with
  | powerOnReset i => exact ⟨_, _, rfl⟩
  | pinReset i => exact ⟨_, _, rfl⟩
  | responseSent i => exact ⟨_, _, exec_responseSent_of_resets h⟩
  | _ => cases h

/-- What an accepted write and the resets keep as every other command does. -/
theorem exec_inv {c : Instr} {s t : State} (hs : s.Inv) (h : exec c s = .next t) : t.Inv := by
  by_cases hr : Claims.resets s c = true
  · obtain ⟨cause, i, e⟩ := exec_of_resets hr
    cases e.symm.trans h
    exact afterReset_inv hs.2.2.1 cause i
  · by_cases hm : c = .mapWrite
    · subst hm
      obtain ⟨u, e, k⟩ := execMapWrite_cases s
      cases e.symm.trans h
      rcases k with plain | ⟨b, m, -, wf, -, -, k⟩
      · exact plain.inv hs
      · exact k.inv (acceptWrite_inv (w := Work.begin s) hs wf)
    · exact (exec_edits h (by simpa using hr) hm).inv hs

/-! ## The reach of the commands, read off its table -/

theorem reachOf_store {c : Instr} (h : c ≠ .mapStore) (h' : ∀ b, c ≠ .mapStoreBlockDone b) :
    (reachOf c).store = false := by
  cases c with
  | mapStore => exact absurd rfl h
  | mapStoreBlockDone b => exact absurd rfl (h' b)
  | _ => rfl

theorem reachOf_uptime {c : Instr} (h : c ≠ .uptimeSecond) : (reachOf c).uptime = false := by
  cases c with
  | uptimeSecond => exact absurd rfl h
  | _ => rfl

theorem reachOf_noFireCommand {c : Instr} (h : Claims.noFireCommand c = true) :
    (reachOf c).zev = false ∧ (reachOf c).rgc = false := by
  have table : (!Claims.noFireCommand c || (!(reachOf c).zev && !(reachOf c).rgc)) = true := by cases c <;> rfl
  simpa [h] using table

theorem resets_of_noFireCommand {c : Instr} (h : Claims.noFireCommand c = true) (s : State) :
    Claims.resets s c = false := by
  have table : (!Claims.noFireCommand c || !Claims.resets s c) = true := by cases c <;> rfl
  simpa [h] using table

end Sys2Proof.Machine

namespace Sys2Proof.Claims

open Sys2Proof Sys2Proof.Machine

/-- Settles O1, by the two cases of a step. -/
theorem stepTakesTheFront : Obligations.StepTakesTheFront := fun _ _ _ => ⟨rfl, rfl⟩

/-- Settles O4: a step idles, or executes a command on a state that differs in its queue alone. -/
theorem stepKeepsInvariant : Obligations.StepKeepsInvariant := by
  intro s t hs h
  unfold step at h
  split at h
  · cases h; exact hs
  · rename_i rest _
    exact exec_inv (s := { s with pending := rest }) hs h

/-- Settles O3: after reset every collection is empty and the block being written absent. -/
theorem resetMeetsInvariant : Obligations.ResetMeetsInvariant := by
  refine ⟨⟨Nat.zero_le _, List.Pairwise.nil⟩, ⟨Nat.zero_le _, Nat.zero_le _, fun h => ?_, fun h => ?_⟩,
    ⟨Memory.wf_nil, Memory.wf_nil, fun _ e => ?_⟩, ⟨List.nodup_nil, fun _ => Nat.zero_le _⟩⟩
  · rcases h with h | h <;> cases h
  · cases h
  · cases e

/-- Settles O2: resets keep the queue, MAP_WRITE keeps all but the map, and every other command what its reach does not
name. -/
theorem commandsLeaveQueueMapAndUptime : Obligations.CommandsLeaveQueueMapAndUptime := by
  intro c s t h
  by_cases hr : resets s c = true
  · obtain ⟨cause, i, e⟩ := exec_of_resets hr
    cases e.symm.trans h
    exact ⟨rfl, fun no => by simp [no] at hr⟩
  · by_cases hm : c = .mapWrite
    · subst hm
      obtain ⟨queue, uptime, store, writing, -⟩ := execMapWrite_untouched h
      exact ⟨queue, fun _ => ⟨fun no => absurd rfl no, fun _ _ => ⟨store, writing⟩, fun _ => uptime⟩⟩
    · have kept := (exec_edits h (by simpa using hr) hm).untouched
      refine ⟨kept.pending, fun _ => ⟨fun _ => kept.map, fun one many => ?_, fun other => ?_⟩⟩
      · have mst := kept.mst (reachOf_store one many)
        exact ⟨congrArg Mst.store mst, congrArg Mst.writing mst⟩
      · exact kept.uptime (reachOf_uptime other)

/-- Settles O5: none of these commands has the zones or the regime in its reach. -/
theorem otherCommandsKeepFireRecords : Obligations.OtherCommandsKeepFireRecords := by
  intro c s t h hc
  have notWrite : c ≠ .mapWrite := by rintro rfl; cases hc
  obtain ⟨zev, rgc⟩ := reachOf_noFireCommand hc
  have kept := (exec_edits h (resets_of_noFireCommand hc s) notWrite).untouched
  exact ⟨kept.zev zev, kept.rgc rgc⟩

end Sys2Proof.Claims
end

section
/-! PROOFS. The CRC and the frames of both links (R131, R132, R161, R162, 11.1, 11.2). -/

namespace Sys2Proof.Machine

/-! ## The CRC register (11.1) -/

/-- While a register's one byte has not reached the top bit, a shift of the register only moves it. -/
theorem crcShift_shiftLeft {x : BitVec 16} (h : x.toNat < 256) {k : Nat} (hk : k < 8) :
    crcShift (x <<< k) = x <<< (k + 1) := by
  have top : (x <<< k).msb = false := by
    have : x.toNat * 2 ^ k ≤ 255 * 2 ^ 7 :=
      Nat.mul_le_mul (by omega) (Nat.pow_le_pow_right (by decide) (by omega))
    rw [BitVec.msb_eq_decide, BitVec.toNat_shiftLeft, Nat.shiftLeft_eq, Nat.mod_eq_of_lt (by omega)]
    exact decide_eq_false (by omega)
  simp only [crcShift, top, Bool.false_eq_true, if_false, BitVec.shiftLeft_add]

/-- A byte that leaves only the low byte of the register moves it to the high byte. -/
theorem crcByte_of_low {r : BitVec 16} {b : Byte} (h : (r ^^^ (b.setWidth 16 <<< 8)).toNat < 256) :
    crcByte r b = (r ^^^ (b.setWidth 16 <<< 8)) <<< 8 := by
  unfold crcByte
  generalize r ^^^ (b.setWidth 16 <<< 8) = x at h ⊢
  have first : crcShift x = x <<< 1 := by simpa using crcShift_shiftLeft h (k := 0) (by decide)
  rw [first]
  iterate 7 rw [crcShift_shiftLeft h (by decide)]

/-- The two CRC bytes, high byte first, bring any register to 0. -/
theorem crcByte_close (r : BitVec 16) : crcByte (crcByte r (r.extractLsb' 8 8)) (r.extractLsb' 0 8) = 0#16 := by
  have high : r ^^^ ((r.extractLsb' 8 8).setWidth 16 <<< 8) = (r.extractLsb' 0 8).setWidth 16 := by
    ext i hi
    simp only [BitVec.getElem_xor, BitVec.getElem_shiftLeft, BitVec.getElem_setWidth, BitVec.getLsbD_extractLsb']
    by_cases h : i < 8
    · simp [h, hi]
    · have : 8 + (i - 8) = i := by omega
      simp [h, this, show i - 8 < 8 by omega, hi]
  have low : (r.extractLsb' 0 8).setWidth 16 <<< 8 ^^^ ((r.extractLsb' 0 8).setWidth 16 <<< 8) = 0#16 :=
    BitVec.xor_self
  have first : crcByte r (r.extractLsb' 8 8) = (r.extractLsb' 0 8).setWidth 16 <<< 8 := by
    rw [crcByte_of_low, high]
    rw [high, BitVec.toNat_setWidth]
    have := (r.extractLsb' 0 8).isLt
    omega
  rw [first, crcByte_of_low, low]
  · rfl
  · rw [low]; decide

theorem crc16_append (l k : List Byte) : crc16 (l ++ k) = k.foldl crcByte (crc16 l) := List.foldl_append ..

theorem crc16_closed (l : List Byte) : crc16 (l ++ crcBytes l) = 0#16 := by
  rw [crc16_append]
  exact crcByte_close (crc16 l)

theorem crcGood_closed (l : List Byte) : crcGood (l ++ crcBytes l) = true := decide_eq_true (crc16_closed l)

theorem crcBytes_length (l : List Byte) : (crcBytes l).length = 2 := rfl

theorem byte_toNat {n : Nat} (h : n < 256) : (byte n).toNat = n := by
  rw [byte, BitVec.toNat_ofNat, Nat.mod_eq_of_lt h]

/-! ## Riser replies (11.2) -/

theorem NodeType.code_injective {a b : NodeType} (h : a.code = b.code) : a = b := by
  cases a <;> cases b <;> simp_all [NodeType.code]

/-- The control byte of a reply frame. -/
def replyControl (type : NodeType) (toggle fault fresh : Bool) : Nat :=
  128 + 32 * type.code + (if toggle then 16 else 0) + (if fault then 8 else 0) + (if fresh then 4 else 0)

/-- The control byte carries the direction, the three flags and the type. -/
theorem replyControl_fields (type : NodeType) (toggle fault fresh : Bool) :
    let c := byte (replyControl type toggle fault fresh)
    c.getLsbD 7 = true ∧ c.getLsbD 4 = toggle ∧ c.getLsbD 3 = fault ∧ c.getLsbD 2 = fresh ∧
      c.toNat / 32 % 4 = type.code := by
  cases type <;> revert toggle fault fresh <;> decide

theorem NodeType.replyLength_le (t : NodeType) : t.replyLength ≤ 9 := by cases t <;> decide

end Sys2Proof.Machine

namespace Sys2Proof.Claims

open Sys2Proof Sys2Proof.Machine

/-- Settles O11. -/
theorem crcClosesEveryFrame : Obligations.CrcClosesEveryFrame := crc16_closed

/-- Settles O12: LENGTH and the size agree, and the CRC closes at 0. -/
theorem hostFramesReadBack : Obligations.HostFramesReadBack := by
  intro cls code tag body hcls hcode hbody
  have length : (byte (body.length + 2)).toNat = body.length + 2 := byte_toNat (by omega)
  have kind : (byte (64 * cls + code)).toNat = 64 * cls + code := byte_toNat (by omega)
  have good := crcGood_closed (byte (body.length + 2) :: byte (64 * cls + code) :: tag :: body)
  simp only [List.cons_append] at good
  simp only [hostFrame, List.tail_cons, List.cons_append, parseHostFrame, good, length, kind, List.length_cons,
    List.length_append, crcBytes_length]
  rw [if_pos ⟨by omega, by omega, trivial, trivial⟩]
  simp only [Option.some.injEq, HostMessage.mk.injEq, true_and]
  exact ⟨by omega, by omega, List.take_left' (by omega)⟩

/-- Settles O13: the checks of R132 pass up to the node type, which alone decides. -/
theorem riserRepliesReadBack : Obligations.RiserRepliesReadBack := by
  intro address type want r second haddress hlength
  have bound := type.replyLength_le
  obtain ⟨direction, toggle, fault, fresh, code⟩ := replyControl_fields type r.toggle r.fault r.fresh
  have addr : (byte address).toNat = address := byte_toNat haddress
  have length : (byte r.payload.length).toNat = r.payload.length := byte_toNat (by omega)
  have good := crcGood_closed
    (byte address :: byte (replyControl type r.toggle r.fault r.fresh) :: second :: byte r.payload.length :: r.payload)
  simp only [List.cons_append] at good
  have frame : replyFrame address type r second = 0x3A :: byte address :: byte (replyControl type r.toggle r.fault r.fresh) :: second ::
      byte r.payload.length :: (r.payload ++
        crcBytes (byte address :: byte (replyControl type r.toggle r.fault r.fresh) :: second :: byte r.payload.length :: r.payload)) := rfl
  simp only [frame, checkReply, addr, length, direction, good, code, toggle, fault, fresh, List.length_append,
    crcBytes_length]
  by_cases h : want = type
  · subst h
    simp [hlength, show ¬ 40 < want.replyLength by omega, List.take_left' hlength]
  · have : type.code ≠ want.code := fun e => h (NodeType.code_injective e).symm
    simp [h, this, show ¬ 40 < r.payload.length by omega]

end Sys2Proof.Claims
end

section
/-! PROOFS. Chapter 9: the frames received, the responses, the queue of notices and the arbiter, and the queries. -/

namespace Sys2Proof.Machine

/-! ## Events and their ends -/

theorem whenStarted_started {s : State} (h : s.hlc.started = true) (f : Work → Work) :
    s.whenStarted f = (f (Work.begin s)).finish := if_pos h

theorem onEvent_occurs {s : State} {b : Bool} (h : s.hlc.started = true) (hb : b = true) (f : Work → Work) :
    s.onEvent b f = (f (Work.begin s)).finish := by
  rw [State.onEvent, if_pos hb, whenStarted_started h]

theorem onEvent_not {s : State} {b : Bool} (hb : b = false) (f : Work → Work) : s.onEvent b f = s := by
  rw [State.onEvent, if_neg (by simp [hb])]

/-- A link record at the end of a step, but for what the end of a step is made of. -/
theorem Work.finish_hlc_field {α : Type} (w : Work) (p : Hlc → α)
    (h : ∀ (g : Hlc) a b c d e, p { g with notices := a, seq := b, lost := c, response := d, transmitter := e } = p g) :
    p w.finish.hlc = p w.hlc := by
  have k := congrArg p w.finish_settled.link
  rwa [h] at k

/-! ## Posting (R168) -/

theorem Hlc.post_seq (h : Hlc) (k : NoticeKind) (body : List Byte) : (h.post k body).seq = (h.seq + 1) % 256 := by
  unfold Hlc.post; split <;> rfl

theorem Hlc.post_of_room {h : Hlc} (room : h.notices.length < 32) (k : NoticeKind) (body : List Byte) :
    h.post k body = { h with notices := h.notices ++ [⟨k, h.seq, body⟩], seq := (h.seq + 1) % 256 } := if_pos room

theorem Hlc.post_of_full {h : Hlc} (full : 32 ≤ h.notices.length) (k : NoticeKind) (body : List Byte) :
    h.post k body = { h with seq := (h.seq + 1) % 256, lost := true } := if_neg (by omega)

/-! ## The arbiter (R167) -/

theorem Hlc.arbitrate_busy {h : Hlc} (busy : h.transmitter ≠ .idle) : h.arbitrate = h := by
  unfold Hlc.arbitrate
  split
  · rename_i idle; exact absurd idle busy
  · rfl
  · rfl

theorem Hlc.arbitrate_responds {h : Hlc} {r : Response} (idle : h.transmitter = .idle) (hr : h.response = some r) :
    h.arbitrate = { h with response := none, transmitter := .sendingResponse r.frame } := by
  simp only [Hlc.arbitrate, idle, hr]

theorem Hlc.arbitrate_notice {h : Hlc} {n : Notice} {rest : List Notice} (idle : h.transmitter = .idle)
    (hr : h.response = none) (hn : h.notices = n :: rest) :
    h.arbitrate = { h with notices := rest, lost := false, transmitter := .sendingNotice (n.frame h.lost) } := by
  simp only [Hlc.arbitrate, idle, hr, hn]

theorem Hlc.arbitrate_empty {h : Hlc} (idle : h.transmitter = .idle) (hr : h.response = none) (hn : h.notices = []) :
    h.arbitrate = h := by
  simp only [Hlc.arbitrate, idle, hr, hn]

/-! ## Requests and the line -/

/-- A rule that reaches neither the buffer nor the transmitter. -/
def KeepsLine (rule : Work → List Byte → Answer) : Prop :=
  ∀ w body, (rule w body).work.hlc.transmitter = w.hlc.transmitter ∧ (rule w body).work.hlc.buffer = w.hlc.buffer

theorem KeepsLine.of_leads {n : Reach} {rule : Work → List Byte → Answer} (h : ∀ w body, Leads n w (rule w body).work)
    (hn : n.link = false) : KeepsLine rule := fun w body => by
  have kept := (h w body).untouched.link hn
  exact ⟨(congrArg Hlc.transmitter kept :), (congrArg Hlc.buffer kept :)⟩

theorem KeepsLine.checked {ok : List Byte → Bool} {rule : Work → List Byte → Answer} (h : KeepsLine rule) :
    KeepsLine (checked ok rule) := fun w body => by
  unfold Machine.checked
  split
  · exact h w body
  · exact ⟨rfl, rfl⟩

theorem mapWriteRule_keepsLine : KeepsLine mapWriteRule := fun w body => by
  rcases mapWriteRule_work w body with e | ⟨b, m, -, -, -, -, e⟩ <;> rw [e]
  · exact ⟨rfl, rfl⟩
  · obtain ⟨buffer, transmitter⟩ := acceptWrite_link w b m
    exact ⟨transmitter, buffer⟩

/-- A command is the serving of a code: a length check and a rule that reaches neither the buffer nor the transmitter. -/
def ServesBy (c : Instr) (code : Nat) : Prop :=
  ∃ ok rule, (∀ s, exec c s = .next (s.serve code ok rule)) ∧ KeepsLine rule

/-- All that the rule of a request may reach. -/
def Reach.rule : Reach := { cru := true, rgc := true, zev := true, trc := true, store := true }

theorem ServesBy.of_leads {c : Instr} {code : Nat} {ok : List Byte → Bool} {rule : Work → List Byte → Answer}
    (he : ∀ s, exec c s = .next (s.serve code ok rule)) (h : ∀ w body, Leads .rule w (rule w body).work) :
    ServesBy c code := ⟨ok, rule, he, .of_leads h rfl⟩

/-- 9.3.1: every request of the catalogue is the serving of its code. -/
theorem servesBy_code {c : Instr} {code : Nat} (h : Claims.codeOf c = some code) : ServesBy c code := by
  cases c with
  | ping => cases h; exact .of_leads (fun _ => rfl) fun _ _ => .refl _
  | restart => cases h; exact ⟨_, _, fun _ => rfl, fun _ _ => ⟨rfl, rfl⟩⟩
  | mapWrite => cases h; exact ⟨_, _, fun _ => rfl, mapWriteRule_keepsLine⟩
  | mapRead => cases h; exact ⟨_, _, fun _ => rfl, fun w body => by unfold mapReadRule; dsimp only; split <;> exact ⟨rfl, rfl⟩⟩
  | mapStore => cases h; exact .of_leads (fun _ => rfl) fun _ _ => mapStore_leads rfl
  | mapStatus => cases h; exact .of_leads (fun _ => rfl) fun _ _ => .refl _
  | readRegime => cases h; exact .of_leads (fun _ => rfl) fun _ _ => .refl _
  | readFloor => cases h; exact .of_leads (fun _ => rfl) fun _ _ => query_leads _
  | readZone => cases h; exact .of_leads (fun _ => rfl) fun _ _ => query_leads _
  | readDoor => cases h; exact .of_leads (fun _ => rfl) fun _ _ => query_leads _
  | readCar => cases h; exact .of_leads (fun _ => rfl) fun _ _ => query_leads _
  | readProgram =>
    cases h
    refine ⟨_, _, fun _ => rfl, fun w body => ?_⟩
    unfold readProgramRule
    split <;> exact ⟨rfl, rfl⟩
  | readBudget => cases h; exact .of_leads (fun _ => rfl) fun _ _ => query_leads _
  | readTrouble => cases h; exact .of_leads (fun _ => rfl) fun _ _ => query_leads _
  | readStats => cases h; exact .of_leads (fun _ => rfl) fun _ _ => readStats_leads rfl _
  | readNode => cases h; exact .of_leads (fun _ => rfl) fun _ _ => query_leads _
  | zoneDisable => cases h; exact .of_leads (fun _ => rfl) fun _ _ => zoneDisable_leads rfl rfl rfl _
  | zoneEnable => cases h; exact .of_leads (fun _ => rfl) fun _ _ => zoneEnable_leads rfl rfl rfl _
  | generalEvacuation => cases h; exact .of_leads (fun _ => rfl) fun _ _ => general_leads rfl rfl
  | holdExtension => cases h; exact .of_leads (fun _ => rfl) fun _ _ => hold_leads rfl rfl
  | releaseExtension => cases h; exact .of_leads (fun _ => rfl) fun _ _ => release_leads rfl rfl
  | floorClear => cases h; exact .of_leads (fun _ => rfl) fun _ _ => floorClear_leads rfl rfl _
  | alertMute => cases h; exact .of_leads (fun _ => rfl) fun _ _ => mute_leads rfl rfl _
  | resetRegime => cases h; exact .of_leads (fun _ => rfl) fun _ _ => reset_leads rfl rfl rfl
  | doorRelease => cases h; exact .of_leads (fun _ => rfl) fun _ _ => onDoor_leads _ (doorRelease_leads _)
  | doorLock => cases h; exact .of_leads (fun _ => rfl) fun _ _ => onDoor_leads _ (doorLock_leads _)
  | doorDisable => cases h; exact .of_leads (fun _ => rfl) fun _ _ => onDoor_leads _ (doorDisable_leads _)
  | doorEnable => cases h; exact .of_leads (fun _ => rfl) fun _ _ => onDoor_leads _ (doorEnable_leads _)
  | firefighterGrant => cases h; exact .of_leads (fun _ => rfl) fun _ _ => onCar_leads _ (grant_leads rfl _)
  | firefighterEnd => cases h; exact .of_leads (fun _ => rfl) fun _ _ => onCar_leads _ (end_leads rfl _)
  | carReturn => cases h; exact .of_leads (fun _ => rfl) fun _ _ => carReturn_leads rfl _
  | liveStart => cases h; exact .of_leads (fun _ => rfl) fun _ _ => liveStart_leads _
  | liveStop => cases h; exact .of_leads (fun _ => rfl) fun _ _ => liveStop_leads
  | tenantStart => cases h; exact .of_leads (fun _ => rfl) fun _ _ => tenantStart_leads _
  | tenantStop => cases h; exact .of_leads (fun _ => rfl) fun _ _ => tenantStop_leads
  | testStart => cases h; exact .of_leads (fun _ => rfl) fun _ _ => testStart_leads _
  | troubleMask => cases h; exact .of_leads (fun _ => rfl) fun _ _ => onGroups_leads _ fun _ => .setMasks rfl _ _ _
  | troubleUnmask => cases h; exact .of_leads (fun _ => rfl) fun _ _ => onGroups_leads _ fun _ => .setMasks rfl _ _ _
  | troubleClear => cases h; exact .of_leads (fun _ => rfl) fun _ _ => onGroups_leads _ fun _ => .clearTrouble rfl _ _
  | _ => cases h

/-! ## Serving -/

theorem serveWhere_served {s : State} {req : Request} {accepts : Nat → Bool} {rule : Work → List Byte → Answer}
    (hs : s.servable = some req) (ha : accepts req.code = true) : s.serveWhere accepts rule = s.answer req rule := by
  simp only [State.serveWhere, hs, ha, if_true]

/-- R164, R172: a served request of a rule that keeps the line is answered, in either link mode. -/
theorem KeepsLine.responds {s : State} {req : Request} {rule : Work → List Byte → Answer} (h : KeepsLine rule) :
    ∃ r fields, Claims.Responds s (s.answer req rule) req r fields ∧ (s.answer req rule).hlc.mode = .hosted ∧
      (s.answer req rule).hlc.buffer = s.hlc.buffer := by
  obtain ⟨transmitter, buffer⟩ := h (Work.begin s) req.body
  obtain ⟨responds, mode, kept⟩ := answer_responds (s := s) (req := req) (rule := rule) transmitter
  exact ⟨_, _, responds, mode, kept.trans buffer⟩

end Sys2Proof.Machine

namespace Sys2Proof.Claims

open Sys2Proof Sys2Proof.Machine

/-- A served request in HOSTED whose rule hands no condition to TRC: what its rule leaves is answered, as it stands. -/
theorem serve_quiet {s : State} {req : Request} {code : Nat} {ok : List Byte → Bool} {rule : Work → List Byte → Answer}
    {w : Work} {result : Result} {fields : List Byte} (hs : Serves s code req) (hl : ok req.body = true)
    (hr : rule (Work.begin s) req.body = ⟨w, result, fields⟩) (hm : w.hlc.mode = .hosted) (hc : w.conds = []) :
    s.serve code ok rule = answered w.toState req result fields := by
  obtain ⟨servable, hcode, -⟩ := hs
  rw [serve_served servable hcode]
  unfold State.answer checked
  simp only [hl, if_true, hr]
  rw [returnToHosted_hosted _ (by exact hm), Work.finish_plain _ (by exact hc)]
  rfl

/-- A served request of another length than its own is refused with REFUSED_RANGE. -/
theorem serve_bad_length {s : State} {req : Request} {code : Nat} {ok : List Byte → Bool}
    {rule : Work → List Byte → Answer} (hs : Serves s code req) (hl : ok req.body = false) :
    s.serve code ok rule = answered s req .refusedRange [] := by
  obtain ⟨servable, hcode, hosted⟩ := hs
  rw [serve_served servable hcode, answer_checked_bad hosted hl]

/-- Settles O18: every request of the catalogue is the serving of its code, and every rule keeps the line. -/
theorem servedRequestsReturnToHosted : Obligations.ServedRequestsReturnToHosted := by
  intro c s req hs hc
  rcases hc with known | ⟨rfl, unknown⟩
  · obtain ⟨ok, rule, exec_eq, line⟩ := servesBy_code known
    obtain ⟨r, fields, responds, mode, buffer⟩ := line.checked (ok := ok).responds (s := s) (req := req)
    refine ⟨_, r, fields, exec_eq s, ?_⟩
    rw [serve_served hs rfl]
    exact ⟨responds, mode, buffer, fun e => by subst e; cases known⟩
  · have served : exec .unknownRequest s = .next (s.answer req fun w _ => .refuse w .unknownRequest) :=
      congrArg Host.Outcome.next (serveWhere_served hs (by simpa using unknown))
    obtain ⟨responds, mode, buffer⟩ := answer_responds (s := s) (req := req)
      (rule := fun w _ => .refuse w .unknownRequest) rfl
    exact ⟨_, _, _, served, responds, mode, buffer, fun _ => ⟨rfl, rfl⟩⟩

/-! ## Queries -/

/-- What a query makes of a body: its fields, or a refusal. -/
def queryAnswer (s : State) (body : List Byte) (c : Instr) : Answer :=
  match queryFields s body c with
  | some fields => ⟨Work.begin s, .ok, fields⟩
  | none => .refuse (Work.begin s) .refusedRange

/-- A served command whose rule makes of the body what the query makes of it, changes nothing but the link. -/
theorem reads_of_queryAnswer {c : Instr} {code : Nat} {s : State} {req : Request} {ok : List Byte → Bool}
    {rule : Work → List Byte → Answer} (hs : Asks s code req) (he : exec c s = .next (s.serve code ok rule))
    (hr : checked ok rule (Work.begin s) req.body = queryAnswer s req.body c) :
    ∃ t, exec c s = .next t ∧ match queryFields s req.body c with
      | some fields => Reads s t req .ok fields
      | none => Reads s t req .refusedRange [] := by
  obtain ⟨servable, hcode⟩ := hs
  refine ⟨_, he, ?_⟩
  rw [serve_served servable hcode]
  have plain : (checked ok rule (Work.begin s) req.body).work = Work.begin s := by
    rw [hr, queryAnswer]
    split <;> rfl
  have reads := answer_reads (s := s) (req := req) (rule := checked ok rule) plain
  rw [hr, queryAnswer] at reads
  cases h : queryFields s req.body c <;> rw [h] at reads <;> exact reads

/-- A query of one byte that its rule admits by a test. -/
theorem checked_query {s : State} {body : List Byte} {c : Instr} {admits : Nat → Bool} {fields : State → Nat → List Byte}
    (h : queryFields s body c =
      if lengthIs 1 body = true ∧ admits (byteAt body 0) = true then some (fields s (byteAt body 0)) else none) :
    checked (lengthIs 1) (fun w body => query admits fields w (byteAt body 0)) (Work.begin s) body =
      queryAnswer s body c := by
  unfold queryAnswer
  rw [h]
  by_cases length : lengthIs 1 body = true <;> by_cases admitted : admits (byteAt body 0) = true <;>
    simp [checked, query, length, admitted]

/-- A query without a body. -/
theorem checked_empty {s : State} {body : List Byte} {c : Instr} {fields : State → List Byte}
    (h : queryFields s body c = if body = [] then some (fields s) else none) :
    checked (lengthIs 0) (fun w _ => ⟨w, .ok, fields w.toState⟩) (Work.begin s) body = queryAnswer s body c := by
  unfold queryAnswer
  rw [h]
  by_cases empty : body = [] <;> simp [checked, lengthIs, empty]

theorem mapRangeOk_iff (b o n : Nat) : mapRangeOk b o n = true ↔ b ≤ 10 ∧ 1 ≤ n ∧ n ≤ 128 ∧ o + n ≤ 256 := by
  simp [mapRangeOk, and_assoc]

/-- R179: MAP_READ admits the ranges of R175. -/
theorem checked_mapRead (s : State) (body : List Byte) :
    checked (lengthIs 3) mapReadRule (Work.begin s) body = queryAnswer s body .mapRead := by
  unfold queryAnswer queryFields
  by_cases length : body.length = 3
  · simp only [checked, lengthIs, length, decide_true, if_true, mapReadRule, mapRangeOk_iff, true_and]
    split <;> rfl
  · simp [checked, lengthIs, length]

/-- R130: READ_PROGRAM admits the codes of the six kinds. -/
theorem checked_readProgram (s : State) (body : List Byte) :
    checked (lengthIs 1) (fun w body => readProgramRule w (byteAt body 0)) (Work.begin s) body =
      queryAnswer s body .readProgram := by
  unfold queryAnswer queryFields
  by_cases length : body.length = 1
  · cases kind : ProgramKind.ofCode (byteAt body 0) <;> simp [checked, lengthIs, length, readProgramRule, kind]
  · simp [checked, lengthIs, length]

/-- Settles O19: each query's length check and rule make of a body exactly what its fields say, so that it changes
nothing. -/
theorem queriesChangeNothing : Obligations.QueriesChangeNothing := by
  intro c code s req hc hcode hs
  simp only [List.mem_cons, List.not_mem_nil, or_false] at hc
  rcases hc with rfl | rfl | rfl | rfl | rfl | rfl | rfl | rfl | rfl | rfl | rfl <;> cases hcode
  · exact reads_of_queryAnswer hs rfl (checked_mapRead s _)
  · exact reads_of_queryAnswer hs rfl (checked_empty rfl)
  · exact reads_of_queryAnswer hs rfl (checked_empty rfl)
  · exact reads_of_queryAnswer hs rfl (checked_query (by simp [queryFields, lengthIs]))
  · exact reads_of_queryAnswer hs rfl (checked_query (by simp [queryFields, lengthIs]))
  · exact reads_of_queryAnswer hs rfl (checked_query (by simp [queryFields, lengthIs]))
  · exact reads_of_queryAnswer hs rfl (checked_query (by simp [queryFields, lengthIs]))
  · exact reads_of_queryAnswer hs rfl (checked_readProgram s _)
  · exact reads_of_queryAnswer hs rfl (checked_query (by simp [queryFields, lengthIs]))
  · exact reads_of_queryAnswer hs rfl (checked_query (by simp [queryFields, lengthIs]))
  · exact reads_of_queryAnswer hs rfl (checked_query (by simp [queryFields, lengthIs]))

end Sys2Proof.Claims
end

section
/-! PROOFS. Chapter 9, continued: reception (R162, R163, R170), the ends of transmissions (R166, R167), PING (R165), the
statistics (R46), the door query (R85) and START (R169). -/

namespace Sys2Proof.Claims

open Sys2Proof Sys2Proof.Machine

/-! ## Reception -/

/-- An event that changes the receiver alone. -/
theorem setReceiver_event {s : State} {b : Bool} (hs : s.hlc.started = true) (hb : b = true) (r : Receiver) :
    s.onEvent b (fun w => w.setReceiver r) = { s with hlc := ({ s.hlc with receiver := r }).arbitrate } := by
  rw [onEvent_occurs hs hb, Work.finish_plain _ rfl]
  rfl

/-- R162, R163, R170: what a valid frame leaves of the link, before the end of the step. -/
theorem frameArrived_hlc (m : HostMessage) (w : Work) :
    (Work.frameArrived m w).hlc = if m.cls = 0 then
      { w.hlc with
        receiver := .hunting, lastValidAt := w.uptime, hostSilent := false
        buffer := if w.hlc.buffer.length < 2 then w.hlc.buffer ++ [⟨m.code, m.tag, m.body⟩] else w.hlc.buffer }
      else { w.hlc with receiver := .hunting } := by
  have buffered (v : Work) (r : Request) :
      (v.buffer r).hlc =
        { v.hlc with buffer := if v.hlc.buffer.length < 2 then v.hlc.buffer ++ [r] else v.hlc.buffer } := by
    unfold Work.buffer
    split <;> rfl
  have silence (v : Work) : v.restartSilence.hlc = { v.hlc with lastValidAt := v.uptime, hostSilent := false } := by
    unfold Work.restartSilence
    exact congrArg State.hlc (Work.reportChange_toState _ _ _ _ _)
  unfold Work.frameArrived
  split
  · rw [buffered, silence]; rfl
  · rfl

/-- A valid frame changes the link and, in the end of the step, the collection. -/
theorem frameArrived_others (m : HostMessage) (w : Work) :
    { (Work.frameArrived m w).toState with hlc := w.hlc } = w.toState := by
  have silence (v : Work) : { v.restartSilence.toState with hlc := w.hlc } = { v.toState with hlc := w.hlc } := by
    unfold Work.restartSilence
    rw [Work.reportChange_toState]
    rfl
  have buffered (v : Work) (r : Request) : { (v.buffer r).toState with hlc := w.hlc } = { v.toState with hlc := w.hlc } := by
    unfold Work.buffer
    split <;> rfl
  unfold Work.frameArrived
  split
  · rw [buffered, silence]; rfl
  · rfl

theorem exec_requestArrival {s : State} {frame : List Byte} {m : HostMessage} (hs : s.hlc.started = true)
    (hm : parseHostFrame frame = some m) :
    exec (.requestArrival frame) s = .next (Work.frameArrived m (Work.begin s)).finish := by
  simp only [exec, execRequestArrival, hm, whenStarted_started hs]

/-- Settles O14: the receiver's own events hand nothing to TRC; a valid frame changes the link as `frameArrived_hlc`
says, and the end of the step changes none of those records. -/
theorem receptionFramesAndBuffers : Obligations.ReceptionFramesAndBuffers := by
  intro s started
  refine ⟨fun hunting => ?_, fun receiving => ⟨?_, fun f abandoned => ?_⟩, fun frame m parsed => ?_⟩
  · exact congrArg Host.Outcome.next (setReceiver_event started (by simp [hunting]) _)
  · exact congrArg Host.Outcome.next (setReceiver_event started (by simp [receiving]) _)
  · exact congrArg Host.Outcome.next (setReceiver_event started (by simp [receiving, abandoned]) _)
  · have others := Work.finish_others (Work.frameArrived m (Work.begin s))
    refine ⟨_, exec_requestArrival started parsed, ?_, ?_, ?_, ?_, ?_, ?_⟩
    · rw [Work.finish_hlc_field _ Hlc.receiver (fun _ _ _ _ _ _ => rfl), frameArrived_hlc]
      split <;> rfl
    · rw [Work.finish_hlc_field _ Hlc.buffer (fun _ _ _ _ _ _ => rfl), frameArrived_hlc]
      by_cases class0 : m.cls = 0 <;> simp [class0]
    · rw [Work.finish_hlc_field _ Hlc.lastValidAt (fun _ _ _ _ _ _ => rfl), frameArrived_hlc]
      split <;> rfl
    · rw [Work.finish_hlc_field _ Hlc.hostSilent (fun _ _ _ _ _ _ => rfl), frameArrived_hlc]
      split <;> rfl
    · rw [Work.finish_hlc_field _ Hlc.mode (fun _ _ _ _ _ _ => rfl), frameArrived_hlc]
      split <;> rfl
    · have kept := frameArrived_others m (Work.begin s)
      rw [← others] at kept
      have := congrArg (fun u : State => { u with trc := s.trc, hlc := s.hlc }) kept
      exact this

/-! ## The ends of transmissions -/

/-- R167: the end of a response frees its place; behind it another request goes first. -/
theorem responseEnded_eq (h : Hlc) :
    h.responseEnded = if h.buffer.length ≤ 1 then
      ({ h with buffer := h.buffer.tail, transmitter := .idle } : Hlc).arbitrate
      else { h with buffer := h.buffer.tail, transmitter := .idle } := by
  have last : h.buffer.tail = [] ↔ h.buffer.length ≤ 1 := by
    rw [← List.length_eq_zero_iff, List.length_tail]; omega
  simp only [Hlc.responseEnded, last]

/-- Settles O15. -/
theorem transmissionsEnd : Obligations.TransmissionsEnd := by
  intro s req f i
  refine ⟨fun hs empty => ?_, fun hs body => ?_, fun started sending due => ?_, fun started sending => ?_,
    fun hs unknown hosted => ?_⟩
  · exact congrArg Host.Outcome.next (serve_quiet (rule := fun w _ => ⟨w.setHlc { w.hlc with restartDue := true }, .ok, []⟩)
      hs (by simp [lengthIs, empty]) rfl hs.2.2 rfl)
  · exact congrArg Host.Outcome.next (serve_bad_length hs (by simp [lengthIs, body]))
  · intro h
    simp only [exec, execResponseSent, sending]
    rw [if_neg (by simp [due]), if_pos started, responseEnded_eq]
  · simp only [exec, execNoticeSent, sending, whenStarted_started started]
    rw [Work.finish_plain _ rfl]
    rfl
  · have served : exec .unknownRequest s = .next (s.answer req fun w _ => .refuse w .unknownRequest) :=
      congrArg Host.Outcome.next (serveWhere_served hs (by simpa using unknown))
    rw [served, answer_plain hosted rfl]
    rfl

/-- Settles O16. -/
theorem noticesQueueAndArbitrate : Obligations.NoticesQueueAndArbitrate := by
  intro h k body
  refine ⟨h.post_seq k body, fun room => ?_, fun full => ?_, Hlc.arbitrate_busy, fun r idle hr => ?_, Hlc.arbitrate_empty,
    fun n rest idle hr hn => ?_⟩
  · rw [Hlc.post_of_room room]; exact ⟨rfl, rfl⟩
  · rw [Hlc.post_of_full full]; exact ⟨rfl, rfl⟩
  · exact Hlc.arbitrate_responds idle hr
  · exact Hlc.arbitrate_notice idle hr hn

/-! ## PING, READ_DOOR and READ_STATS -/

/-- A served request whose rule does nothing, in either link mode. -/
theorem serve_reads {s : State} {req : Request} {code : Nat} {ok : List Byte → Bool} {rule : Work → List Byte → Answer}
    {result : Result} {fields : List Byte} (hs : Asks s code req) (hl : ok req.body = true)
    (hr : rule (Work.begin s) req.body = ⟨Work.begin s, result, fields⟩) :
    Reads s (s.serve code ok rule) req result fields := by
  obtain ⟨servable, hcode⟩ := hs
  have plain : checked ok rule (Work.begin s) req.body = ⟨Work.begin s, result, fields⟩ := by
    rw [checked, if_pos hl, hr]
  have reads := answer_reads (s := s) (req := req) (rule := checked ok rule) (by rw [plain])
  rw [plain] at reads
  rwa [serve_served servable hcode]

/-- Settles O20: its answer is that of a rule that does nothing; its frame is read back and restarts the supervision. -/
theorem pingAnswers : Obligations.PingAnswers := by
  refine ⟨fun s req hs empty => ?_, fun s tag started => ?_⟩
  · exact ⟨_, rfl, serve_reads (rule := fun w _ => ⟨w, .ok, pingFields w.toState⟩) hs (by simp [lengthIs, empty]) rfl⟩
  · have parsed := hostFramesReadBack 0 0x01 tag [] (by decide) (by decide) (by decide)
    refine ⟨_, exec_requestArrival started parsed, ?_⟩
    rw [Work.finish_hlc_field _ Hlc.lastValidAt (fun _ _ _ _ _ _ => rfl), frameArrived_hlc]
    rfl

theorem claimFields_some (c : Claim) :
    claimFields (some c) = (if c.source = none then [1] else [2]) ++ e8 c.level ++ eOpt8 (c.source.map Source.code) := by
  cases h : c.source <;> simp [claimFields, Claim.waiting, h, e8, byte]

/-- Settles O21. -/
theorem readDoorCarriesTheRecord : Obligations.ReadDoorCarriesTheRecord := by
  intro s req d hs body
  have length : lengthIs 1 req.body = true := by rw [body]; rfl
  have index : byteAt req.body 0 = d.toNat := by rw [body]; rfl
  refine ⟨fun out => ⟨_, rfl, serve_reads hs length ?_⟩, fun inside => ⟨_, rfl, serve_reads hs length ?_⟩⟩
  · simp only [index, query, Answer.refuse]
    rw [if_neg (by simpa using out)]
  · simp only [index, query, decide_eq_true_eq]
    rw [if_pos inside]
    simp only [doorFields, Work.begin_toState]
    cases s.lbu.claimOf (.door d.toNat) with
    | none => rfl
    | some c => rw [claimFields_some]

/-- Settles O22: the fields are those of the part as it stood. -/
theorem readStatsReadsThenClears : Obligations.ReadStatsReadsThenClears := by
  intro s req flags hs body fields
  have length : lengthIs 1 req.body = true := by rw [body]; rfl
  have clear : (byteAt req.body 0).testBit 0 = flags.getLsbD 0 := by rw [body]; rfl
  have served : exec .readStats s = .next (s.serve 0x18 (lengthIs 1) fun w body => readStatsRule w (byteAt body 0)) := rfl
  rw [served]
  refine congrArg Host.Outcome.next ?_
  cases bit : flags.getLsbD 0
  · exact serve_quiet hs length (w := Work.begin s) (by rw [readStatsRule, clear, bit]; rfl) hs.2.2 rfl
  · exact serve_quiet hs length (w := (Work.begin s).clearStats) (by rw [readStatsRule, clear, bit]; rfl) hs.2.2 rfl

end Sys2Proof.Claims
end

section
/-! PROOFS. Chapter 8: the detail collection (R149, R150, R155), its masks and its clearing (R152, R154), and the
conditions of a load (R159, R169). -/

namespace Sys2Proof.Machine

/-! ## Details and their keys -/

theorem Trc.keyed_unique {t : Trc} (h : t.keysDistinct) {k : Kind} {n : Nat} {c d : Detail} (hc : c ∈ t.details)
    (hd : d ∈ t.details) (kc : c.keyed k n = true) (kd : d.keyed k n = true) : c = d := by
  by_contra ne
  have symm : Std.Symm fun a b : Detail => a.keyed b.kind b.subject = false := ⟨fun a b h => by
    rw [← Bool.not_eq_true, Detail.keyed_iff] at h ⊢
    exact fun e => h ⟨e.1.symm, e.2.symm⟩⟩
  have apart := List.Pairwise.forall h hc hd ne
  rw [← Bool.not_eq_true, Detail.keyed_iff] at apart
  obtain ⟨ck, cn⟩ := (c.keyed_iff k n).mp kc
  obtain ⟨dk, dn⟩ := (d.keyed_iff k n).mp kd
  exact apart ⟨ck.trans dk.symm, cn.trans dn.symm⟩

/-- Setting the detail of a key to the state it has already changes nothing. -/
theorem Trc.setActive_same {t : Trc} {k : Kind} {n : Nat} {x : Bool}
    (h : ∀ d ∈ t.details, d.keyed k n = true → d.active = x) : t.setActive k n x = t := by
  have details : t.details.map (fun d => if d.keyed k n then { d with active := x } else d) = t.details := by
    refine (List.map_congr_left fun d hd => ?_).trans (List.map_id _)
    split
    · rw [← h d hd ‹_›]; rfl
    · rfl
  rw [Trc.setActive, details]

/-- The detail a key's position names, and it is the only one of its key. -/
theorem Trc.position_some {t : Trc} {k : Kind} {n i : Nat} (h : t.position k n = some i) :
    ∃ d, t.details[i]? = some d ∧ d ∈ t.details ∧ d.keyed k n = true := by
  obtain ⟨hi, keyed, -⟩ := List.findIdx?_eq_some_iff_getElem.mp h
  exact ⟨t.details[i], List.getElem?_eq_getElem hi, List.getElem_mem hi, keyed⟩

theorem Trc.position_none {t : Trc} {k : Kind} {n : Nat} :
    t.position k n = none ↔ ∀ d ∈ t.details, d.keyed k n = false := by
  simp [Trc.position, List.findIdx?_eq_none_iff]

/-- R149: a key already in the collection has its detail active. -/
theorem Trc.activate_known {t : Trc} (h : t.keysDistinct) {k : Kind} {n : Nat} (now : Nat)
    (known : ∃ d ∈ t.details, d.keyed k n = true) : (t.activate now k n).1 = t.setActive k n true := by
  cases pos : t.position k n with
  | none =>
    obtain ⟨d, hd, keyed⟩ := known
    simp [Trc.position_none.mp pos d hd] at keyed
  | some i =>
    obtain ⟨d, get, hd, keyed⟩ := Trc.position_some pos
    simp only [Trc.activate, pos, get]
    split
    · refine (Trc.setActive_same fun c hc kc => ?_).symm
      rwa [Trc.keyed_unique h hc hd kc keyed]
    · rfl

/-- R149: a new key takes a free place behind the others. -/
theorem Trc.activate_new {t : Trc} {k : Kind} {n : Nat} (now : Nat) (new : ∀ d ∈ t.details, d.keyed k n = false)
    (room : t.details.length < 64) : (t.activate now k n).1 = { t with details := t.details ++ [⟨k, n, true, now⟩] } := by
  simp only [Trc.activate, Trc.position_none.mpr new, room, if_true]

/-- R149: a new key that finds no place leaves its group marked. -/
theorem Trc.activate_full {t : Trc} {k : Kind} {n : Nat} (now : Nat) (new : ∀ d ∈ t.details, d.keyed k n = false)
    (full : 64 ≤ t.details.length) :
    (t.activate now k n).1.details = t.details ∧ vget (t.activate now k n).1.markers k.group.code false = true := by
  have inside : k.group.code < 8 := by cases k.group <;> decide
  simp only [Trc.activate, Trc.position_none.mpr new, if_neg (Nat.not_lt.mpr full)]
  split
  · exact ⟨rfl, ‹_›⟩
  · exact ⟨rfl, vget_vset_self _ _ _ _ inside⟩

/-- R150: the detail of a key, where there is one, is inactive. -/
theorem Trc.inactivate_eq {t : Trc} (h : t.keysDistinct) (k : Kind) (n : Nat) :
    (t.inactivate k n).1 = t.setActive k n false := by
  cases pos : t.position k n with
  | none =>
    simp only [Trc.inactivate, pos]
    exact (Trc.setActive_same fun d hd kd => by simp [Trc.position_none.mp pos d hd] at kd).symm
  | some i =>
    obtain ⟨d, get, hd, keyed⟩ := Trc.position_some pos
    simp only [Trc.inactivate, pos, get]
    split
    · rfl
    · refine (Trc.setActive_same fun c hc kc => ?_).symm
      rw [Trc.keyed_unique h hc hd kc keyed]
      simpa using ‹¬ d.active = true›

@[simp] theorem Trc.activate_masks (t : Trc) (now : Nat) (k : Kind) (n : Nat) :
    (t.activate now k n).1.masks = t.masks := by
  unfold Trc.activate
  repeat' split
  all_goals rfl

@[simp] theorem Trc.inactivate_masks (t : Trc) (k : Kind) (n : Nat) : (t.inactivate k n).1.masks = t.masks := by
  unfold Trc.inactivate
  repeat' split
  all_goals rfl

theorem Group.mem_all (g : Group) : g ∈ Group.all := by cases g <;> decide

theorem Trc.summary_iff (t : Trc) (g : Group) :
    t.summary g = true ↔ vget t.masks g.code false = false ∧ ∃ d ∈ t.details, d.kind.group = g := by
  simp [Trc.summary]

end Sys2Proof.Machine

namespace Sys2Proof.Claims

open Sys2Proof Sys2Proof.Machine

/-- Settles O53: a key is known, new with a free place, or new without one. -/
theorem collectionLatches : Obligations.CollectionLatches := by
  intro t now k n distinct a i
  have setActive (x : Bool) : (t.setActive k n x).details =
      t.details.map fun d => if d.kind = k ∧ d.subject = n then { d with active := x } else d := by
    simp only [Trc.setActive, Detail.keyed_iff]
  have inactive : i = t.setActive k n false := Trc.inactivate_eq distinct k n
  have unkeyed (h : ∀ d ∈ t.details, ¬ (d.kind = k ∧ d.subject = n)) : ∀ d ∈ t.details, d.keyed k n = false :=
    fun d hd => by rw [← Bool.not_eq_true, Detail.keyed_iff]; exact h d hd
  refine ⟨fun ⟨d, hd, key⟩ => ?_, fun new room => ?_, fun new full => ?_, ?_, ?_, Trc.activate_masks _ _ _ _,
    Trc.inactivate_masks _ _ _, t.summary_iff, fun s hs => ?_⟩
  · have active : a = t.setActive k n true := Trc.activate_known distinct now ⟨d, hd, (d.keyed_iff k n).mpr key⟩
    rw [active]
    exact ⟨setActive true, rfl⟩
  · have added : a = _ := Trc.activate_new now (unkeyed new) room
    rw [added]
    exact ⟨rfl, rfl⟩
  · exact Trc.activate_full now (unkeyed new) full
  · rw [inactive]; exact setActive false
  · rw [inactive]; rfl
  · simp only [State.troublePin, List.any_eq_true, hs]
    exact ⟨fun ⟨g, _, h⟩ => ⟨g, h⟩, fun ⟨g, h⟩ => ⟨g, Group.mem_all g, h⟩⟩

end Sys2Proof.Claims
end

section
/-! PROOFS. Chapter 8, continued: the masks (R154), the clearing of a group (R152), the conditions handed at the end of a
step (R151), and START (R159, R169). -/

namespace Sys2Proof.Machine

/-! ## What the end of a step makes of the collection -/

/-- R151: one condition change taken by the collection. -/
def Trc.take (t : Trc) (now : Nat) (c : CondChange) : Trc :=
  (if c.active then t.activate now c.kind c.subject else t.inactivate c.kind c.subject).1

theorem State.takeCondition_trc (s : State) (now : Nat) (c : CondChange) :
    (s.takeCondition now c).trc = s.trc.take now c := by
  unfold State.takeCondition Trc.take
  dsimp only
  split <;> rfl

theorem State.takeCondition_uptime (s : State) (now : Nat) (c : CondChange) :
    (s.takeCondition now c).uptime = s.uptime := by
  unfold State.takeCondition
  dsimp only
  split <;> rfl

theorem foldl_takeCondition_trc (l : List CondChange) (s : State) :
    (l.foldl (fun s c => s.takeCondition s.uptime c) s).trc = l.foldl (fun t c => t.take s.uptime c) s.trc := by
  induction l generalizing s with
  | nil => rfl
  | cons c l ih =>
    rw [List.foldl_cons, ih, List.foldl_cons, State.takeCondition_trc, State.takeCondition_uptime]

/-- The collection at the end of a step has taken the condition changes, in their order. -/
theorem Work.finish_trc (w : Work) : w.finish.trc = w.conds.foldl (fun t c => t.take w.uptime c) w.trc :=
  foldl_takeCondition_trc w.conds w.toState

@[simp] theorem Trc.take_masks (t : Trc) (now : Nat) (c : CondChange) : (t.take now c).masks = t.masks := by
  unfold Trc.take
  split <;> simp

theorem foldl_take_masks (l : List CondChange) (now : Nat) (t : Trc) :
    (l.foldl (fun t c => t.take now c) t).masks = t.masks := by
  induction l generalizing t with
  | nil => rfl
  | cons c l ih => rw [List.foldl_cons, ih, Trc.take_masks]

@[simp] theorem Work.finish_masks (w : Work) : w.finish.trc.masks = w.trc.masks := by
  rw [Work.finish_trc, foldl_take_masks]

/-! ## Groups -/

theorem Group.code_lt (g : Group) : g.code < 8 := by cases g <;> decide

theorem Group.ofCode_code (g : Group) : Group.ofCode g.code = some g := by cases g <;> rfl

theorem Group.code_of_ofCode {n : Nat} {g : Group} (h : Group.ofCode n = some g) : g.code = n := by
  have bound : n < 8 := by
    obtain ⟨hn, -⟩ := List.getElem?_eq_some_iff.mp h
    exact hn
  interval_cases n <;> cases h <;> rfl

/-- R154: the groups a code names. -/
theorem groupScope_of_lt {n : Nat} (h : n < 8) : ∃ g : Group, g.code = n ∧ groupScope n = some [g] := by
  have inAll : n < Group.all.length := h
  refine ⟨Group.all[n], Group.code_of_ofCode (List.getElem?_eq_getElem inAll), ?_⟩
  simp [groupScope, Group.ofCode, List.getElem?_eq_getElem inAll, show n ≠ 255 by omega]

theorem groupScope_all : groupScope 0xFF = some Group.all := rfl

theorem groupScope_none {n : Nat} (h : 8 ≤ n) (h' : n ≠ 0xFF) : groupScope n = none := by
  have outside : Group.all.length ≤ n := h
  simp [groupScope, Group.ofCode, h', outside]

/-- A group of a scope has a code the request names. -/
theorem mem_groupScope {n : Nat} {gs : List Group} (h : groupScope n = some gs) {i : Nat} (hi : i < 8) :
    (∃ g ∈ gs, g.code = i) ↔ n = 0xFF ∨ i = n := by
  by_cases all : n = 0xFF
  · subst all
    cases groupScope_all.symm.trans h
    refine ⟨fun _ => .inl rfl, fun _ => ?_⟩
    obtain ⟨g, code, -⟩ := groupScope_of_lt hi
    exact ⟨g, Group.mem_all g, code⟩
  · by_cases one : n < 8
    · obtain ⟨g, code, scope⟩ := groupScope_of_lt one
      cases scope.symm.trans h
      simp [all, code, eq_comm]
    · rw [groupScope_none (by omega) all] at h
      cases h

/-! ## Masks (R154) -/

/-- The masks after a request: those of the named groups set, every other as it was. -/
theorem vget_masks (gs : List Group) (value : Bool) (v : Vector Bool 8) {i : Nat} (hi : i < 8) :
    vget (gs.foldl (fun v g => vset v g.code value) v) i false =
      if ∃ g ∈ gs, g.code = i then value else vget v i false := by
  induction gs generalizing v with
  | nil => simp
  | cons g gs ih =>
    rw [List.foldl_cons, ih]
    by_cases rest : ∃ g ∈ gs, g.code = i
    · simp [rest]
    · by_cases this : g.code = i
      · simp [rest, this, hi]
      · simp [rest, this]

theorem setMasks_trc (value : Bool) (w : Work) (n : Nat) (gs : List Group) :
    (Work.setMasks value w n gs).trc =
        { w.trc with masks := gs.foldl (fun v g => vset v g.code value) w.trc.masks } ∧
      (Work.setMasks value w n gs).conds = w.conds ∧
      { (Work.setMasks value w n gs).toState with trc := w.trc, hlc := w.hlc } = w.toState := by
  unfold Work.setMasks
  dsimp only
  split
  · rename_i same
    rw [same]
    exact ⟨rfl, rfl, rfl⟩
  · exact ⟨rfl, rfl, rfl⟩

/-! ## Clearing (R152) -/

/-- A clear of one unmarked group other than AUDIO removes its inactive details, and hands nothing to TRC. -/
theorem clearTrouble_unmarked {w : Work} {g : Group} (n : Nat) (audio : g ≠ .audio)
    (unmarked : vget w.trc.markers g.code false = false) :
    (w.clearTrouble n [g]).trc =
        { w.trc with details := w.trc.details.filter fun d => !(d.kind.group.code = g.code && !d.active) } ∧
      (w.clearTrouble n [g]).conds = w.conds ∧
      { (w.clearTrouble n [g]).toState with trc := w.trc, hlc := w.hlc } = w.toState := by
  have none : w.trc.unmarked [g] = [] := by simp [Trc.unmarked, unmarked]
  have kept : w.trc.keptBy [g] = w.trc.details.filter fun d => !(d.kind.group.code = g.code && !d.active) := by
    refine List.filter_congr fun d _ => ?_
    have : d.kind.group.code = g.code ↔ d.kind.group = g := by
      refine ⟨fun e => ?_, fun e => by rw [e]⟩
      have := (Group.ofCode_code d.kind.group).symm.trans ((congrArg Group.ofCode e).trans (Group.ofCode_code g))
      exact Option.some.inj this
    by_cases e : d.kind.group = g <;> simp [this, e]
  have cleared : w.trc.clear [g] =
      { w.trc with details := w.trc.details.filter fun d => !(d.kind.group.code = g.code && !d.active) } := by
    rw [Trc.clear, none, kept]; rfl
  have notAudio : [g].contains Group.audio = false := by simpa using Ne.symm audio
  unfold Work.clearTrouble
  simp only [none, notAudio, List.foldl_nil, Bool.false_eq_true, if_false, cleared]
  split <;> exact ⟨rfl, rfl, rfl⟩

theorem foldl_keeps {α β γ : Type} {f : β → α → β} (p : β → γ) (h : ∀ b a, p (f b a) = p b) (l : List α) (b : β) :
    p (l.foldl f b) = p b := by
  induction l generalizing b with
  | nil => rfl
  | cons a l ih => rw [List.foldl_cons, ih, h]

theorem reReport_masks (w : Work) (g : Group) : (w.reReport g).trc.masks = w.trc.masks :=
  foldl_keeps (fun s : State => s.trc.masks)
    (fun s c => by rw [State.takeCondition_trc, Trc.take_masks]) (w.activeConditions g) w.toState

/-- No clear touches a mask. -/
theorem clearTrouble_masks (w : Work) (n : Nat) (gs : List Group) : (w.clearTrouble n gs).trc.masks = w.trc.masks := by
  have channels (v : Work) : v.returnChannels.endEvent.trc.masks = v.trc.masks :=
    congrArg Trc.masks ((Leads.refl (n := {}) v).returnChannels.endEvent.untouched.trc rfl)
  have reports (v : Work) (hs : List Group) : (hs.foldl Work.reReport v).trc.masks = v.trc.masks :=
    foldl_keeps (fun v : Work => v.trc.masks) reReport_masks hs v
  unfold Work.clearTrouble
  dsimp only
  split
  · rw [channels, reports]
    split <;> rfl
  · rw [reports]
    split <;> rfl

theorem onGroups_named {rule : Work → Nat → List Group → Work} {w : Work} {n : Nat} {gs : List Group}
    (h : groupScope n = some gs) : onGroups rule w n = ⟨rule w n gs, .ok, []⟩ := by
  simp only [onGroups, h]

theorem onGroups_unnamed {rule : Work → Nat → List Group → Work} {w : Work} {n : Nat} (h : groupScope n = none) :
    onGroups rule w n = ⟨w, .refusedRange, []⟩ := by
  simp only [onGroups, h, Answer.refuse]

end Sys2Proof.Machine

namespace Sys2Proof.Claims

open Sys2Proof Sys2Proof.Machine

/-- What settles into a work of a reach without zones, regime, cars, store and uptime. -/
theorem supplyOnly_of_reach {n : Reach} {w : Work} {s t : State} (h : Leads n (Work.begin s) w)
    (hn : n.zev = false ∧ n.rgc = false ∧ n.cru = false ∧ n.store = false ∧ n.uptime = false)
    (ht : { t with trc := w.trc, hlc := w.hlc } = w.toState) : SupplyOnly s t := by
  have u := h.untouched
  obtain ⟨nz, nr, nc, ns, nu⟩ := hn
  have uptime : t.uptime = s.uptime := (congrArg State.uptime ht).trans (u.uptime nu)
  have zev : t.zev = s.zev := (congrArg State.zev ht).trans (u.zev nz)
  have rgc : t.rgc = s.rgc := (congrArg State.rgc ht).trans (u.rgc nr)
  have cru : t.cru = s.cru := (congrArg State.cru ht).trans (u.cru nc)
  have mst : t.mst = s.mst := (congrArg State.mst ht).trans (u.mst ns)
  have pending : t.pending = s.pending := (congrArg State.pending ht).trans u.pending
  unfold SupplyOnly
  rw [uptime, zev, rgc, cru, mst, pending]

/-- A served request of its own length in HOSTED, as the end of its rule's work. -/
theorem serve_eq_finish {s : State} {req : Request} {code : Nat} {ok : List Byte → Bool}
    {rule : Work → List Byte → Answer} {w : Work} {result : Result} {fields : List Byte} (hs : Serves s code req)
    (hl : ok req.body = true) (hr : rule (Work.begin s) req.body = ⟨w, result, fields⟩) (hm : w.hlc.mode = .hosted) :
    s.serve code ok rule = (w.respond req result fields).finish := by
  obtain ⟨servable, hcode, -⟩ := hs
  rw [serve_served servable hcode]
  unfold State.answer checked
  simp only [hl, if_true, hr]
  rw [returnToHosted_hosted _ (by exact hm)]

/-- A served request of its own length in HOSTED whose rule is an event: it is answered, everything but the collection
and the link is as the event leaves it, and the collection has taken the event's conditions. -/
theorem serve_event {n : Reach} {s : State} {req : Request} {code : Nat} {ok : List Byte → Bool}
    {rule : Work → List Byte → Answer} {w : Work} {result : Result} {fields : List Byte} (hs : Serves s code req)
    (hl : ok req.body = true) (hr : rule (Work.begin s) req.body = ⟨w, result, fields⟩)
    (leads : Leads n (Work.begin s) w) (hn : n.link = false) :
    Done s (s.serve code ok rule) req result fields ∧
      { s.serve code ok rule with trc := w.trc, hlc := w.hlc } = w.toState ∧
      (s.serve code ok rule).trc = w.conds.foldl (fun t c => t.take w.uptime c) w.trc := by
  have hosted : w.hlc.mode = .hosted := (congrArg Hlc.mode (leads.untouched.link hn)).trans hs.2.2
  refine ⟨?_, ?_, ?_⟩
  · rw [serve_served hs.1 hs.2.1]
    exact (answer_done hs.2.2 hl hr leads hn).1
  · rw [serve_served hs.1 hs.2.1]
    exact (answer_done hs.2.2 hl hr leads hn).2
  · rw [serve_eq_finish hs hl hr hosted, Work.finish_trc]
    rfl

/-- Settles O54: a request names one group, all of them, or none. -/
theorem masksAndTroubleClear : Obligations.MasksAndTroubleClear := by
  intro s req n on body
  have length : lengthIs 1 req.body = true := by rw [body]; rfl
  have index : byteAt req.body 0 = n.toNat := by rw [body]; rfl
  have named {rule : Work → Nat → List Group → Work} {gs : List Group} (h : groupScope n.toNat = some gs) :
      onGroups rule (Work.begin s) (byteAt req.body 0) = ⟨rule (Work.begin s) n.toNat gs, .ok, []⟩ := by
    rw [index, onGroups_named h]
  have unnamed {rule : Work → Nat → List Group → Work} (h : 8 ≤ n.toNat) (h' : n.toNat ≠ 0xFF) :
      onGroups rule (Work.begin s) (byteAt req.body 0) = ⟨Work.begin s, .refusedRange, []⟩ := by
    rw [index, onGroups_unnamed (groupScope_none h h')]
  have inScope (h : n.toNat < 8 ∨ n.toNat = 0xFF) : ∃ gs, groupScope n.toNat = some gs := by
    rcases h with h | h
    · obtain ⟨g, -, scope⟩ := groupScope_of_lt h
      exact ⟨_, scope⟩
    · exact ⟨_, by rw [h]; exact groupScope_all⟩
  refine ⟨fun hs => ?_, fun hs => ⟨fun h h' => ?_, fun one audio unmarked => ?_, fun h => ?_⟩⟩
  · have mask : exec (if on then .troubleMask else .troubleUnmask) s = .next (s.serve (if on then 0x3C else 0x3D)
        (lengthIs 1) fun w body => onGroups (Work.setMasks on) w (byteAt body 0)) := by
      cases on <;> rfl
    refine ⟨fun h h' => ?_, fun h => ?_⟩
    · exact mask.trans (congrArg Host.Outcome.next (serve_plain hs length (unnamed h h')))
    · obtain ⟨gs, scope⟩ := inScope h
      obtain ⟨done, others, trc⟩ := serve_event (n := { trc := true })
        (rule := fun w body => onGroups (Work.setMasks on) w (byteAt body 0)) hs length (named scope)
        (.setMasks rfl _ _ _) rfl
      obtain ⟨masked, conds, rest⟩ := setMasks_trc on (Work.begin s) n.toNat gs
      rw [conds, masked] at trc
      refine ⟨_, mask, done, ?_, ?_, ?_, fun g hg => ?_⟩
      · rw [← others] at rest
        exact rest
      · rw [trc]; rfl
      · rw [trc]; rfl
      · rw [trc]
        show vget (gs.foldl (fun v g => vset v g.code on) s.trc.masks) g false = _
        rw [vget_masks gs on _ hg]
        simp only [mem_groupScope scope hg]
  · exact congrArg Host.Outcome.next (serve_plain hs length (unnamed h h'))
  · obtain ⟨g, code, scope⟩ := groupScope_of_lt one
    have other : g ≠ .audio := by rintro rfl; exact audio code.symm
    obtain ⟨done, others, trc⟩ := serve_event (n := { trc := true })
      (rule := fun w body => onGroups Work.clearTrouble w (byteAt body 0)) hs length (named scope)
      (.clearTrouble rfl _ _) rfl
    obtain ⟨cleared, conds, rest⟩ := clearTrouble_unmarked (w := Work.begin s) n.toNat other (by rw [code]; exact unmarked)
    rw [conds, cleared, code] at trc
    refine ⟨_, rfl, done, ?_, trc⟩
    rw [← others] at rest
    exact rest
  · obtain ⟨gs, scope⟩ := inScope h
    obtain ⟨done, others, trc⟩ := serve_event (n := { trc := true })
      (rule := fun w body => onGroups Work.clearTrouble w (byteAt body 0)) hs length (named scope)
      (.clearTrouble rfl _ _) rfl
    refine ⟨_, rfl, done, supplyOnly_of_reach (n := { trc := true }) (.clearTrouble rfl _ _) ⟨rfl, rfl, rfl, rfl, rfl⟩ others, ?_⟩
    have masks := congrArg Trc.masks trc
    rw [foldl_take_masks, clearTrouble_masks] at masks
    exact masks

end Sys2Proof.Claims
end

section
/-! PROOFS. Chapters 8 and 10: what START hands to TRC (R159, R169), what the three resets leave (R160), and the map
they load (R182). -/

namespace Sys2Proof.Machine

/-! ## The load conditions taken at START (R159) -/

/-- The STORE conditions that the load of a block left (R159). -/
def State.loadConds (s : State) (b : Nat) : List CondChange :=
  (if (s.block b).correctedActive then [⟨.blockCorrected, b, true⟩] else []) ++
    if (s.block b).defaultedActive then [⟨.blockDefaulted, b, true⟩] else []

theorem reportChange_from_clear (w : Work) (k : Kind) (n : Nat) (a : Bool) :
    (w.reportChange k n false a).conds = w.conds ++ if a then [⟨k, n, true⟩] else [] := by
  cases a with
  | false => exact (List.append_nil _).symm
  | true => rfl

theorem reportLoads_eq (w : Work) :
    w.reportLoads.toState = w.toState ∧ w.reportLoads.conds = w.conds ++ blockIndices.flatMap w.toState.loadConds := by
  unfold Work.reportLoads
  generalize blockIndices = l
  induction l generalizing w with
  | nil => simp
  | cons b l ih =>
    rw [List.foldl_cons]
    obtain ⟨state, conds⟩ := ih ((w.reportChange .blockCorrected b false (w.block b).correctedActive).reportChange
      .blockDefaulted b false (w.block b).defaultedActive)
    simp only [Work.reportChange_toState] at state conds
    exact ⟨state, by simp [conds, reportChange_from_clear, State.loadConds]⟩

theorem length_loadConds (s : State) (b : Nat) : (s.loadConds b).length ≤ 2 := by
  unfold State.loadConds
  split <;> split <;> simp

theorem length_flatMap_loadConds (s : State) (l : List Nat) : (l.flatMap s.loadConds).length ≤ 2 * l.length := by
  induction l with
  | nil => exact Nat.le_refl _
  | cons b l ih =>
    have head := length_loadConds s b
    simp only [List.flatMap_cons, List.length_append, List.length_cons]
    omega

theorem mem_loadConds {s : State} {c : CondChange} {l : List Nat} (h : c ∈ l.flatMap s.loadConds) : c.active = true := by
  obtain ⟨b, -, hc⟩ := List.mem_flatMap.mp h
  simp only [State.loadConds, List.mem_append, List.mem_ite_nil_right, List.mem_singleton] at hc
  obtain ⟨-, rfl⟩ | ⟨-, rfl⟩ := hc <;> rfl

theorem defaulted_mem_loadConds {s : State} {b : Nat} (hb : b < 11) :
    ⟨.blockDefaulted, b, true⟩ ∈ blockIndices.flatMap s.loadConds ↔ (s.block b).defaultedActive = true := by
  simp only [List.mem_flatMap, State.loadConds, List.mem_append, List.mem_ite_nil_right, List.mem_singleton,
    CondChange.mk.injEq, blockIndices, List.mem_range]
  constructor
  · rintro ⟨_, -, ⟨-, bad, -⟩ | ⟨active, -, rfl, -⟩⟩
    · cases bad
    · exact active
  · exact fun active => ⟨b, hb, .inr ⟨active, trivial, rfl, trivial⟩⟩

theorem corrected_mem_loadConds {s : State} {b : Nat} (hb : b < 11) :
    ⟨.blockCorrected, b, true⟩ ∈ blockIndices.flatMap s.loadConds ↔ (s.block b).correctedActive = true := by
  simp only [List.mem_flatMap, State.loadConds, List.mem_append, List.mem_ite_nil_right, List.mem_singleton,
    CondChange.mk.injEq, blockIndices, List.mem_range]
  constructor
  · rintro ⟨_, -, ⟨active, -, rfl, -⟩ | ⟨-, bad, -⟩⟩
    · exact active
    · cases bad
  · exact fun active => ⟨b, hb, .inl ⟨active, trivial, rfl, trivial⟩⟩

/-! ## Active conditions into a collection of active details -/

theorem Trc.take_active {t : Trc} (now : Nat) {c : CondChange} (hc : c.active = true)
    (active : ∀ d ∈ t.details, d.active = true) (room : t.details.length < 64) :
    (∀ d ∈ (t.take now c).details, d.active = true) ∧ (t.take now c).details.length ≤ t.details.length + 1 ∧
      ∀ k n, Claims.Latched (t.take now c) k n ↔ Claims.Latched t k n ∨ c = ⟨k, n, true⟩ := by
  obtain ⟨kind, subject, on⟩ := c
  cases (show on = true from hc)
  have taken : t.take now ⟨kind, subject, true⟩ = (t.activate now kind subject).1 := rfl
  rw [taken]
  cases pos : t.position kind subject with
  | some i =>
    obtain ⟨d, get, hd, keyed⟩ := Trc.position_some pos
    have same : (t.activate now kind subject).1 = t := by simp only [Trc.activate, pos, get, active d hd, if_true]
    rw [same]
    refine ⟨active, Nat.le_succ _, fun k n => (or_iff_left_of_imp ?_).symm⟩
    intro e
    cases e
    obtain ⟨dk, dn⟩ := (d.keyed_iff _ _).mp keyed
    exact ⟨d, hd, dk, dn, active d hd⟩
  | none =>
    rw [Trc.activate_new now (Trc.position_none.mp pos) room]
    refine ⟨?_, by simp, fun k n => ?_⟩
    · simpa [or_imp, forall_and] using active
    · simp only [Claims.Latched, List.mem_append, List.mem_singleton, or_and_right, exists_or, exists_eq_left,
        and_true, CondChange.mk.injEq]

theorem foldl_take_active {l : List CondChange} (hl : ∀ c ∈ l, c.active = true) (now : Nat) {t : Trc}
    (active : ∀ d ∈ t.details, d.active = true) (room : t.details.length + l.length ≤ 64) (k : Kind) (n : Nat) :
    Claims.Latched (l.foldl (fun t c => t.take now c) t) k n ↔ Claims.Latched t k n ∨ ⟨k, n, true⟩ ∈ l := by
  induction l generalizing t with
  | nil => simp
  | cons c l ih =>
    rw [List.length_cons] at room
    obtain ⟨hc, hl⟩ := List.forall_mem_cons.mp hl
    obtain ⟨active', length, latched⟩ := Trc.take_active now hc active (by omega)
    rw [List.foldl_cons, ih hl active' (by omega), latched, List.mem_cons, or_assoc, eq_comm]

/-! ## The notices of a step's conditions -/

/-- R157, R168: a condition taken while the notice queue has room adds at most one notice behind the others. -/
theorem State.takeCondition_hlc (s : State) (now : Nat) (c : CondChange) (room : s.hlc.notices.length < 32) :
    ∃ more seq, more.length ≤ 1 ∧
      (s.takeCondition now c).hlc = { s.hlc with notices := s.hlc.notices ++ more, seq := seq } := by
  unfold State.takeCondition
  dsimp only
  split
  case h_1 body _ =>
    exact ⟨[⟨.trouble, s.hlc.seq, body⟩], (s.hlc.seq + 1) % 256, Nat.le_refl _, by simp [Hlc.post, room]⟩
  case h_2 => exact ⟨[], s.hlc.seq, Nat.zero_le _, by simp⟩

theorem foldl_takeCondition_hlc (l : List CondChange) (s : State) (room : s.hlc.notices.length + l.length ≤ 32) :
    ∃ more seq, (l.foldl (fun s c => s.takeCondition s.uptime c) s).hlc =
      { s.hlc with notices := s.hlc.notices ++ more, seq := seq } := by
  induction l generalizing s with
  | nil => exact ⟨[], s.hlc.seq, by simp⟩
  | cons c l ih =>
    rw [List.length_cons] at room
    obtain ⟨more, seq, length, hlc⟩ := s.takeCondition_hlc s.uptime c (by omega)
    obtain ⟨more', seq', hlc'⟩ := ih (s.takeCondition s.uptime c) (by
      simp only [hlc, List.length_append]; omega)
    exact ⟨more ++ more', seq', by rw [List.foldl_cons, hlc', hlc]; simp⟩

/-- R167, R169: an idle transmitter with nothing pending takes the oldest notice, whatever conditions the step holds. -/
theorem Work.finish_takes_notice {w : Work} {n : Notice} (idle : w.hlc.transmitter = .idle)
    (response : w.hlc.response = none) (notices : w.hlc.notices = [n]) (few : w.conds.length ≤ 31) :
    ∃ rest seq, w.finish.hlc =
      { w.hlc with notices := rest, lost := false, seq := seq, transmitter := .sendingNotice (n.frame w.hlc.lost) } := by
  obtain ⟨more, seq, hlc⟩ := foldl_takeCondition_hlc w.conds w.toState (by simp only [notices, List.length_singleton]; omega)
  refine ⟨more, seq, ?_⟩
  show Hlc.arbitrate (State.hlc _) = _
  rw [hlc]
  simp only [Hlc.arbitrate, idle, response, notices, List.singleton_append]

/-- A step changes nothing but the collection and the link where its work does not. -/
theorem Work.finish_frame {w : Work} {s : State} (h : ({ w.toState with trc := s.trc, hlc := s.hlc } : State) = s) :
    ({ w.finish with trc := s.trc, hlc := s.hlc } : State) = s := by
  have others := w.finish_others
  generalize w.finish = t at others ⊢
  exact (congrArg (fun u : State => { u with trc := s.trc, hlc := s.hlc }) others).trans h

/-! ## START (R169) -/

/-- R169: the part with its START notice posted and supervision begun, the load conditions not yet reported. -/
def State.startWork (s : State) : Work :=
  ((Work.begin s).post .start (startBody s)).setHlc
    { s.hlc.post .start (startBody s) with started := true, lastValidAt := s.uptime }

theorem startUp_eq (s : State) : s.startUp = s.startWork.reportLoads.finish := rfl

theorem startWork_hlc {s : State} (notices : s.hlc.notices = []) : s.startWork.hlc =
    { s.hlc with
      notices := [⟨.start, s.hlc.seq, startBody s⟩], seq := (s.hlc.seq + 1) % 256, started := true,
      lastValidAt := s.uptime } := by
  simp [State.startWork, Hlc.post, notices]

theorem startWork_reportLoads (s : State) : s.startWork.reportLoads.toState = s.startWork.toState ∧
    s.startWork.reportLoads.conds = blockIndices.flatMap s.loadConds :=
  reportLoads_eq s.startWork

theorem startUp_latched {s : State} (details : s.trc.details = []) (k : Kind) (n : Nat) :
    Claims.Latched s.startUp.trc k n ↔ ⟨k, n, true⟩ ∈ blockIndices.flatMap s.loadConds := by
  obtain ⟨state, conds⟩ := startWork_reportLoads s
  have few := length_flatMap_loadConds s blockIndices
  have trc : s.startWork.trc = s.trc := rfl
  rw [startUp_eq, Work.finish_trc, conds, foldl_take_active (fun c hc => mem_loadConds hc)]
  · simp [state, trc, details, Claims.Latched]
  · simp [state, trc, details]
  · simp only [state, trc, details, blockIndices, List.length_range, List.length_nil] at few ⊢
    omega

end Sys2Proof.Machine

namespace Sys2Proof.Claims

open Sys2Proof Sys2Proof.Machine

/-- Settles O10: at most 22 conditions follow the START notice, which so leaves at once, into a collection with room. -/
theorem startBeginsTheWork : Obligations.StartBeginsTheWork := by
  intro s
  refine ⟨fun started => congrArg Host.Outcome.next (if_pos started), fun fresh idle response notices details => ?_⟩
  obtain ⟨state, conds⟩ := startWork_reportLoads s
  have hlc := startWork_hlc notices
  have few : s.startWork.reportLoads.conds.length ≤ 31 := by
    rw [conds]
    exact (length_flatMap_loadConds s blockIndices).trans (by decide)
  obtain ⟨rest, seq, link⟩ := Work.finish_takes_notice (w := s.startWork.reportLoads)
    (n := ⟨.start, s.hlc.seq, startBody s⟩) (by rw [state, hlc]; exact idle) (by rw [state, hlc]; exact response)
    (by rw [state, hlc]) few
  rw [state, hlc] at link
  refine ⟨s.startUp, congrArg Host.Outcome.next (if_neg (by simp [fresh])), ?_⟩
  rw [startUp_eq, link]
  refine ⟨rfl, rfl, rfl, fun b hb => ?_, ?_⟩
  · rw [← startUp_eq, startUp_latched details, startUp_latched details]
    exact ⟨defaulted_mem_loadConds hb, corrected_mem_loadConds hb⟩
  · exact Work.finish_frame (by rw [state]; rfl)

end Sys2Proof.Claims
end

section
/-! PROOFS. Chapters 9 and 10: what the three resets leave (R160), and the map they load (R182). -/

namespace Sys2Proof.Machine

theorem vget_ofFn {α : Type} {n : Nat} (f : Fin n → α) (i : Nat) (d : α) (h : i < n) :
    vget (Vector.ofFn f) i d = f ⟨i, h⟩ := by
  simp [vget, h]

theorem Mst.afterReset_block (m : Mst) (i : ResetInputs) {b : Nat} (hb : b < 11) (d : BlockStatus) :
    vget (m.afterReset i).blocks b d = .loaded ((m.afterReset i).store.loadResult b) :=
  vget_ofFn _ b d hb

/-! ## The load (R182) -/

/-- The bytes of a block that is loaded, and those of every other. -/
theorem read_loadBlock_self (st : Store) (m : Memory) (b : Nat) {o : Nat} (ho : o < 256) :
    Memory.read (loadBlock st m b) (256 * b + o) =
      if st.loadResult b = .defaulted then Memory.read m (256 * b + o) else byte (normByte b (mapByte st.bytes b) o) := by
  unfold loadBlock
  split
  · rfl
  · exact Memory.read_storeBlock m b o _ ho

theorem read_loadBlock_other (st : Store) (m : Memory) {b c o : Nat} (hbc : b ≠ c) (ho : o < 256) :
    Memory.read (loadBlock st m c) (256 * b + o) = Memory.read m (256 * b + o) := by
  unfold loadBlock
  split
  · rfl
  · exact Memory.read_setBlock_other m c _ _ (by omega)

theorem read_foldl_loadBlock (st : Store) (b : Nat) {o : Nat} (ho : o < 256) (l : List Nat) (m : Memory) :
    Memory.read (l.foldl (loadBlock st) m) (256 * b + o) =
      if b ∈ l ∧ st.loadResult b ≠ .defaulted then byte (normByte b (mapByte st.bytes b) o)
      else Memory.read m (256 * b + o) := by
  induction l generalizing m with
  | nil => simp
  | cons c l ih =>
    rw [List.foldl_cons, ih]
    by_cases hbc : b = c
    · subst hbc
      rw [read_loadBlock_self st m b ho]
      by_cases hl : b ∈ l <;> by_cases hd : st.loadResult b = .defaulted <;> simp [hl, hd]
    · rw [read_loadBlock_other st m hbc ho]
      simp [hbc]

theorem Store.read_load (st : Store) {b o : Nat} (hb : b < 11) (ho : o < 256) :
    Memory.read st.load (256 * b + o) =
      if st.loadResult b = .defaulted then mapDefault (256 * b + o) else byte (normByte b (mapByte st.bytes b) o) := by
  rw [Store.load, read_foldl_loadBlock st b ho]
  simp [blockIndices, hb, ite_not]

/-! ## The result of a block's load (R182) -/

/-- A word of the block stands in the store's errors with the given kind. -/
def Store.Bad (st : Store) (b : Nat) (e : WordError) : Prop := ∃ x ∈ st.errors, x.block = b ∧ x.error = e

theorem Store.loadResult_defaulted {st : Store} {b : Nat} :
    st.loadResult b = .defaulted ↔ vget st.marks b false = false ∨ st.Bad b .uncorrectable := by
  unfold Store.loadResult
  split
  next h => simp_all
  next h =>
    split
    next bad => simp_all [Store.Bad]
    next sound => split <;> simp_all [Store.Bad]

theorem Store.loadResult_corrected {st : Store} {b : Nat} (h : st.loadResult b ≠ .defaulted) :
    st.loadResult b = .corrected ↔ st.Bad b .single := by
  have sound : ¬ st.Bad b .uncorrectable := fun bad => h (Store.loadResult_defaulted.mpr (.inr bad))
  have single : (∃ x ∈ st.errors, x.block = b) ↔ st.Bad b .single := by
    refine ⟨fun ⟨x, hx, block⟩ => ?_, fun ⟨x, hx, block, _⟩ => ⟨x, hx, block⟩⟩
    cases error : x.error with
    | single => exact ⟨x, hx, block, error⟩
    | uncorrectable => exact absurd ⟨x, hx, block, error⟩ sound
  unfold Store.loadResult at h ⊢
  split at h
  · exact absurd rfl h
  · split at h
    · exact absurd rfl h
    · rw [if_neg ‹_›, if_neg ‹_›, ← single]
      split <;> simp_all

theorem Store.loadResult_clean {st : Store} {b : Nat} (h : st.loadResult b ≠ .defaulted) :
    st.loadResult b = .clean ↔ ¬ st.Bad b .single := by
  rw [← Store.loadResult_corrected h]
  cases hr : st.loadResult b <;> simp_all

end Sys2Proof.Machine

namespace Sys2Proof.Claims

open Sys2Proof Sys2Proof.Machine

/-- Settles O8. -/
theorem resetsGiveResetValues : Obligations.ResetsGiveResetValues := by
  intro s i f
  refine ⟨s.afterReset .powerOn i, rfl, rfl, rfl, rfl, fun z => vget_replicate z _, fun p => vget_replicate p _,
    fun n => vget_replicate n _, rfl, rfl, rfl, rfl, rfl, rfl, rfl, rfl, rfl, fun d => vget_replicate d _,
    fun c => vget_replicate c _, fun b hb => vget_ofFn _ b _ hb, fun k => vget_replicate _ _, fun c => vget_replicate c _,
    fun n => vget_replicate n _, rfl, rfl, ?_, rfl, fun g => vget_replicate g _, fun g => vget_replicate g _, fun b hb => ?_,
    rfl, rfl, rfl, rfl, rfl, rfl, rfl⟩
  · show (⟨(sortedNodeSet _).map NodeEntry.fresh, 0, [], none⟩ : Rbm) = _
    congr 1
    refine List.map_congr_left fun c _ => ?_
    simp [NodeEntry.fresh]
  · exact congrArg BlockStatus.writeFailed (Mst.afterReset_block s.mst i hb BlockStatus.fresh)

/-- Settles O9. -/
theorem resetLoadsTheStore : Obligations.ResetLoadsTheStore := by
  intro s t i b ht hb bad
  obtain ⟨cause, rfl⟩ : ∃ cause, t = s.afterReset cause i := by
    obtain h | h | ⟨reset, h⟩ := ht
    · exact ⟨.powerOn, Host.Outcome.next.inj h.symm⟩
    · exact ⟨.pin, Host.Outcome.next.inj h.symm⟩
    · exact ⟨.restart, Host.Outcome.next.inj (h.symm.trans (exec_responseSent_of_resets reset))⟩
  set st := (s.mst.afterReset i).store with hst
  have block : (s.afterReset cause i).block b = .loaded (st.loadResult b) := Mst.afterReset_block s.mst i hb BlockStatus.fresh
  have read {o : Nat} (ho : o < 256) := st.read_load hb ho
  rw [block]
  refine ⟨fun h => ?_, fun marked sound => ?_, rfl⟩
  · have defaulted : st.loadResult b = .defaulted := Store.loadResult_defaulted.mpr h
    exact ⟨defaulted, decide_eq_true defaulted, fun o ho => (read ho).trans (if_pos defaulted)⟩
  · have loaded : st.loadResult b ≠ .defaulted := fun h =>
      (Store.loadResult_defaulted.mp h).elim (fun clear => by simp [hst, Mst.afterReset, marked] at clear) sound
    exact ⟨Store.loadResult_corrected loaded, Store.loadResult_clean loaded, fun o ho => (read ho).trans (if_neg loaded)⟩

end Sys2Proof.Claims
end

section
/-! PROOFS. Chapter 10: the checks of MAP_WRITE and what an accepted one stores (R175 to R178), and the store operation
block by block (R180, R181). -/

namespace Sys2Proof.Machine

theorem exec_mapWrite (s : State) : exec .mapWrite s = .next (s.serve 0x04 mapWriteLength mapWriteRule) := rfl

/-- A served request in HOSTED whose rule leaves the link's own records: it is answered, and everything but the
collection and the link is as the rule leaves it. -/
theorem serve_unposted {s : State} {req : Request} {code : Nat} {ok : List Byte → Bool}
    {rule : Work → List Byte → Answer} {w : Work} {result : Result} {fields : List Byte} (hs : Claims.Serves s code req)
    (hl : ok req.body = true) (hr : rule (Work.begin s) req.body = ⟨w, result, fields⟩) (link : w.hlc.unposted s.hlc) :
    Claims.Done s (s.serve code ok rule) req result fields ∧
      { s.serve code ok rule with trc := w.trc, hlc := w.hlc } = w.toState := by
  rw [Claims.serve_eq_finish hs hl hr (link.mode.trans hs.2.2)]
  refine ⟨⟨finish_responds rfl link.transmitter, ?_⟩, ?_⟩
  · have k := (w.respond req result fields).finish_settled.link
    exact (congrArg (fun h : Hlc => { h with
      notices := s.hlc.notices, lost := s.hlc.lost, seq := s.hlc.seq, response := s.hlc.response,
      transmitter := s.hlc.transmitter }) k).trans (congrArg (fun h : Hlc => { h with
      response := s.hlc.response, transmitter := s.hlc.transmitter }) link)
  · exact congrArg (fun u : State => { u with hlc := w.hlc }) (w.respond req result fields).finish_others

/-! ## MAP_WRITE (R175 to R178) -/

theorem mapWriteLength_iff (body : List Byte) :
    mapWriteLength body = true ↔ 3 ≤ body.length ∧ body.length = 3 + byteAt body 2 := by
  simp [mapWriteLength]

section
variable {w : Work} {body : List Byte}

theorem mapWriteRule_out_of_range (h : mapRangeOk (byteAt body 0) (byteAt body 1) (byteAt body 2) = false) :
    mapWriteRule w body = .refuse w .refusedRange := by
  simp [mapWriteRule, h]

theorem mapWriteRule_regime (h : mapRangeOk (byteAt body 0) (byteAt body 1) (byteAt body 2) = true)
    (regime : w.rgc.state ≠ .quiet) : mapWriteRule w body = .refuse w .refusedState := by
  simp [mapWriteRule, h, regime]

theorem mapWriteRule_storing (h : mapRangeOk (byteAt body 0) (byteAt body 1) (byteAt body 2) = true)
    (quiet : w.rgc.state = .quiet) (storing : w.mst.writing ≠ none) : mapWriteRule w body = .refuse w .mapBusy := by
  simp [mapWriteRule, h, quiet, Option.isSome_iff_ne_none.mpr storing]

theorem mapWriteRule_duplicate (h : mapRangeOk (byteAt body 0) (byteAt body 1) (byteAt body 2) = true)
    (quiet : w.rgc.state = .quiet) (idle : w.mst.writing = none) {a : Nat}
    (duplicate : firstDuplicate (nodeCandidates (mapWritten w.map (byteAt body 0) (byteAt body 1) (body.drop 3))) [] =
      some a) : mapWriteRule w body = ⟨w, .refusedRange, e8 a⟩ := by
  simp [mapWriteRule, h, quiet, idle, duplicate]

theorem mapWriteRule_accepts (h : mapRangeOk (byteAt body 0) (byteAt body 1) (byteAt body 2) = true)
    (quiet : w.rgc.state = .quiet) (idle : w.mst.writing = none)
    (apart : firstDuplicate (nodeCandidates (mapWritten w.map (byteAt body 0) (byteAt body 1) (body.drop 3))) [] = none) :
    mapWriteRule w body =
      ⟨w.acceptWrite (byteAt body 0) (mapWritten w.map (byteAt body 0) (byteAt body 1) (body.drop 3)), .ok, []⟩ := by
  simp [mapWriteRule, h, quiet, idle, apart]

end

/-- R178: what an accepted write keeps of MST and the link, while the blocks that read the map take the change. -/
theorem acceptWrite_keeps (w : Work) (b : Nat) (m : Memory) :
    (w.acceptWrite b m).map = m ∧ (w.acceptWrite b m).mst.store = w.mst.store ∧
      (w.acceptWrite b m).mst.writing = w.mst.writing ∧ (∀ k, k ≠ b → (w.acceptWrite b m).block k = w.block k) ∧
      (w.acceptWrite b m).uptime = w.uptime ∧ (w.acceptWrite b m).hlc.unposted w.hlc := by
  by_cases same : m = w.map
  · have unchanged : w.acceptWrite b m = w := if_pos same
    rw [unchanged]
    exact ⟨same.symm, rfl, rfl, fun _ _ => rfl, rfl, rfl⟩
  · have handed : w.acceptWrite b m = (w.mapped b m).handOn w.map := if_neg same
    have leads : Leads { cru := true, rgc := true, zev := true } (w.mapped b m) (w.acceptWrite b m) :=
      handed ▸ Leads.handOn (.refl _) rfl rfl rfl _
    have mst : (w.acceptWrite b m).mst = (w.mapped b m).mst := leads.untouched.mst rfl
    refine ⟨congrArg Mst.map mst, (congrArg Mst.store mst :), (congrArg Mst.writing mst :), fun k hk => ?_,
      leads.untouched.uptime rfl, leads.untouched.link rfl⟩
    exact (congrArg (fun x : Mst => vget x.blocks k BlockStatus.fresh) mst).trans (vget_vset_ne _ _ _ _ _ hk.symm)

/-! ## The store operation (R180, R181) -/

theorem blockVerified_next (w : Work) {b : Nat} (hb : b < 10) : (w.blockVerified b).mst =
    { w.mst with
      blocks := vset w.mst.blocks b (w.block b).verified, writing := some (b + 1)
      store := { w.mst.store.verified w.map b with marks := vset (vset w.mst.store.marks b true) (b + 1) false } } := by
  simp [Work.blockVerified, hb, Work.beginBlock, Store.verified]

theorem blockVerified_last (w : Work) {b : Nat} (hb : ¬ b < 10) : (w.blockVerified b).mst =
    { w.mst with
      blocks := vset w.mst.blocks b (w.block b).verified, writing := none, lastStore := .ok
      store := w.mst.store.verified w.map b } := by
  simp [Work.blockVerified, hb, Work.endStore]

theorem blockFailed_mst (w : Work) (b : Nat) : (w.blockFailed b).mst =
    { w.mst with
      blocks := vset w.mst.blocks b { w.block b with modified := true, writeFailed := true }, writing := none
      lastStore := .failed b } := by
  simp [Work.blockFailed, Work.endStore]

theorem blockVerified_others (w : Work) (b : Nat) :
    ({ (w.blockVerified b).toState with mst := w.mst, hlc := w.hlc } : State) = w.toState := by
  unfold Work.blockVerified
  dsimp only
  split <;> simp [Work.beginBlock, Work.endStore]

theorem blockFailed_others (w : Work) (b : Nat) :
    ({ (w.blockFailed b).toState with mst := w.mst, hlc := w.hlc } : State) = w.toState := by
  simp [Work.blockFailed, Work.endStore]

theorem exec_mapStoreBlockDone {s : State} {b : Nat} (agrees : Bool) (started : s.hlc.started = true)
    (writing : s.mst.writing = some b) : exec (.mapStoreBlockDone agrees) s =
      .next (if agrees then (Work.begin s).blockVerified b else (Work.begin s).blockFailed b).finish := by
  show execMapStoreBlockDone agrees s = _
  simp only [execMapStoreBlockDone, writing, whenStarted_started started]

/-- A step whose work changes MST alone beside the link and the collection. -/
theorem Work.finish_mst {w : Work} {s : State} (h : ({ w.toState with mst := s.mst, hlc := s.hlc } : State) = s) :
    w.finish.mst = w.mst ∧ ({ w.finish with mst := s.mst, trc := s.trc, hlc := s.hlc } : State) = s := by
  have others := w.finish_others
  generalize w.finish = t at others ⊢
  exact ⟨(congrArg State.mst others :),
    (congrArg (fun u : State => { u with mst := s.mst, trc := s.trc, hlc := s.hlc }) others).trans
      (congrArg (fun u : State => { u with trc := s.trc }) h)⟩

end Sys2Proof.Machine

namespace Sys2Proof.Claims

open Sys2Proof Sys2Proof.Machine

/-- Settles O23: the rule refuses at the first check that fails. -/
theorem mapWriteChecksInOrder : Obligations.MapWriteChecksInOrder := by
  intro s req hs b o n data sized inRange
  have length : sized → mapWriteLength req.body = true := (mapWriteLength_iff req.body).mpr
  have admits : inRange → mapRangeOk b o n = true := (mapRangeOk_iff b o n).mpr
  rw [exec_mapWrite]
  refine ⟨fun bad => ?_, fun h r regime => ?_, fun h r quiet storing => ?_, fun h r quiet idle a duplicate => ?_⟩
  · by_cases h : sized
    · have out : mapRangeOk b o n = false := by
        rw [← Bool.not_eq_true, mapRangeOk_iff]
        exact bad.resolve_left (not_not_intro h)
      rw [serve_plain hs (length h) (mapWriteRule_out_of_range out)]
    · rw [serve_bad_length hs (by rwa [← Bool.not_eq_true, mapWriteLength_iff])]
  · rw [serve_plain hs (length h) (mapWriteRule_regime (admits r) regime)]
  · rw [serve_plain hs (length h) (mapWriteRule_storing (admits r) quiet storing)]
  · rw [serve_plain hs (length h) (mapWriteRule_duplicate (admits r) quiet idle duplicate)]
    rfl

/-- Settles O24: the written block is stored, and no block that takes the change touches the map. -/
theorem mapWriteStoresTheFields : Obligations.MapWriteStoresTheFields := by
  intro s req hs b o data three length block one most within quiet idle apart
  have count : data.length = byteAt req.body 2 := by simp [data, length]
  have admits : mapRangeOk b o (byteAt req.body 2) = true :=
    (mapRangeOk_iff _ _ _).mpr ⟨block, count ▸ one, count ▸ most, count ▸ within⟩
  obtain ⟨map, store, writing, blocks, uptime, link⟩ := acceptWrite_keeps (Work.begin s) b (mapWritten s.map b o data)
  obtain ⟨done, others⟩ := serve_unposted hs ((mapWriteLength_iff _).mpr ⟨three, length⟩)
    (mapWriteRule_accepts (w := Work.begin s) admits quiet idle apart) link
  have mst : (s.serve 0x04 mapWriteLength mapWriteRule).mst =
      ((Work.begin s).acceptWrite b (mapWritten s.map b o data)).mst := (congrArg State.mst others :)
  have mapped : (s.serve 0x04 mapWriteLength mapWriteRule).map = mapWritten s.map b o data :=
    (congrArg Mst.map mst).trans map
  refine ⟨_, rfl, done, fun k hk => ?_, fun a ha => ?_, (congrArg Mst.store mst).trans store,
    (congrArg Mst.writing mst).trans (writing.trans idle), fun k hk => ?_, (congrArg State.uptime others :).trans uptime⟩
  · show Memory.read (s.serve 0x04 mapWriteLength mapWriteRule).map _ = _
    rw [mapped]
    exact Memory.read_storeBlock _ _ _ _ hk
  · show Memory.read (s.serve 0x04 mapWriteLength mapWriteRule).map _ = _
    rw [mapped]
    exact Memory.read_setBlock_other _ _ _ _ ha
  · exact (congrArg (fun x : Mst => vget x.blocks k BlockStatus.fresh) mst).trans (blocks k hk)

/-- Settles O25: the block's record and the store as each end of a block leaves them. -/
theorem mapStoreWritesBlockByBlock : Obligations.MapStoreWritesBlockByBlock := by
  refine ⟨fun s req hs empty => ⟨fun storing => ?_, fun idle => ?_⟩, fun s b started writing hb => ⟨?_, ?_⟩⟩
  · refine congrArg Host.Outcome.next (serve_plain hs (by simp [lengthIs, empty]) ?_)
    exact if_pos (Option.isSome_iff_ne_none.mpr storing)
  · refine congrArg Host.Outcome.next (serve_quiet (w := (Work.begin s).beginBlock 0) hs (by simp [lengthIs, empty]) ?_
      hs.2.2 rfl)
    exact if_neg (by simp [idle])
  · obtain ⟨mst, others⟩ := Work.finish_mst (blockVerified_others (Work.begin s) b)
    refine ⟨_, exec_mapStoreBlockDone true started writing, ?_⟩
    have blocks : ∀ k, State.block _ k = vget _ k BlockStatus.fresh := fun k => congrArg (fun x : Mst => vget x.blocks k _) mst
    have copied {o : Nat} (ho : o < 256) :=
      Memory.read_setBlock s.mst.store.bytes b o (fun o => Memory.read s.map (256 * b + o)) ho
    have kept {a : Nat} (ha : a < 256 * b ∨ 256 * b + 256 ≤ a) :=
      Memory.read_setBlock_other s.mst.store.bytes b a (fun o => Memory.read s.map (256 * b + o)) ha
    have marked : vget (vset s.mst.store.marks b true) b false = true := vget_vset_self _ _ _ _ hb
    rw [if_pos rfl, blocks b, mst]
    by_cases next : b < 10
    · have verified := blockVerified_next (Work.begin s) next
      simp only [verified, vget_vset_self _ b _ _ hb, if_pos next]
      refine ⟨rfl, fun o => copied, fun a => kept, ?_, rfl, rfl, trivial, fun _ => ⟨?_, rfl⟩, by omega, others⟩
      · exact (vget_vset_ne _ _ _ _ _ (by omega)).trans marked
      · exact vget_vset_self _ _ _ _ (by omega)
    · have verified := blockVerified_last (Work.begin s) next
      simp only [verified, vget_vset_self _ b _ _ hb, if_neg next]
      exact ⟨rfl, fun o => copied, fun a => kept, marked, rfl, rfl, trivial, fun h => absurd h next, fun _ => trivial, others⟩
  · obtain ⟨mst, others⟩ := Work.finish_mst (blockFailed_others (Work.begin s) b)
    refine ⟨_, exec_mapStoreBlockDone false started writing, ?_⟩
    have blocks : ∀ k, State.block _ k = vget _ k BlockStatus.fresh := fun k => congrArg (fun x : Mst => vget x.blocks k _) mst
    have failed := blockFailed_mst (Work.begin s) b
    rw [if_neg Bool.false_ne_true]
    simp only [blocks, mst, failed, vget_vset_self _ b _ _ hb]
    exact ⟨rfl, rfl, trivial, trivial, fun k hk => vget_vset_ne _ _ _ _ _ hk.symm, trivial, trivial, others⟩

end Sys2Proof.Claims
end

section
/-! PROOFS. Chapters 3, 6 and 7: the uptime second (R64), the transactions of the player port (R123, R186), and the
toggle of a riser node (R138, R141, R143). -/

namespace Sys2Proof.Machine

/-! ## The player port (R123) -/

/-- R123, R186: a sent command leaves the list, and nothing else changes but the transmitter's choice. -/
theorem whenStarted_sendCommand {s : State} {c : PlayerCommand} {rest : List PlayerCommand}
    (started : s.hlc.started = true) (commands : s.plp.commands = c :: rest) :
    s.whenStarted (Work.sendCommand c) =
      { s with plp := ⟨rest, some c.bytes, rest.isEmpty⟩, hlc := s.hlc.arbitrate } := by
  rw [whenStarted_started started, Work.finish_plain _ rfl]
  show ({ s with plp := ⟨s.plp.commands.tail, some c.bytes, s.plp.commands.tail.isEmpty⟩, hlc := s.hlc.arbitrate } : State) = _
  rw [commands]
  rfl

end Sys2Proof.Machine

namespace Sys2Proof.Claims

open Sys2Proof Sys2Proof.Machine

/-- Settles O50: a transaction occurs when the head of the list is of its kind. -/
theorem playerSendsTheHead : Obligations.PlayerSendsTheHead := by
  intro s c n rest started
  refine ⟨fun commands => ?_, fun commands => ?_, fun commands => ?_⟩
  all_goals
    have sent := whenStarted_sendCommand started commands
    simp only [exec, execPlay, execStop, execRouteLive, commands, List.head?_cons, and_true]
    exact congrArg Host.Outcome.next sent

/-- Settles O59: the four kinds of a reply, by the node's state and the two toggles. -/
theorem togglesConfirmAndSlip : Obligations.TogglesConfirmAndSlip := by
  intro e r t
  have heard : e.state = .unknown ∨ e.state = .lost → e.classify r = .heard := by
    rintro (h | h) <;> simp [NodeEntry.classify, h]
  have known : e.state = .ok ∨ e.state = .missing → e.classify r =
      if r.fresh then .slip
      else if e.inFlight then (if r.toggle = e.outToggle then .confirms else .plain)
      else if r.toggle = e.outToggle then .plain else .slip := by
    rintro (h | h) <;> simp [NodeEntry.classify, h]
  have slip (h : e.classify r = .slip) :
      t.slips = min (e.slips + 1) 255 ∧ t.inFlight = true ∧ t.outToggle ≠ r.toggle := by
    simp only [t, h, NodeEntry.toggled]
    refine ⟨rfl, trivial, ?_⟩
    split
    next same => simp [same]
    next apart => exact apart
  refine ⟨fun h => by simp only [t, heard h, NodeEntry.toggled], fun h => ⟨fun stands inFlight echoed => ?_,
    fun stands other => ?_, fun slipped => slip ?_⟩⟩
  · simp [t, known h, stands, inFlight, echoed, NodeEntry.toggled]
  · have plain : e.classify r = .plain := by
      rw [known h, stands]
      cases hf : e.inFlight <;> simp_all
    simp only [t, plain, NodeEntry.toggled]
  · rw [known h]
    obtain fresh | ⟨settled, apart⟩ := slipped
    · simp [fresh]
    · simp [settled, apart]

/-- Settles O60. -/
theorem uptimeSecondCounts : Obligations.UptimeSecondCounts := by
  intro s started
  have ends : s.whenStarted Work.uptimeSecond = { (Work.begin s).uptimeSecond.toState with hlc := s.hlc.arbitrate } := by
    rw [whenStarted_started started, Work.finish_plain _ rfl]
    rfl
  refine ⟨_, congrArg Host.Outcome.next ends, fun h => if_pos h, ?_, rfl, rfl⟩
  show ({ s.lbu with stats := s.lbu.stats.second s.lbu.waitList.length } : Lbu) = _
  simp only [Stats.second, satAdd, statLimit, List.length_eq_zero_iff]

end Sys2Proof.Claims
end

section
/-! PROOFS. Chapters 2 and 3: the two queues and their order (R33, R54), the phases of a regime start (R26), promotion
(R34), and the entry to GENERAL (R40, R41). -/

namespace Sys2Proof.Machine

/-! ## Sorting -/

theorem insertBy_eq_orderedInsert {α : Type} (le : α → α → Bool) (x : α) (l : List α) :
    insertBy le x l = l.orderedInsert (fun a b => le a b = true) x := by
  induction l with
  | nil => rfl
  | cons y l ih => simp [insertBy, ih]

theorem sortBy_eq_insertionSort {α : Type} (le : α → α → Bool) (l : List α) :
    sortBy le l = l.insertionSort fun a b => le a b = true := by
  induction l with
  | nil => rfl
  | cons x l ih => rw [sortBy, insertBy_eq_orderedInsert, ih, List.insertionSort_cons]

theorem sortBy_perm {α : Type} (le : α → α → Bool) (l : List α) : (sortBy le l).Perm l :=
  sortBy_eq_insertionSort le l ▸ List.perm_insertionSort _ l

theorem sortBy_pairwise {α : Type} {le : α → α → Bool} (total : ∀ a b, le a b = true ∨ le b a = true)
    (trans : ∀ a b c, le a b = true → le b c = true → le a c = true) (l : List α) :
    (sortBy le l).Pairwise fun a b => le a b = true := by
  have : Std.Total fun a b => le a b = true := ⟨total⟩
  have : IsTrans α fun a b => le a b = true := ⟨trans⟩
  rw [sortBy_eq_insertionSort]
  exact List.pairwise_insertionSort _ l

/-- R33: by evacuate_at, then sched_rank, then the higher floor first. -/
theorem Rgc.before_iff (r : Rgc) (a b : Nat) : r.before a b = true ↔
    (r.floor a).evacuateAt < (r.floor b).evacuateAt ∨ ((r.floor a).evacuateAt = (r.floor b).evacuateAt ∧
      ((r.floor a).schedRank < (r.floor b).schedRank ∨ ((r.floor a).schedRank = (r.floor b).schedRank ∧ b ≤ a))) :=
  decide_eq_true_iff

/-! ## A regime start (R25, R26) -/

theorem Rgc.floor_startPhases (m : Memory) (r : Rgc) {f : Nat} (hf : f < 32) : (r.startPhases m).floor f =
    if directExit m f then (r.floor f).evacuate .direct 0
    else if floorPresent m f then { r.floor f with phase := .alert, evacuateAt := unscheduled, schedRank := 0 }
    else r.floor f := by
  rw [Rgc.startPhases, Rgc.floor_mapFloors _ _ _ hf]
  by_cases present : floorPresent m f = true
  · simp only [present, if_true]
  · simp [directExit, present]

theorem Rgc.floor_entryGeneral (m : Memory) (r : Rgc) {f : Nat} (hf : f < 32) : (r.entryGeneral m).floor f =
    if floorPresent m f && (r.floor f).phase = .alert then (r.floor f).evacuate .general r.clock else r.floor f :=
  r.floor_mapFloors _ _ hf

/-! ## Promotion (R34) -/

/-- R34: the floor a promotion step takes. -/
def Rgc.promoted (r : Rgc) (f : Nat) : Rgc := r.mapFloors (fun g => g = f) fun _ x => x.evacuate .schedule r.clock

theorem length_filter_le_add {α : Type} {p q r : α → Bool} (l : List α) (h : ∀ a, p a = true → q a = true ∨ r a = true) :
    (l.filter p).length ≤ (l.filter q).length + (l.filter r).length := by
  induction l with
  | nil => exact Nat.zero_le _
  | cons a l ih =>
    have head := h a
    cases hp : p a <;> cases hq : q a <;> cases hr : r a <;> simp_all <;> omega

theorem floorPresent_lt {m : Memory} {f : Nat} (h : floorPresent m f = true) : f < 32 := by
  simp only [floorPresent, Bool.and_eq_true, decide_eq_true_eq] at h
  exact h.2

theorem stairCount_promoted (m : Memory) (r : Rgc) (f : Nat) : stairCount m (r.promoted f) ≤ stairCount m r + 1 := by
  have one : (floorIndices.filter fun g => decide (g = f)).length ≤ 1 := by
    rw [List.filter_eq, List.length_replicate]
    exact List.nodup_iff_count_le_one.mp List.nodup_range f
  refine (length_filter_le_add (q := fun g => floorPresent m g && (r.floor g).phase = .evacuate && !directExit m g)
    (r := fun g => g = f) _ fun g counted => ?_).trans (Nat.add_le_add_left one _)
  by_cases same : g = f
  · exact .inr (decide_eq_true same)
  · obtain ⟨⟨present, phase⟩, inside⟩ : (floorPresent m g = true ∧ ((r.promoted f).floor g).phase = .evacuate) ∧
        directExit m g = false := by simpa [Rgc.floor] using counted
    have unchanged : (r.promoted f).floor g = r.floor g := by
      rw [Rgc.promoted, Rgc.floor_mapFloors _ _ _ (floorPresent_lt present), if_neg (by simpa using same)]
    rw [unchanged] at phase
    simp [present, phase, inside]

/-- R34: what a run of promotion steps over a queue leaves: `taken` are the floors promoted. -/
structure Promotes (m : Memory) (r : Rgc) (queue taken : List Nat) (p : Rgc) : Prop where
  queue : queue = taken ++ p.queue
  floors : ∀ f < 32, p.floor f = if f ∈ taken then (r.floor f).evacuate .schedule r.clock else r.floor f
  stops : p.hold = true ∨ stairCapacity m ≤ stairCount m p ∨ p.queue = []
  count : stairCount m p ≤ max (stairCount m r) (stairCapacity m)
  rest : { p with queue := r.queue, floors := r.floors } = r

theorem promoteSteps_promotes (m : Memory) (queue : List Nat) (r : Rgc) :
    ∃ taken, Promotes m r queue taken (promoteSteps m queue r) := by
  induction queue generalizing r with
  | nil => exact ⟨[], rfl, fun f _ => by simp [promoteSteps, Rgc.floor], .inr (.inr rfl), Nat.le_max_left _ _, rfl⟩
  | cons f queue ih =>
    unfold promoteSteps
    split
    next stop =>
      refine ⟨[], rfl, fun f _ => by simp [Rgc.floor], ?_, Nat.le_max_left _ _, rfl⟩
      obtain hold | full := Bool.or_eq_true_iff.mp stop
      · exact .inl hold
      · exact .inr (.inl (of_decide_eq_true full))
    next go =>
      obtain ⟨taken, p⟩ := ih (r.promoted f)
      refine ⟨f :: taken, congrArg (f :: ·) p.queue, fun g hg => ?_, p.stops, ?_, ?_⟩
      · refine (p.floors g hg).trans ?_
        rw [Rgc.promoted, Rgc.floor_mapFloors _ _ _ hg]
        by_cases same : g = f <;> by_cases later : g ∈ taken <;> simp [same, later, Rgc.mapFloors, Floor.evacuate]
      · have room : stairCount m r < stairCapacity m := by
          simpa using fun h => go (Bool.or_eq_true_iff.mpr (.inr h))
        have one := stairCount_promoted m r f
        exact p.count.trans (by omega)
      · exact congrArg (fun x : Rgc => { x with floors := r.floors }) p.rest

theorem Rgc.promote_promotes (m : Memory) (r : Rgc) : ∃ taken, Promotes m r r.queue taken (r.promote m) :=
  promoteSteps_promotes m r.queue r

theorem Rgc.promote_of_hold {m : Memory} {r : Rgc} (hold : r.hold = true) : r.promote m = r := by
  have stays (queue : List Nat) : promoteSteps m queue r = { r with queue := queue } := by
    cases queue with
    | nil => rfl
    | cons f queue => rw [promoteSteps, if_pos (by simp [hold])]
  exact stays r.queue

theorem promoteSteps_stats (m : Memory) (queue : List Nat) (r : Rgc) (x : Stats) :
    promoteSteps m queue { r with stats := x } = { promoteSteps m queue r with stats := x } := by
  induction queue generalizing r with
  | nil => rfl
  | cons f queue ih =>
    unfold promoteSteps
    by_cases stop : (r.hold || decide (stairCapacity m ≤ stairCount m r)) = true
    · rw [if_pos stop, if_pos (by exact stop)]
    · rw [if_neg stop, if_neg (by exact stop)]
      exact ih (r.promoted f)

end Sys2Proof.Machine

namespace Sys2Proof.Claims

open Sys2Proof Sys2Proof.Machine

/-- Settles O30: both are insertion sorts by a total order. -/
theorem queuesAreOrdered : Obligations.QueuesAreOrdered := by
  refine ⟨fun r => ⟨sortBy_perm _ _, ?_⟩, fun l => ⟨?_, ?_⟩⟩
  · refine (sortBy_pairwise (fun a b => ?_) (fun a b c hab hbc => ?_) r.queue).imp (r.before_iff _ _).mp
    · simp only [Rgc.before_iff]; omega
    · simp only [Rgc.before_iff] at *; omega
  · have waiting : Claim.waiting = fun c => decide (c.source = none) := by
      funext c; cases h : c.source <;> simp [Claim.waiting, h]
    rw [← waiting]
    exact sortBy_perm _ _
  · refine (sortBy_pairwise (fun a b => ?_) (fun a b c hab hbc => ?_) _).imp of_decide_eq_true
    · simp only [decide_eq_true_eq]; omega
    · simp only [decide_eq_true_eq] at *; omega

/-- Settles O28. -/
theorem regimeStartSetsPhases : Obligations.RegimeStartSetsPhases := fun m r _ hf => r.floor_startPhases m hf

/-- Settles O31, by induction on the queue. -/
theorem promotionStopsAtCapacity : Obligations.PromotionStopsAtCapacity := by
  intro m r p
  obtain ⟨taken, promotes⟩ := r.promote_promotes m
  exact ⟨promotes.stops, promotes.count, Rgc.promote_of_hold, taken, promotes.queue, promotes.floors⟩

end Sys2Proof.Claims
end

section
/-! PROOFS. Chapter 2: the requests and timers of the regime (R27, R32, R35 to R41, R46). -/

namespace Sys2Proof.Machine

/-! ## Steps whose work is an event of RGC -/

/-- A step keeps the link's own records where its work does. -/
theorem linkKept_finish {w : Work} {s : State} (h : w.hlc.unposted s.hlc) : Claims.LinkKept s w.finish := by
  have k := w.finish_settled.link
  exact (congrArg (fun x : Hlc => { x with
    notices := s.hlc.notices, lost := s.hlc.lost, seq := s.hlc.seq, response := s.hlc.response,
    transmitter := s.hlc.transmitter }) k).trans (congrArg (fun x : Hlc => { x with
    response := s.hlc.response, transmitter := s.hlc.transmitter }) h)

/-- An event that occurs and is one of RGC. -/
theorem onEvent_rgcEvent {s : State} {occurs : Bool} {f : Work → Work} {r : Rgc} {n : News} (started : s.hlc.started = true)
    (h : occurs = true) (hf : f (Work.begin s) = (Work.begin s).rgcEvent r n) :
    Claims.RegimeOnly s (s.onEvent occurs f) ∧ Claims.LinkKept s (s.onEvent occurs f) ∧ (s.onEvent occurs f).rgc = r := by
  have leads : Leads { cru := true, rgc := true } (Work.begin s) ((Work.begin s).rgcEvent r n) :=
    (Leads.refl _).rgcEvent rfl rfl _ _
  rw [onEvent_occurs started h, hf]
  have others := ((Work.begin s).rgcEvent r n).finish_others
  exact ⟨Claims.regimeOnly_of_leads leads others, linkKept_finish (leads.untouched.link rfl),
    (congrArg State.rgc others).trans (Work.rgcEvent_rgc _ _ _)⟩

/-- R29, R38: a change of the hold alone posts the REGIME notice and hands nothing on. -/
theorem rgcEvent_hold {w : Work} (idle : w.idle) {h : Bool} (changed : w.rgc.hold ≠ h) :
    w.rgcEvent { w.rgc with hold := h } {} =
      (w.setRgc { w.rgc with hold := h }).post .regime (regimeBody (w.setRgc { w.rgc with hold := h }).toState) := by
  have unnoticed (f : Nat) : floorNoticed (w.rgc.floor f) (Rgc.floor { w.rgc with hold := h } f) = false := by
    simp [floorNoticed, Rgc.floor]
  have noticed : regimeNoticed w.rgc { w.rgc with hold := h } = true := by simp [regimeNoticed, changed]
  have posted : (w.setRgc { w.rgc with hold := h }).postRegime w.rgc {} =
      (w.setRgc { w.rgc with hold := h }).post .regime (regimeBody (w.setRgc { w.rgc with hold := h }).toState) := by
    simp [Work.postRegime, Work.postFloors, unnoticed, noticed]
  have kept : ∀ v : Work, v.idle → v.rgc = { w.rgc with hold := h } → v.handOff w.rgc {} = v := by
    intro v hv hr
    have phases (f : Nat) : (v.rgc.floor f).phase = (w.rgc.floor f).phase := by rw [hr]; rfl
    have fires (f : Nat) : (v.rgc.floor f).fireState = (w.rgc.floor f).fireState := by rw [hr]; rfl
    have lobbies (f : Nat) : (v.rgc.floor f).lobbyAlarm = (w.rgc.floor f).lobbyAlarm := by rw [hr]; rfl
    have origin : v.rgc.latestOrigin = w.rgc.latestOrigin := by rw [hr]
    have mute : v.rgc.muteUntil = w.rgc.muteUntil := by rw [hr]
    simp [Work.handOff, phases, fires, lobbies, origin, mute, v.druPhases_nil hv.2.2.1, Work.cruPart,
      Work.endEvent_idle v hv, Work.retargetChanged_same]
  unfold Work.rgcEvent
  rw [posted]
  exact kept _ idle rfl

/-! ## The entry to GENERAL (R40, R41) -/

/-- R25: the regime record of a start without a cause floor, before the phases are set. -/
def Rgc.cleared (r : Rgc) : Rgc :=
  { r with state := .general, clock := 0, stats := .zero, latestOrigin := none, origins := 0, muteUntil := none }

theorem Rgc.enterGeneral_of_active {m : Memory} {r : Rgc} (h : r.state = .active) : r.enterGeneral m = r.entryGeneral m := by
  simp only [Rgc.enterGeneral, h]

theorem Rgc.enterGeneral_starts {m : Memory} {r : Rgc} (h : r.state ≠ .general) (h' : r.state ≠ .active) :
    r.enterGeneral m = (r.cleared.startPhases m).entryGeneral m := by
  cases state : r.state with
  | quiet => simp only [Rgc.enterGeneral, state]; rfl
  | alerted => simp only [Rgc.enterGeneral, state]; rfl
  | active => exact absurd state h'
  | general => exact absurd state h

/-- R26, R41: each floor of a regime that starts in GENERAL. -/
theorem Rgc.floor_starts_general (m : Memory) (r : Rgc) {f : Nat} (hf : f < 32) :
    ((r.cleared.startPhases m).entryGeneral m).floor f =
      if directExit m f then (r.floor f).evacuate .direct 0
      else if floorPresent m f then
        Floor.evacuate { r.floor f with phase := .alert, evacuateAt := unscheduled, schedRank := 0 } .general 0
      else r.floor f := by
  have floor : (r.cleared.startPhases m).floor f = _ := r.cleared.floor_startPhases m hf
  rw [Rgc.floor_entryGeneral _ _ hf, floor]
  by_cases direct : directExit m f = true
  · simp [direct, Floor.evacuate, Rgc.cleared, Rgc.floor]
  · by_cases present : floorPresent m f = true
    · simp [direct, present, Rgc.cleared, Rgc.floor]
      rfl
    · simp [direct, present, Rgc.cleared, Rgc.floor]

/-- R40, R41: the regime record that the entry to GENERAL leaves. -/
theorem Rgc.enterGeneral_record {m : Memory} {r : Rgc} (h : r.state ≠ .general) :
    (r.enterGeneral m).state = .general ∧ (r.enterGeneral m).queue = [] ∧ (r.enterGeneral m).hold = r.hold ∧
      (r.enterGeneral m).muteUntil = none ∧ (r.enterGeneral m).clock = if r.state = .active then r.clock else 0 := by
  by_cases active : r.state = .active
  · rw [Rgc.enterGeneral_of_active active, if_pos active]
    exact ⟨rfl, rfl, rfl, rfl, rfl⟩
  · rw [Rgc.enterGeneral_starts h active, if_neg active]
    exact ⟨rfl, rfl, rfl, rfl, rfl⟩

/-- R41: each floor at the entry from ACTIVE. -/
theorem Rgc.floor_enterGeneral_of_active {m : Memory} {r : Rgc} (h : r.state = .active) {f : Nat} (hf : f < 32) :
    (r.enterGeneral m).floor f =
      if floorPresent m f && (r.floor f).phase = .alert then (r.floor f).evacuate .general r.clock else r.floor f := by
  rw [Rgc.enterGeneral_of_active h, Rgc.floor_entryGeneral m r hf]

/-- R26, R41: each floor at an entry that starts the regime. -/
theorem Rgc.floor_enterGeneral_starts {m : Memory} {r : Rgc} (h : r.state ≠ .general) (h' : r.state ≠ .active) {f : Nat}
    (hf : f < 32) : (r.enterGeneral m).floor f =
      if directExit m f then (r.floor f).evacuate .direct 0
      else if floorPresent m f then
        Floor.evacuate { r.floor f with phase := .alert, evacuateAt := unscheduled, schedRank := 0 } .general 0
      else r.floor f := by
  rw [Rgc.enterGeneral_starts h h', Rgc.floor_starts_general m r hf]

/-! ## The rules, case by case -/

section
variable {w : Work}

theorem generalRule_general (h : w.rgc.state = .general) : generalRule w = ⟨w, .ok, []⟩ := by
  rw [generalRule, if_pos h]

theorem generalRule_enters (h : w.rgc.state ≠ .general) :
    generalRule w = ⟨w.rgcEvent (w.rgc.enterGeneral w.map) { started := !w.rgc.state.running }, .ok, []⟩ := by
  rw [generalRule, if_neg h]

theorem holdRule_quiet (h : w.rgc.state = .quiet) : holdRule w = ⟨w, .refusedState, []⟩ := by
  rw [holdRule, if_pos h]; rfl

theorem holdRule_held (h : w.rgc.state ≠ .quiet) (held : w.rgc.hold = true) : holdRule w = ⟨w, .ok, []⟩ := by
  rw [holdRule, if_neg h, if_pos held]

theorem holdRule_holds (h : w.rgc.state ≠ .quiet) (clear : w.rgc.hold = false) :
    holdRule w = ⟨w.rgcEvent { w.rgc with hold := true } {}, .ok, []⟩ := by
  rw [holdRule, if_neg h, if_neg (by simp [clear])]

theorem releaseRule_quiet (h : w.rgc.state = .quiet) : releaseRule w = ⟨w, .refusedState, []⟩ := by
  rw [releaseRule, if_pos h]; rfl

theorem releaseRule_clear (h : w.rgc.state ≠ .quiet) (clear : w.rgc.hold = false) : releaseRule w = ⟨w, .ok, []⟩ := by
  rw [releaseRule, if_neg h, if_neg (by simp [clear])]

theorem releaseRule_releases (h : w.rgc.state ≠ .quiet) (held : w.rgc.hold = true) :
    releaseRule w = ⟨w.rgcEvent (({ w.rgc with hold := false } : Rgc).promote w.map) {}, .ok, []⟩ := by
  rw [releaseRule, if_neg h, if_pos held]

variable {body : List Byte}

theorem muteRule_out_of_range (h : word16At body 0 < 30 ∨ 900 < word16At body 0) :
    muteRule w body = ⟨w, .refusedRange, []⟩ := by
  rw [muteRule, if_pos h]; rfl

theorem muteRule_inactive (h : ¬ (word16At body 0 < 30 ∨ 900 < word16At body 0)) (inactive : w.rgc.state ≠ .active) :
    muteRule w body = ⟨w, .refusedState, []⟩ := by
  rw [muteRule, if_neg h, if_pos inactive]; rfl

theorem muteRule_mutes (h : ¬ (word16At body 0 < 30 ∨ 900 < word16At body 0)) (active : w.rgc.state = .active) :
    muteRule w body = ⟨w.rgcEvent { w.rgc with muteUntil := some (min (w.rgc.clock + word16At body 0) 65535) }
      { regimeNotice := true }, .ok, []⟩ := by
  rw [muteRule, if_neg h, if_neg (by simp [active])]

end

/-! ## The clock second (R27, R32, R35, R46) -/

/-- R32: the floors that a clock second queues. -/
def Rgc.dueFloors (m : Memory) (r : Rgc) : List Nat :=
  floorIndices.filter fun f => floorPresent m f ∧ (r.floor f).phase = .alert ∧
    (r.floor f).evacuateAt ≤ r.clock ∧ f ∉ r.queue

theorem Rgc.filter_joins (m : Memory) (r : Rgc) : floorIndices.filter (r.joins m) = r.dueFloors m := by
  refine congrArg (fun p => floorIndices.filter p) (funext fun f => ?_)
  simp [Rgc.joins, Bool.and_assoc]

/-- Promotion neither reads nor writes the statistics, so they may be taken after it. -/
theorem Rgc.second_eq (m : Memory) (r : Rgc) :
    let now : Rgc := { r with clock := min (r.clock + 1) 65535 }
    let p := (({ now with queue := now.queue ++ now.dueFloors m } : Rgc).sortQueue).promote m
    r.second m = { p with stats := ⟨min (r.stats.inserts + (now.dueFloors m).length) 4294967295,
      min (r.stats.occupancy + p.queue.length) 4294967295,
      min (r.stats.nonempty + if p.queue = [] then 0 else 1) 4294967295⟩ } := by
  intro now p
  set queued : Rgc := ({ now with queue := now.queue ++ now.dueFloors m } : Rgc).sortQueue with hq
  have joined : now.joinDue m =
      { queued with stats := { r.stats with inserts := satAdd statLimit r.stats.inserts (now.dueFloors m).length } } := by
    rw [Rgc.joinDue, Rgc.filter_joins]
  have promoted : (now.joinDue m).promote m =
      { p with stats := { r.stats with inserts := satAdd statLimit r.stats.inserts (now.dueFloors m).length } } := by
    rw [joined]
    exact promoteSteps_stats m queued.queue queued _
  refine (congrArg (fun q : Rgc => ({ q with stats := q.stats.second q.queue.length } : Rgc)) promoted).trans ?_
  simp only [Stats.second, satAdd, statLimit, List.length_eq_zero_iff]

theorem clearDue_iff (s : State) (f : Nat) : s.clearDue f = true ↔
    clearTime s.map ≠ 0 ∧ floorPresent s.map f = true ∧ (s.floor f).phase = .evacuate ∧
      ∃ e, (s.floor f).evacuatingSince = some e ∧ min (e + clearTime s.map) 65535 ≤ s.rgc.clock + 1 := by
  simp only [State.clearDue, Rgc.reaches, Bool.and_eq_true, decide_eq_true_eq, Option.any_eq_true, and_assoc]

theorem autoGeneralDue_iff (s : State) : s.autoGeneralDue = true ↔
    s.rgc.state = .active ∧ autoGeneralTime s.map ≠ 0 ∧ autoGeneralTime s.map ≤ s.rgc.clock + 1 := by
  simp only [State.autoGeneralDue, Rgc.reaches, Bool.and_eq_true, decide_eq_true_eq, and_assoc]

theorem muteDue_iff (s : State) : s.muteDue = true ↔ ∃ e, s.rgc.muteUntil = some e ∧ e ≤ s.rgc.clock + 1 := by
  simp only [State.muteDue, Rgc.reaches, decide_eq_true_eq, Option.any_eq_true]

theorem Rgc.promote_rest (m : Memory) (r : Rgc) : { r.promote m with queue := r.queue, floors := r.floors } = r :=
  (r.promote_promotes m).elim fun _ p => p.rest

end Sys2Proof.Machine

namespace Sys2Proof.Claims

open Sys2Proof Sys2Proof.Machine

/-- Settles O33: GENERAL is entered from ACTIVE, or by a regime start. -/
theorem generalEvacuationEntersGeneral : Obligations.GeneralEvacuationEntersGeneral := by
  intro s req hs empty
  have length : lengthIs 0 req.body = true := by rw [empty]; rfl
  refine ⟨fun general => ?_, fun other => ?_⟩
  · exact congrArg Host.Outcome.next (serve_plain hs length (generalRule_general general))
  · obtain ⟨done, only, rgc⟩ := serve_rgcEvent (rule := fun w _ => generalRule w) hs length (generalRule_enters other)
    obtain ⟨state, queue, hold, mute, clock⟩ := s.rgc.enterGeneral_record (m := s.map) other
    have floor (f : Nat) : (s.serveEmpty 0x24 generalRule).floor f = (s.rgc.enterGeneral s.map).floor f :=
      congrArg (fun r : Rgc => r.floor f) rgc
    refine ⟨_, rfl, done, only, (congrArg Rgc.state rgc).trans state, (congrArg Rgc.queue rgc).trans queue,
      (congrArg Rgc.hold rgc).trans hold, (congrArg Rgc.muteUntil rgc).trans mute, (congrArg Rgc.clock rgc).trans clock,
      fun f hf present reached => ?_, fun f hf present active alert => ?_, fun f hf direct inactive => ?_⟩
    · rw [floor f]
      by_cases active : s.rgc.state = .active
      · rw [Rgc.floor_enterGeneral_of_active active hf]
        split
        · exact .inl rfl
        · have unalerted : (s.rgc.floor f).phase ≠ .alert := fun alert => by simp_all
          have left : (s.rgc.floor f).phase ≠ .none := reached.resolve_left (not_not_intro active)
          cases phase : (s.rgc.floor f).phase <;> simp_all
      · rw [Rgc.floor_enterGeneral_starts other active hf, if_pos present]
        split <;> exact .inl rfl
    · rw [floor f, Rgc.floor_enterGeneral_of_active active hf,
        if_pos (by simp [present, show (s.rgc.floor f).phase = .alert from alert])]
      exact ⟨rfl, rfl⟩
    · rw [floor f, Rgc.floor_enterGeneral_starts other inactive hf, if_pos direct]
      rfl

/-- Settles O32: each is an event of RGC with the record of its rule, or none. -/
theorem regimeClockAndTimers : Obligations.RegimeClockAndTimers := by
  intro s req
  refine ⟨fun still => ?_, fun started running => ?_, fun hs length => ?_, fun started due => ?_, fun ahead => ?_,
    fun f started timed present evacuating due => ?_, fun f other => ?_, fun started active timed reached => ?_,
    fun other => ?_⟩
  · exact congrArg Host.Outcome.next (onEvent_not still _)
  · intro clock due queued p
    obtain ⟨only, kept, rgc⟩ := onEvent_rgcEvent (n := {}) started running
      (f := fun w => w.rgcEvent (w.rgc.second w.map) {}) rfl
    have rest : { p with queue := _, floors := _ } = queued.sortQueue := queued.sortQueue.promote_rest s.map
    refine ⟨_, rfl, only, kept, ?_, ?_, rgc.trans (s.rgc.second_eq s.map)⟩
    · exact ((congrArg Rgc.state rgc).trans (congrArg Rgc.state (s.rgc.second_eq s.map))).trans (congrArg Rgc.state rest :)
    · exact ((congrArg Rgc.muteUntil rgc).trans (congrArg Rgc.muteUntil (s.rgc.second_eq s.map))).trans
        (congrArg Rgc.muteUntil rest :)
  · have sized : lengthIs 2 req.body = true := decide_eq_true length
    intro time
    refine ⟨fun out => ?_, fun low high inactive => ?_, fun low high active => ?_⟩
    · exact congrArg Host.Outcome.next (serve_plain hs sized (muteRule_out_of_range out))
    · exact congrArg Host.Outcome.next (serve_plain hs sized
        (muteRule_inactive (not_or.mpr ⟨low.not_gt, high.not_gt⟩) inactive))
    · exact ⟨_, rfl, serve_rgcEvent hs sized (muteRule_mutes (not_or.mpr ⟨low.not_gt, high.not_gt⟩) active)⟩
  · exact ⟨_, rfl, onEvent_rgcEvent started ((muteDue_iff s).mpr due) rfl⟩
  · refine congrArg Host.Outcome.next (onEvent_not ?_ _)
    rw [← Bool.not_eq_true, muteDue_iff]
    exact fun ⟨e, until_, reached⟩ => (ahead e until_).not_ge reached
  · exact ⟨_, rfl, onEvent_rgcEvent started ((clearDue_iff s f).mpr ⟨timed, present, evacuating, due⟩) rfl⟩
  · refine congrArg Host.Outcome.next (onEvent_not ?_ _)
    rw [← Bool.not_eq_true, clearDue_iff]
    rintro ⟨timed, present, evacuating, e, since, reached⟩
    obtain untimed | absent | phase | ahead := other
    · exact timed untimed
    · simp [present] at absent
    · exact phase evacuating
    · exact (ahead e since).not_ge reached
  · obtain ⟨only, kept, rgc⟩ := onEvent_rgcEvent (n := {}) started ((autoGeneralDue_iff s).mpr ⟨active, timed, reached⟩)
      (f := fun w => w.rgcEvent (w.rgc.enterGeneral w.map) {}) rfl
    rw [Rgc.enterGeneral_of_active (by exact active)] at rgc
    refine ⟨_, rfl, only, kept, congrArg Rgc.state rgc, congrArg Rgc.queue rgc, (congrArg Rgc.clock rgc :),
      fun f hf present alert => ?_⟩
    refine (congrArg (fun r : Rgc => (r.floor f).cause) rgc).trans ?_
    rw [Rgc.floor_entryGeneral _ _ hf]
    exact congrArg Floor.cause (if_pos (Bool.and_eq_true_iff.mpr ⟨present, decide_eq_true alert⟩))
  · refine congrArg Host.Outcome.next (onEvent_not ?_ _)
    rw [← Bool.not_eq_true, autoGeneralDue_iff]
    rintro ⟨active, timed, reached⟩
    obtain inactive | untimed | ahead := other
    · exact inactive active
    · exact timed untimed
    · exact ahead.not_ge reached

/-- Settles O34. -/
theorem holdAndRelease : Obligations.HoldAndRelease := by
  intro s req empty
  have length : lengthIs 0 req.body = true := by rw [empty]; rfl
  refine ⟨fun hs => ⟨fun quiet => ?_, fun running held => ?_, fun running clear => ?_⟩,
    fun hs => ⟨fun quiet => ?_, fun running clear => ?_, fun running held => ?_⟩⟩
  · exact congrArg Host.Outcome.next (serve_plain hs length (holdRule_quiet quiet))
  · exact congrArg Host.Outcome.next (serve_plain hs length (holdRule_held running held))
  · have idle : (Work.begin s).idle := ⟨rfl, rfl, rfl, rfl, rfl, rfl, rfl, rfl, rfl, rfl⟩
    have holds := (holdRule_holds (w := Work.begin s) running clear).trans
      (congrArg (fun w => (⟨w, .ok, []⟩ : Answer)) (rgcEvent_hold idle (by simpa using clear)))
    refine congrArg Host.Outcome.next (serve_quiet (rule := fun w _ => holdRule w) hs length holds ?_ rfl)
    exact (congrArg Hlc.mode (Hlc.post_link s.hlc .regime _)).trans hs.2.2
  · exact congrArg Host.Outcome.next (serve_plain hs length (releaseRule_quiet quiet))
  · exact congrArg Host.Outcome.next (serve_plain hs length (releaseRule_clear running clear))
  · exact ⟨_, rfl, serve_rgcEvent hs length (releaseRule_releases running held)⟩

end Sys2Proof.Claims
end

section
/-! PROOFS. Chapters 1 and 2: the zones that a RESET_REGIME frees and what it leaves of the regime (R13, R20, R43 to
R45). -/

namespace Sys2Proof.Machine

/-! ## Freeing (R13) -/

theorem settledIn_idem (r : Zone) (e : Eval) : (r.settledIn e).settledIn e = r.settledIn e := rfl

theorem zone_freeZone (w : Work) (y z : Nat) (hz : z < 128) :
    (w.freeZone y).zone z = if z = y then (w.zone z).settledIn .quiet else w.zone z := by
  by_cases same : z = y
  · subst same
    rw [if_pos rfl]
    exact w.setZone_zone_self z _ hz
  · rw [if_neg same]
    exact w.setZone_zone_ne y z _ (Ne.symm same)

theorem zone_foldl_freeZone (l : List Nat) (w : Work) {z : Nat} (hz : z < 128) :
    (l.foldl Work.freeZone w).zone z = if z ∈ l then (w.zone z).settledIn .quiet else w.zone z := by
  induction l generalizing w with
  | nil => simp
  | cons y l ih =>
    rw [List.foldl_cons, ih, zone_freeZone w y z hz]
    by_cases same : z = y <;> by_cases later : z ∈ l <;> simp [same, later, settledIn_idem]

theorem zone_freeZones (w : Work) {z : Nat} (hz : z < 128) : w.freeZones.zone z =
    if (w.zone z).eval = .confirmed ∧ (w.zone z).condition ≠ .alarm then (w.zone z).settledIn .quiet else w.zone z := by
  rw [Work.freeZones, zone_foldl_freeZone _ w hz]
  simp [zoneIndices, hz, Zone.freeable]

theorem Leads.freeZones {n : Reach} {a w : Work} (h : Leads n a w) (hz : n.zev = true) : Leads n a w.freeZones :=
  .foldl _ h fun _ _ h => h.freeZone hz _

/-! ## The return to QUIET (R44) and the floors re-derived (R20) -/

theorem Rgc.floor_toQuiet (m : Memory) (r : Rgc) {f : Nat} (hf : f < 32) :
    (r.toQuiet m).floor f =
      let x := if floorPresent m f then
          { r.floor f with
            phase := .none, cause := none, evacuatingSince := none, evacuateAt := unscheduled, schedRank := 0 }
        else r.floor f
      { x with alarmLatch := false, lobbyAlarm := false, firstAlarmAt := none, alarmZones := 0 } := by
  rw [show (r.toQuiet m).floor f = _ from Rgc.floor_mapFloors _ _ _ hf, Rgc.floor_mapFloors _ _ _ hf]
  rfl

theorem fireSet_congr {m : Memory} {r q : Rgc} (h : ∀ f < 32, (r.floor f).fireState = (q.floor f).fireState)
    (st : FireState) : fireSet m r st = fireSet m q st := by
  refine congrArg floorSetWhere (funext fun f => ?_)
  by_cases present : floorPresent m f = true
  · rw [h f (floorPresent_lt present)]
  · simp [present]

theorem fireSet_toQuiet (m n : Memory) (r : Rgc) (st : FireState) : fireSet m (r.toQuiet n) st = fireSet m r st :=
  fireSet_congr (fun f hf => by rw [r.floor_toQuiet n hf]; dsimp only; split <;> rfl) st

theorem phase_rederive (s : State) {f : Nat} (hf : f < 32) : (s.rederive.floor f).phase = (s.floor f).phase := by
  rw [State.rederive, Rgc.floor_mapFloors _ _ _ hf, if_pos rfl, State.rederiveFloor]
  split <;> rfl

theorem confirmedCount_congr {s t : State} (zev : t.zev = s.zev) (map : t.map = s.map) (p : ZoneClass → Bool) :
    t.confirmedCount p = s.confirmedCount p := by
  have zone : t.zone = s.zone := funext fun z => congrArg (fun v : Zev => vget v.zones z Zone.reset) zev
  rw [State.confirmedCount, State.confirmedCount, zone, map]

theorem nothingRemains_iff (s : State) (r : Rgc) : s.nothingRemains r = true ↔
    fireSet s.map r .alarm = 0 ∧ fireSet s.map r .preAlarm = 0 ∧ s.confirmedCount ZoneClass.isMachine = 0 ∧
      s.confirmedCount ZoneClass.isFloorless = 0 := by
  simp only [State.nothingRemains, Bool.and_eq_true, decide_eq_true_eq, and_assoc]

/-! ## The rule (R43 to R45) -/

/-- R44, R45: the regime record that RESET_REGIME leaves once the zones are freed. -/
def State.resetRecord (s : State) : Rgc := if s.nothingRemains s.rederive then s.rederive.toQuiet s.map else s.rederive

theorem resetRule_quiet {w : Work} (h : w.rgc.state = .quiet) : resetRule w = ⟨w, .refusedState, []⟩ := by
  rw [resetRule, if_pos h]; rfl

theorem resetRule_resets {w : Work} (h : w.rgc.state ≠ .quiet) :
    ∃ n, resetRule w =
      let reset := w.freeZones.rgcEvent w.freeZones.resetRecord n
      ⟨reset, if w.freeZones.nothingRemains w.freeZones.rederive then .ok else .partly,
        resetFields reset.toState (zoneIndices.filter fun z => (w.zone z).freeable).length⟩ := by
  refine ⟨if w.freeZones.nothingRemains w.freeZones.rederive then { returned := true } else {}, ?_⟩
  rw [resetRule, if_neg h]
  dsimp only [State.resetRecord]
  split <;> rfl

theorem fireSet_resetRecord (s : State) (m : Memory) (st : FireState) :
    fireSet m s.resetRecord st = fireSet m s.rederive st := by
  unfold State.resetRecord
  split
  · exact fireSet_toQuiet _ _ _ _
  · rfl

end Sys2Proof.Machine

namespace Sys2Proof.Claims

open Sys2Proof Sys2Proof.Machine

/-- Settles O36: the zones freed, the floors re-derived, and the return to QUIET where nothing remains. -/
theorem resetRegimeFreesAndReturns : Obligations.ResetRegimeFreesAndReturns := by
  intro s req hs empty
  have length : lengthIs 0 req.body = true := by rw [empty]; rfl
  refine ⟨fun quiet => congrArg Host.Outcome.next (serve_plain hs length (resetRule_quiet quiet)), fun running => ?_⟩
  obtain ⟨freed, hfreed⟩ : ∃ freed, freed = (Work.begin s).freeZones := ⟨_, rfl⟩
  obtain ⟨n, rule⟩ := resetRule_resets (w := Work.begin s) running
  dsimp only at rule
  rw [← hfreed] at rule
  have freeing : Leads { cru := true, rgc := true, zev := true } (Work.begin s) freed :=
    hfreed ▸ (Leads.refl _).freeZones rfl
  have handing : Leads { cru := true, rgc := true } freed (freed.rgcEvent freed.resetRecord n) :=
    (Leads.refl _).rgcEvent rfl rfl _ _
  obtain ⟨done, others, -⟩ := serve_event (rule := fun w _ => resetRule w) hs length rule
    (freeing.rgcEvent rfl rfl _ _) rfl
  obtain ⟨t, ht⟩ : ∃ t, t = s.serve 0x29 (lengthIs 0) fun w _ => resetRule w := ⟨_, rfl⟩
  rw [← ht] at done others
  have zev : t.zev = freed.zev := (congrArg State.zev others :).trans (handing.untouched.zev rfl)
  have freedMap : freed.map = s.map := freeing.untouched.map
  have freedRgc : freed.rgc = s.rgc := hfreed ▸ ((Leads.refl (n := { zev := true }) (Work.begin s)).freeZones rfl).untouched.rgc rfl
  have mst : t.mst = s.mst := (congrArg State.mst others :).trans ((handing.untouched.mst rfl).trans (freeing.untouched.mst rfl))
  have uptime : t.uptime = s.uptime :=
    (congrArg State.uptime others :).trans ((handing.untouched.uptime rfl).trans (freeing.untouched.uptime rfl))
  have rgc : t.rgc = freed.resetRecord := (congrArg State.rgc others :).trans (Work.rgcEvent_rgc _ _ _)
  have map : t.map = freed.map := (congrArg Mst.map mst).trans freedMap.symm
  have fire (st : FireState) : fireSet s.map t.rgc st = fireSet freed.map freed.rederive st := by
    rw [rgc, freedMap, fireSet_resetRecord]
  have count (p : ZoneClass → Bool) : t.confirmedCount p = freed.confirmedCount p := confirmedCount_congr zev map p
  have freeable : (fun z => (s.zone z).freeable) = fun z => decide ((s.zone z).eval = .confirmed ∧
      (s.zone z).condition ≠ .alarm) := by
    funext z; simp [Zone.freeable]
  refine ⟨t, freed.nothingRemains freed.rederive, congrArg Host.Outcome.next ht.symm, ?_, fun z hz => ?_, mst, uptime, ?_, fun ok => ?_, fun partly => ?_⟩
  · have fields (k : Nat) : resetFields (freed.rgcEvent freed.resetRecord n).toState k = resetFields t k :=
      (congrArg (fun u : State => resetFields u k) others.symm :)
    rw [fields, show (fun z => ((Work.begin s).zone z).freeable) = _ from freeable, resetFields, map, freedMap] at done
    exact done
  · show vget t.zev.zones z Zone.reset = _
    rw [zev, hfreed]
    exact zone_freeZones (Work.begin s) hz
  · rw [fire, fire, count, count]
    exact nothingRemains_iff _ _
  · have record : t.rgc = freed.rederive.toQuiet freed.map := rgc.trans (if_pos ok)
    have kept {α : Type} (p : Rgc → α) (h : p (freed.rederive.toQuiet freed.map) = p freed.rgc) : p t.rgc = p s.rgc := by
      rw [record, h, freedRgc]
    have fields := congrArg (fun r : Rgc => (r.state, r.queue, r.hold, r.muteUntil)) record
    simp only [Prod.mk.injEq] at fields
    obtain ⟨state, queue, hold, mute⟩ := fields
    refine ⟨state, queue, hold, mute, kept Rgc.clock rfl, kept Rgc.latestOrigin rfl, kept Rgc.origins rfl,
      fun f hf present => ?_⟩
    have floor : t.floor f = _ := (congrArg (fun r : Rgc => r.floor f) record).trans (Rgc.floor_toQuiet _ _ hf)
    rw [floor, freedMap, if_pos present]
    exact ⟨rfl, rfl, rfl, rfl, rfl⟩
  · have record : t.rgc = freed.rederive := rgc.trans (if_neg (by simp [partly]))
    have kept {α : Type} (p : Rgc → α) (h : p freed.rederive = p freed.rgc) : p t.rgc = p s.rgc := by
      rw [record, h, freedRgc]
    refine ⟨kept Rgc.state rfl, kept Rgc.queue rfl, fun f hf => ?_⟩
    have floor : (t.floor f).phase = (freed.floor f).phase :=
      (congrArg (fun r : Rgc => (r.floor f).phase) record).trans (phase_rederive _ hf)
    rw [floor]
    exact congrArg (fun r : Rgc => (r.floor f).phase) freedRgc

end Sys2Proof.Claims
end

section
/-! PROOFS. Chapters 1 and 2: what no command but a reset, a ZONE_DISABLE and a RESET_REGIME can end, a confirmation
(R11) and a running regime (R22, R41, R44). -/

namespace Sys2Proof.Machine

/-! ## Regime records that keep a running regime -/

/-- From `r` to `q` a running regime runs on, and a GENERAL one stays GENERAL. -/
def Rgc.RunsOn (r q : Rgc) : Prop :=
  (r.state.running = true → q.state.running = true) ∧ (r.state = .general → q.state = .general)

theorem Rgc.RunsOn.of_state {r q : Rgc} (h : q.state = r.state) : r.RunsOn q := by
  unfold Rgc.RunsOn; rw [h]; exact ⟨id, id⟩

theorem Rgc.RunsOn.of_general {r q : Rgc} (h : q.state = .general) : r.RunsOn q := by
  unfold Rgc.RunsOn; rw [h]; exact ⟨fun _ => rfl, fun _ => rfl⟩

theorem Rgc.RunsOn.of_not_running {r : Rgc} (q : Rgc) (h : r.state.running = false) : r.RunsOn q :=
  ⟨fun k => by simp [h] at k, fun k => by simp [k, RegimeState.running] at h⟩

theorem Rgc.runsOn_promote (m : Memory) (r : Rgc) : r.RunsOn (r.promote m) :=
  .of_state (congrArg Rgc.state (r.promote_rest m) :)

theorem Rgc.runsOn_second (m : Memory) (r : Rgc) : r.RunsOn (r.second m) := by
  refine .of_state ?_
  rw [r.second_eq m]
  exact (congrArg Rgc.state (Rgc.promote_rest m _) :)

theorem Rgc.runsOn_enterGeneral (m : Memory) (r : Rgc) : r.RunsOn (r.enterGeneral m) := by
  by_cases general : r.state = .general
  · have same : r.enterGeneral m = r := by simp only [Rgc.enterGeneral, general]
    exact .of_state (congrArg Rgc.state same)
  · exact .of_general (Rgc.enterGeneral_record general).1

theorem Rgc.runsOn_reexamine (m : Memory) (r : Rgc) : r.RunsOn (r.reexamine m) := by
  cases state : r.state with
  | quiet => exact .of_not_running _ (by rw [state]; rfl)
  | alerted => exact .of_not_running _ (by rw [state]; rfl)
  | active => exact .of_state (by simp only [Rgc.reexamine, state])
  | general => exact .of_state (by simp only [Rgc.reexamine, state])

theorem Rgc.runsOn_confirmFloor (m : Memory) (escalating lobby : Bool) (f : Nat) (r : Rgc) :
    r.RunsOn (r.confirmFloor m escalating lobby f) := by
  cases running : r.state.running with
  | false => exact .of_not_running _ running
  | true =>
    refine .of_state ?_
    show (if r.state.running then _ else _ : Rgc).state = r.state
    rw [if_pos running]
    split <;> rfl

/-! ## Steps that end neither -/

/-- From `s` to `t` every CONFIRMED zone stays CONFIRMED and a running regime runs on. -/
structure Calm (s t : State) : Prop where
  zones : ∀ z, (s.zone z).eval = .confirmed → (t.zone z).eval = .confirmed
  regime : s.rgc.RunsOn t.rgc

theorem Calm.of_same {s t : State} (zev : t.zev = s.zev) (rgc : t.rgc = s.rgc) : Calm s t where
  zones z h := by rw [State.zone, zev]; exact h
  regime := .of_state (congrArg Rgc.state rgc)

theorem Calm.refl (s : State) : Calm s s := .of_same rfl rfl

theorem Calm.trans {s t u : State} (h : Calm s t) (k : Calm t u) : Calm s u where
  zones z c := k.zones z (h.zones z c)
  regime := ⟨fun c => k.regime.1 (h.regime.1 c), fun c => k.regime.2 (h.regime.2 c)⟩

/-- The reach of what neither ZEV nor RGC does. -/
def Reach.noFire : Reach :=
  { trc := true, link := true, cru := true, poll := true, player := true, store := true, uptime := true }

theorem Calm.of_leads {v w : Work} (h : Leads .noFire v w) : Calm v.toState w.toState :=
  .of_same (h.untouched.zev rfl) (h.untouched.rgc rfl)

theorem Calm.of_edits {n : Reach} {s t : State} (h : Edits n s t) (zev : n.zev = false) (rgc : n.rgc = false) : Calm s t :=
  .of_same (h.untouched.zev zev) (h.untouched.rgc rgc)

theorem Calm.foldl {α : Type} (f : Work → α → Work) (h : ∀ w a, Calm w.toState (f w a).toState) (l : List α) (w : Work) :
    Calm w.toState (l.foldl f w).toState := by
  induction l generalizing w with
  | nil => exact .refl _
  | cons a l ih => exact (h w a).trans (ih _)

theorem Calm.setZone (w : Work) (z : Nat) (r : Zone) (h : (w.zone z).eval = .confirmed → r.eval = .confirmed) :
    Calm w.toState (w.setZone z r).toState where
  zones y c := by
    by_cases same : z = y
    · subst same
      by_cases inside : z < 128
      · rw [Work.setZone_zone_self _ _ _ inside]; exact h c
      · rw [State.zone, Work.setZone_zev, vset_of_le _ _ _ (by omega)]; exact c
    · rw [Work.setZone_zone_ne _ _ _ _ same]; exact c
  regime := .of_state rfl

theorem Calm.rgcEvent (w : Work) (r : Rgc) (n : News) (h : w.rgc.RunsOn r) : Calm w.toState (w.rgcEvent r n).toState where
  zones z c := by
    have zev : (w.rgcEvent r n).zev = w.zev :=
      ((Leads.refl (n := { cru := true, rgc := true }) w).rgcEvent rfl rfl r n).untouched.zev rfl
    rw [State.zone, zev]; exact c
  regime := by rw [Work.rgcEvent_rgc]; exact h

theorem Calm.post (w : Work) (k : NoticeKind) (body : List Byte) : Calm w.toState (w.post k body).toState :=
  .of_same rfl rfl

/-! ## ZEV's mechanisms -/

theorem Calm.zoneHandOff (w : Work) (z : Nat) (e : Eval) : Calm w.toState (w.zoneHandOff z e).toState := by
  unfold Work.zoneHandOff
  dsimp only
  split
  next f =>
    split
    · exact .rgcEvent _ _ _ (Rgc.runsOn_confirmFloor _ _ _ _ _)
    · split
      · exact .refl _
      · refine .rgcEvent _ _ _ ?_
        exact Rgc.runsOn_reexamine _ (w.rgc.mapFloors _ _)
  next =>
    split
    · split
      · exact .refl _
      · exact .rgcEvent _ _ _ (Rgc.runsOn_enterGeneral _ _)
    · exact .refl _
  next b =>
    split
    · refine .rgcEvent _ _ _ ?_
      cases running : w.rgc.state.running with
      | false => exact .of_not_running _ running
      | true => exact .of_state rfl
    · exact .refl _

theorem Calm.zoneChanged (w : Work) (z : Nat) (r : Zone) (cause : ZoneCause)
    (h : (w.zone z).eval = .confirmed → r.eval = .confirmed) : Calm w.toState (w.zoneChanged z r cause).toState := by
  have set := (Calm.setZone w z r h).trans (.post (w.setZone z r) .zone (zoneBody (w.setZone z r).toState z cause))
  unfold Work.zoneChanged
  dsimp only
  split
  · exact set
  · exact set.trans (.zoneHandOff _ z r.eval)

theorem evaluate_of_confirmed (s : State) (z : Nat) (before : Condition) {r : Zone} (h : r.eval = .confirmed) :
    s.evaluate z before r = r := by
  simp only [State.evaluate, h]

theorem Calm.zoneReport (w : Work) (z : Nat) (c : Condition) : Calm w.toState (w.zoneReport z c).toState := by
  unfold Work.zoneReport
  dsimp only
  split
  · exact .refl _
  · refine (Calm.of_leads ((Leads.refl w).zoneDetails z (w.zone z).condition c)).trans (.zoneChanged _ z _ _ fun confirmed => ?_)
    have stays : (w.zone z).eval = .confirmed := by simpa [Work.zoneDetails] using confirmed
    rw [evaluate_of_confirmed _ _ _ (by exact stays)]
    exact stays

theorem Calm.setPanelStale (w : Work) (p : Nat) (stale : Bool) : Calm w.toState (w.setPanelStale p stale).toState :=
  .foldl _ (fun w z => .setZone w z { w.zone z with stale := stale } fun c => c) (panelZones p) w

theorem Calm.setPanelTrouble (w : Work) (p address : Nat) (flag : Bool) :
    Calm w.toState (w.setPanelTrouble p address flag).toState := by
  unfold Work.setPanelTrouble
  rw [Work.reportChange_toState]
  exact ⟨fun _ c => c, .of_state rfl⟩

theorem Calm.panelReport (w : Work) (p address : Nat) (conditions : List Condition) (trouble : Bool) :
    Calm w.toState (w.panelReport p address conditions trouble).toState :=
  ((Calm.setPanelStale w p false).trans (.foldl _ (fun w z => .zoneReport w z _) _ _)).trans (.setPanelTrouble _ _ _ _)

theorem Calm.restartZone (w : Work) (z : Nat) (h : (w.zone z).eval ≠ .confirmed) :
    Calm w.toState (w.restartZone z).toState :=
  ((Calm.setZone w z _ fun c => absurd c h).trans (.post _ _ _)).trans (.zoneHandOff _ _ _)

theorem Calm.zevAtWrite (w : Work) (old : Memory) : Calm w.toState (w.zevAtWrite old).toState := by
  refine .foldl _ (fun w z => ?_) _ w
  unfold Work.zoneAtWrite
  dsimp only
  split
  · exact .refl _
  · split
    · exact .restartZone w z (by simp [*])
    · split
      · exact .restartZone w z (by simp [*])
      · exact .refl _
    · exact .refl _
    · exact .refl _

/-! ## The riser bus -/

theorem Calm.missEvent (w : Work) (e : NodeEntry) : Calm w.toState (w.missEvent e).toState := by
  have entered : Calm w.toState (w.setEntry e.missed).toState := .of_leads ((Leads.refl w).setEntry rfl _)
  unfold Work.missEvent
  dsimp only
  split
  · refine entered.trans ((?_ : Calm _ _).trans (.of_leads (Leads.refl _).endEvent))
    cases owner : e.owner with
    | floor f => exact .of_leads (Leads.joinLost (.foldl _ ((Leads.refl _).report _ _ _) fun _ _ h => h.doorLost _) f)
    | panel p => exact .setPanelStale _ p true
    | car c => exact .of_leads (((Leads.refl _).report _ _ _).carLost rfl c)
    | power => exact .of_leads ((Leads.refl _).report _ _ _).judgeMode48
  · exact entered

theorem Calm.typeWrongEvent (w : Work) (e : NodeEntry) : Calm w.toState (w.typeWrongEvent e).toState :=
  (Calm.of_leads (((Leads.refl w).setEntry rfl _).reportChange _ _ _ _)).trans (.missEvent _ _)

theorem Calm.replyEvent (w : Work) (e : NodeEntry) (cycle : Nat) (r : NodeReply) :
    Calm w.toState (w.replyEvent e cycle r).toState := by
  have conditions := (Leads.refl (n := .noFire) w).settleConditions e r
  unfold Work.replyEvent
  dsimp only
  refine (?_ : Calm _ _).trans (.of_leads (Leads.refl _).endEvent)
  cases owner : e.owner with
  | floor f => exact .of_leads ((conditions.setEntry rfl _).floorReply f _ _)
  | panel p => exact (Calm.of_leads (conditions.setEntry rfl _)).trans (.panelReport _ _ _ _ _)
  | car c => exact .of_leads ((conditions.setEntry rfl _).liftReply rfl c _ _ _)
  | power => exact .of_leads ((conditions.setEntry rfl _).powerReport _ _)

theorem Calm.entryRemoved (w : Work) (e : NodeEntry) : Calm w.toState (w.entryRemoved e).toState := by
  have told := (((Leads.refl (n := .noFire) w).reportChange .nodeLost e.address (e.state = .lost) false).reportChange
    .nodeType e.address e.typeActive false).reportChange .nodeFault e.address e.nodeFault false
  unfold Work.entryRemoved
  dsimp only
  cases owner : e.owner with
  | floor f => exact .of_leads (.ite (told.speakerRemoved _ _) ((told.speakerRemoved _ _).floorReaddressed _))
  | panel p => exact (Calm.of_leads told).trans ((Calm.setPanelStale _ _ _).trans (.setPanelTrouble _ _ _ _))
  | car c => exact .of_leads told
  | power => exact .of_leads (told.powerRemoved _)

theorem Calm.startCycle (w : Work) : Calm w.toState w.startCycle.toState := by
  have taken : Calm w.toState w.takeNodeSet.toState := by
    unfold Work.takeNodeSet
    dsimp only
    generalize table : w.setRbm _ = v
    have set : Calm w.toState v.toState := table ▸ .of_leads ((Leads.refl w).setRbm rfl _)
    generalize gone : List.foldl Work.entryRemoved v _ = u
    have removed : Calm v.toState u.toState := gone ▸ .foldl _ .entryRemoved _ v
    exact (set.trans removed).trans
      (.of_leads (Leads.endEvent (.foldl _ (Leads.refl u) fun _ _ h => h.entryAdded rfl _ _)))
  unfold Work.startCycle
  dsimp only
  generalize w.takeNodeSet = v at taken ⊢
  exact taken.trans (.of_leads (Leads.nextPoll ((Leads.refl v).setRbm rfl _) rfl))

/-! ## The shells of the commands -/

theorem Calm.finish {s : State} {w : Work} (h : Calm s w.toState) : Calm s w.finish :=
  h.trans (.of_same (congrArg State.zev w.finish_others :) (congrArg State.rgc w.finish_others :))

theorem Calm.whenStarted {s : State} {f : Work → Work} (h : Calm s (f (Work.begin s)).toState) : Calm s (s.whenStarted f) := by
  unfold State.whenStarted
  split
  · exact h.finish
  · exact .refl s

theorem Calm.onEvent {s : State} {occurs : Bool} {f : Work → Work}
    (h : occurs = true → Calm s (f (Work.begin s)).toState) : Calm s (s.onEvent occurs f) := by
  unfold State.onEvent
  split
  next occurs => exact (h occurs).whenStarted
  next => exact .refl s

/-- What a served request's rule leaves of a record of ZEV or RGC, its answer leaves. -/
theorem answer_fire (s : State) (req : Request) (rule : Work → List Byte → Answer) :
    (s.answer req rule).zev = (rule (Work.begin s) req.body).work.zev ∧
      (s.answer req rule).rgc = (rule (Work.begin s) req.body).work.rgc := by
  unfold State.answer
  dsimp only
  set w := (rule (Work.begin s) req.body).work
  have leads : Leads .served (w.respond req (rule (Work.begin s) req.body).result (rule (Work.begin s) req.body).fields)
      (w.respond req (rule (Work.begin s) req.body).result (rule (Work.begin s) req.body).fields).returnToHosted :=
    (Leads.refl _).returnToHosted rfl rfl
  have others := Work.finish_others
    (w.respond req (rule (Work.begin s) req.body).result (rule (Work.begin s) req.body).fields).returnToHosted
  exact ⟨(congrArg State.zev others :).trans (leads.untouched.zev rfl),
    (congrArg State.rgc others :).trans (leads.untouched.rgc rfl)⟩

/-- What a property of ZEV's and RGC's records holds of before a request and after its rule, it holds of after its
serving. -/
theorem serve_fire {P : State → Prop} (reads : ∀ u v : State, v.zev = u.zev → v.rgc = u.rgc → P u → P v) {s : State}
    {code : Nat} {ok : List Byte → Bool} {rule : Work → List Byte → Answer} (hs : P s)
    (h : ∀ req, s.servable = some req → P (rule (Work.begin s) req.body).work.toState) : P (s.serve code ok rule) := by
  unfold State.serve State.serveWhere
  split
  next req servable =>
    split
    · obtain ⟨zev, rgc⟩ := answer_fire s req (checked ok rule)
      refine reads _ _ zev rgc ?_
      unfold checked
      split
      · exact h req servable
      · exact hs
    · exact hs
  · exact hs

theorem Calm.serve {s : State} {code : Nat} {ok : List Byte → Bool} {rule : Work → List Byte → Answer}
    (h : ∀ req, s.servable = some req → Calm s (rule (Work.begin s) req.body).work.toState) :
    Calm s (s.serve code ok rule) :=
  serve_fire (fun _ _ zev rgc calm => calm.trans (.of_same zev rgc)) (.refl s) h

theorem Calm.onPoll {s : State} {f : Poll → NodeEntry → Work → Work}
    (h : ∀ p e, Calm s (f p e (Work.begin s)).toState) : Calm s (s.onPoll f) := by
  unfold State.onPoll
  split
  · split
    · exact .whenStarted ((h _ _).trans (.of_leads ((Leads.refl _).nextPoll rfl)))
    · exact .refl s
  · exact .refl s

/-! ## The rules of the requests -/

section
variable (w : Work)

theorem Calm.handOn (old : Memory) : Calm w.toState (w.handOn old).toState := by
  unfold Work.handOn
  dsimp only
  refine (Calm.zevAtWrite w old).trans (.of_leads ?_)
  exact Leads.lbuAtWrite (Leads.ansAtWrite (.ite (((Leads.refl _).druAtWrite _).cruAtWrite rfl _)
    ((Leads.refl _).druAtWrite _)) _) _

theorem Calm.mapWriteRule (body : List Byte) : Calm w.toState (Sys2Proof.Machine.mapWriteRule w body).work.toState := by
  obtain plain | ⟨b, m, -, -, -, -, work⟩ := mapWriteRule_work w body
  · rw [plain]; exact .refl _
  · rw [work]
    by_cases same : m = w.map
    · rw [show w.acceptWrite b m = w from if_pos same]; exact .refl _
    · rw [show w.acceptWrite b m = (w.mapped b m).handOn w.map from if_neg same]
      exact .trans (t := (w.mapped b m).toState) (.of_same rfl rfl) (.handOn (w.mapped b m) w.map)

theorem Calm.readStatsRule (flags : Nat) : Calm w.toState (Sys2Proof.Machine.readStatsRule w flags).work.toState := by
  unfold Sys2Proof.Machine.readStatsRule
  dsimp only
  split
  · exact ⟨fun _ c => c, .of_state rfl⟩
  · exact .refl _

theorem Calm.zoneEnableRule (z : Nat) : Calm w.toState (Sys2Proof.Machine.zoneEnableRule w z).work.toState := by
  unfold Sys2Proof.Machine.zoneEnableRule
  split
  · unfold Work.enableZone
    split
    next disabled =>
      exact .zoneChanged (w.report .zoneDisabled z false) z _ _ fun confirmed => by cases disabled.symm.trans confirmed
    next => exact .refl _
  · exact .refl _

theorem Calm.generalRule : Calm w.toState (Sys2Proof.Machine.generalRule w).work.toState := by
  unfold Sys2Proof.Machine.generalRule
  dsimp only
  split
  · exact .refl _
  · exact .rgcEvent _ _ _ (Rgc.runsOn_enterGeneral _ _)

theorem Calm.holdRule : Calm w.toState (Sys2Proof.Machine.holdRule w).work.toState := by
  unfold Sys2Proof.Machine.holdRule
  split
  · exact .refl _
  · split
    · exact .refl _
    · exact .rgcEvent _ _ _ (.of_state rfl)

theorem Calm.releaseRule : Calm w.toState (Sys2Proof.Machine.releaseRule w).work.toState := by
  unfold Sys2Proof.Machine.releaseRule
  split
  · exact .refl _
  · split
    · exact .rgcEvent _ _ _ (Rgc.runsOn_promote _ ({ w.rgc with hold := false } : Rgc))
    · exact .refl _

theorem Calm.floorClearRule (f : Nat) : Calm w.toState (Sys2Proof.Machine.floorClearRule w f).work.toState := by
  unfold Sys2Proof.Machine.floorClearRule
  split
  · exact .refl _
  · split
    · exact .refl _
    · exact .rgcEvent _ _ _ (Rgc.runsOn_promote _ (w.rgc.mapFloors _ _))

theorem Calm.muteRule (body : List Byte) : Calm w.toState (Sys2Proof.Machine.muteRule w body).work.toState := by
  unfold Sys2Proof.Machine.muteRule
  dsimp only
  split
  · exact .refl _
  · split
    · exact .refl _
    · exact .rgcEvent _ _ _ (.of_state rfl)

/-- R42, R171: an escalation takes an ACTIVE regime to GENERAL. -/
theorem Calm.becomeAutonomous : Calm w.toState w.becomeAutonomous.toState := by
  unfold Work.becomeAutonomous
  dsimp only
  generalize posted : (w.setHlc _).post .link _ = v
  have link : Calm w.toState v.toState := posted ▸ .of_same rfl rfl
  refine (link.trans (.rgcEvent v _ _ ?_)).trans
    (.of_leads (((Leads.refl v.modeToRgc).setGiven _ _).recompute _).endEvent)
  split
  · exact .of_general rfl
  · exact .of_state rfl

end

/-! ## Every command but a reset, ZONE_DISABLE and RESET_REGIME -/

theorem execGoodReply_calm {s t : State} {reply : List Byte} (h : execGoodReply reply s = .next t) : Calm s t := by
  cases h
  split
  · split
    · split
      · exact .whenStarted ((Calm.replyEvent (Work.begin s) _ _ _).trans (.of_leads ((Leads.refl _).nextPoll rfl)))
      · exact .refl s
      · exact .refl s
    · exact .refl s
  · exact .refl s

theorem execBadReply_calm {s t : State} {reply : List Byte} (h : execBadReply reply s = .next t) : Calm s t := by
  cases h
  split
  · split
    · split
      · exact .refl s
      · exact .whenStarted ((Calm.typeWrongEvent (Work.begin s) _).trans (.of_leads ((Leads.refl _).nextPoll rfl)))
      · exact .whenStarted ((Calm.missEvent (Work.begin s) _).trans (.of_leads ((Leads.refl _).nextPoll rfl)))
    · exact .refl s
  · exact .refl s

/-- R9: only a VERIFYING zone's window expires. -/
theorem windowExpiry_calm {s : State} {z : Nat} (h : s.windowOver z = true) :
    Calm s ((Work.begin s).zoneChanged z ((Work.begin s).zone z).expired .expiry).toState := by
  have verifying : (s.zone z).eval = .verifying := by
    simp only [State.windowOver, Bool.and_eq_true, decide_eq_true_eq] at h
    exact h.1.2
  exact .zoneChanged (Work.begin s) z _ _ fun confirmed => by cases verifying.symm.trans confirmed

/-- R11, R22: no command but a reset, a ZONE_DISABLE and a RESET_REGIME ends a confirmation or a running regime. -/
theorem exec_calm {c : Instr} {s t : State} (h : exec c s = .next t) (hr : Claims.resets s c = false)
    (disable : c ≠ .zoneDisable) (reset : c ≠ .resetRegime) : Calm s t := by
  by_cases apart : c ≠ .mapWrite ∧ (reachOf c).zev = false ∧ (reachOf c).rgc = false
  · exact .of_edits (exec_edits h hr apart.1) apart.2.1 apart.2.2
  · cases c with
    | mapWrite => cases h; exact .serve fun req _ => .mapWriteRule (Work.begin s) req.body
    | readStats => cases h; exact .serve fun req _ => .readStatsRule (Work.begin s) (byteAt req.body 0)
    | zoneEnable => cases h; exact .serve fun req _ => .zoneEnableRule (Work.begin s) (byteAt req.body 0)
    | generalEvacuation => cases h; exact .serve fun _ _ => .generalRule (Work.begin s)
    | holdExtension => cases h; exact .serve fun _ _ => .holdRule (Work.begin s)
    | releaseExtension => cases h; exact .serve fun _ _ => .releaseRule (Work.begin s)
    | floorClear => cases h; exact .serve fun req _ => .floorClearRule (Work.begin s) (byteAt req.body 0)
    | alertMute => cases h; exact .serve fun req _ => .muteRule (Work.begin s) req.body
    | longExpiry => cases h; exact .onEvent fun _ => .becomeAutonomous (Work.begin s)
    | cycleStart => cases h; exact .onEvent fun _ => .startCycle (Work.begin s)
    | goodReply reply => exact execGoodReply_calm h
    | badReply reply => exact execBadReply_calm h
    | replyTimeout => cases h; exact .onPoll fun _ e => .missEvent (Work.begin s) e
    | replyGapTimeout => cases h; exact .onPoll fun _ e => .missEvent (Work.begin s) e
    | zoneWindowExpiry z => cases h; exact .onEvent windowExpiry_calm
    | clockSecond => cases h; exact .onEvent fun _ => .rgcEvent (Work.begin s) _ _ (Rgc.runsOn_second _ _)
    | clearTimerExpiry f =>
      cases h; exact .onEvent fun _ => .rgcEvent (Work.begin s) _ _ (Rgc.runsOn_promote _ (s.rgc.mapFloors _ _))
    | muteExpiry => cases h; exact .onEvent fun _ => .rgcEvent (Work.begin s) _ _ (.of_state rfl)
    | autoGeneralExpiry => cases h; exact .onEvent fun _ => .rgcEvent (Work.begin s) _ _ (Rgc.runsOn_enterGeneral _ _)
    | zoneDisable => exact absurd rfl disable
    | resetRegime => exact absurd rfl reset
    | _ => exact absurd ⟨by simp, rfl, rfl⟩ apart

/-! ## ZONE_DISABLE and RESET_REGIME -/

/-- RGC and CRU take a zone's change without changing a zone. -/
theorem zev_zoneChanged (w : Work) (z : Nat) (r : Zone) (cause : ZoneCause) :
    (w.zoneChanged z r cause).zev = (w.setZone z r).zev := by
  unfold Work.zoneChanged
  dsimp only
  split
  · rfl
  · exact ((Leads.refl (n := { cru := true, rgc := true }) _).zoneHandOff rfl rfl z r.eval).untouched.zev rfl

theorem zone_zoneChanged_ne (w : Work) {z y : Nat} (r : Zone) (cause : ZoneCause) (h : z ≠ y) :
    (w.zoneChanged z r cause).zone y = w.zone y := by
  rw [State.zone, zev_zoneChanged]
  exact Work.setZone_zone_ne w z y r h

theorem zone_zoneChanged_self (w : Work) {z : Nat} (r : Zone) (cause : ZoneCause) (h : z < 128) :
    (w.zoneChanged z r cause).zone z = r := by
  rw [State.zone, zev_zoneChanged]
  exact Work.setZone_zone_self w z r h

/-- R14: ZONE_DISABLE reaches the zone it names and no other. -/
theorem zone_zoneDisableRule_ne (w : Work) {z y : Nat} (h : z ≠ y) : (zoneDisableRule w z).work.zone y = w.zone y := by
  unfold zoneDisableRule
  split
  · unfold Work.disableZone
    split
    · rfl
    · exact zone_zoneChanged_ne (w.report .zoneDisabled z true) _ _ h
  · rfl

theorem runsOn_zoneChanged (w : Work) (z : Nat) (r : Zone) (cause : ZoneCause) :
    w.rgc.RunsOn (w.zoneChanged z r cause).rgc := by
  unfold Work.zoneChanged
  dsimp only
  split
  · exact .of_state rfl
  · exact (Calm.zoneHandOff ((w.setZone z r).post .zone _) z r.eval).regime

theorem runsOn_zoneDisableRule (w : Work) (z : Nat) : w.rgc.RunsOn (zoneDisableRule w z).work.rgc := by
  unfold zoneDisableRule
  split
  · unfold Work.disableZone
    split
    · exact .of_state rfl
    · exact runsOn_zoneChanged (w.report .zoneDisabled z true) z _ _
  · exact .of_state rfl

/-- R13: RESET_REGIME leaves a zone whose condition is ALARM as it is. -/
theorem zone_resetRule_alarm (w : Work) {z : Nat} (alarm : (w.zone z).condition = .alarm) :
    ((resetRule w).work.zone z).eval = (w.zone z).eval := by
  have inside : z < 128 := by
    by_contra past
    rw [State.zone, vget_of_le _ _ _ (by omega)] at alarm
    cases alarm
  by_cases quiet : w.rgc.state = .quiet
  · rw [resetRule_quiet quiet]
  · obtain ⟨n, rule⟩ := resetRule_resets quiet
    rw [rule]
    have handing : (w.freeZones.rgcEvent w.freeZones.resetRecord n).zev = w.freeZones.zev :=
      ((Leads.refl (n := { cru := true, rgc := true }) w.freeZones).rgcEvent rfl rfl _ _).untouched.zev rfl
    have freed : w.freeZones.zone z = w.zone z := by
      rw [zone_freeZones w inside, if_neg (fun h => h.2 alarm)]
    exact (congrArg (fun v : Zev => (vget v.zones z Zone.reset).eval) handing).trans (congrArg Zone.eval freed)

end Sys2Proof.Machine

namespace Sys2Proof.Claims

open Sys2Proof Sys2Proof.Machine

/-- Settles O6: every other command is calm, and the two that are not name another zone or keep one in ALARM. -/
theorem confirmedZoneStays : Obligations.ConfirmedZoneStays := by
  intro c s t z h confirmed hr disable reset
  have reads (u v : State) (zev : v.zev = u.zev) (_ : v.rgc = u.rgc) (k : (u.zone z).eval = .confirmed) :
      (v.zone z).eval = .confirmed := by rw [State.zone, zev]; exact k
  by_cases disables : c = .zoneDisable
  · subst disables
    cases h
    refine serve_fire reads confirmed fun req servable => ?_
    rw [zone_zoneDisableRule_ne _ (disable rfl req servable)]
    exact confirmed
  · by_cases frees : c = .resetRegime
    · subst frees
      cases h
      exact serve_fire reads confirmed fun _ _ => (zone_resetRule_alarm (Work.begin s) (reset rfl)).trans confirmed
    · exact (exec_calm h hr disables frees).zones z confirmed

/-- Settles O7. -/
theorem regimeEndsOnlyByReset : Obligations.RegimeEndsOnlyByReset := by
  refine ⟨fun c s t h hr reset => ?_, fun s => ?_⟩
  · by_cases disables : c = .zoneDisable
    · subst disables
      cases h
      exact serve_fire (P := fun u => s.rgc.RunsOn u.rgc) (fun u v _ rgc k => by rw [rgc]; exact k) (.of_state rfl)
        fun req _ => runsOn_zoneDisableRule (Work.begin s) (byteAt req.body 0)
    · exact (exec_calm h hr disables reset).regime
  · unfold State.alarmPin
    cases s.rgc.state <;> simp [RegimeState.running]

end Sys2Proof.Claims
end

section
/-! PROOFS. Chapter 5: what CRU's operations do to the car they name and leave of everything else (R90, R93, R96, R97), the
choice of a recall floor (R91), and the requests on cars (R99, R101, R102). -/

namespace Sys2Proof.Machine

/-! ## Operations on one car -/

/-- From `w` to `v` nothing changed but the cars, their payloads, and what the event owes for them. -/
abbrev Work.InCars (w v : Work) : Prop :=
  { v with cru := w.cru, rbm := w.rbm, carMarks := w.carMarks, alarmStops := w.alarmStops, conds := w.conds } = w

/-- From `w` to `v` an operation on car `c`: nothing changed but that car, payloads, and what the event owes. -/
structure Work.CarStep (c : Nat) (w v : Work) : Prop where
  rest : w.InCars v
  banks : v.cru.banks = w.cru.banks
  others : ∀ i, i ≠ c → v.car i = w.car i

namespace Work.CarStep

variable {c : Nat} {w v u : Work}

theorem refl (w : Work) : CarStep c w w := ⟨rfl, rfl, fun _ _ => rfl⟩

theorem trans (h : CarStep c w v) (k : CarStep c v u) : CarStep c w u where
  rest := (congrArg (fun x : Work => { x with
    cru := w.cru, rbm := w.rbm, carMarks := w.carMarks, alarmStops := w.alarmStops, conds := w.conds }) k.rest).trans h.rest
  banks := k.banks.trans h.banks
  others i hi := (k.others i hi).trans (h.others i hi)

theorem setCar (h : CarStep c w v) (r : Car) : CarStep c w (v.setCar c r) := by
  refine h.trans ⟨?_, by rw [Work.setCar_cru], fun i hi => v.setCar_car_ne c i r hi.symm⟩
  unfold Work.InCars Work.setCar
  dsimp only
  split <;> rfl

theorem reportChange (h : CarStep c w v) (k : Kind) (n : Nat) (a b : Bool) : CarStep c w (v.reportChange k n a b) := by
  refine h.trans ⟨?_, by rw [Work.reportChange_toState], fun i _ => by rw [Work.reportChange_toState]⟩
  unfold Work.InCars Work.reportChange
  split <;> rfl

theorem giveNode (h : CarStep c w v) (o : NodeOwner) : CarStep c w (v.giveNode o) :=
  h.trans ⟨rfl, rfl, fun _ _ => rfl⟩

theorem markAlarmStop (h : CarStep c w v) (n : Nat) : CarStep c w (v.markAlarmStop n) :=
  h.trans ⟨rfl, rfl, fun _ _ => rfl⟩

theorem ite {p : Prop} [Decidable p] {a b : Work} (ha : CarStep c w a) (hb : CarStep c w b) :
    CarStep c w (if p then a else b) := by
  split
  · exact ha
  · exact hb

theorem settleCar (h : CarStep c w v) : CarStep c w (v.settleCar c) := by
  unfold Work.settleCar
  exact .ite (.ite (h.setCar _) (h.setCar _)) (.ite (h.setCar _) ((h.setCar _).giveNode _))

theorem clearLate (h : CarStep c w v) : CarStep c w (v.clearLate c) := (h.setCar _).reportChange _ _ _ _

theorem setHeldOut (h : CarStep c w v) (a : Bool) : CarStep c w (v.setHeldOut c a) := (h.setCar _).reportChange _ _ _ _

theorem holdOut (h : CarStep c w v) : CarStep c w (v.holdOut c) := ((h.clearLate.setCar _).setHeldOut _).settleCar

theorem issueRecall (h : CarStep c w v) : CarStep c w (v.issueRecall c) := .ite (h.clearLate.setCar _).settleCar h.holdOut

theorem retarget (h : CarStep c w v) : CarStep c w (v.retarget c) := by
  unfold Work.retarget
  dsimp only
  split
  · exact (h.setCar _).settleCar
  · exact (h.setCar _).settleCar
  · exact (h.clearLate.setCar _).settleCar
  all_goals exact h

theorem recallAtStart (h : CarStep c w v) : CarStep c w (v.recallAtStart c) := by
  unfold Work.recallAtStart
  dsimp only
  split
  · exact h.issueRecall
  · exact .ite h h.retarget
  · exact .ite h h.retarget
  · exact .ite h h.retarget
  all_goals exact h

theorem machineAlarm (h : CarStep c w v) : CarStep c w (v.machineAlarm c) :=
  .ite h (.ite ((h.setCar _).setCar _).settleCar (h.setCar _))

theorem returnCar (h : CarStep c w v) : CarStep c w (v.returnCar c) :=
  .ite ((h.setHeldOut _).clearLate.setCar _).settleCar h

end Work.CarStep

namespace Work.InCars

variable {w v u : Work}

theorem refl (w : Work) : w.InCars w := rfl

theorem trans (h : w.InCars v) (k : v.InCars u) : w.InCars u :=
  (congrArg (fun x : Work => { x with
    cru := w.cru, rbm := w.rbm, carMarks := w.carMarks, alarmStops := w.alarmStops, conds := w.conds }) k).trans h

theorem foldl {f : Work → Nat → Work} (h : ∀ (w : Work) c, w.InCars (f w c)) (l : List Nat) (w : Work) : w.InCars (l.foldl f w) := by
  induction l generalizing w with
  | nil => exact refl w
  | cons c l ih => exact (h w c).trans (ih _)

theorem map (h : w.InCars v) : v.map = w.map := (congrArg (fun x : Work => x.mst.map) h :)
theorem uptime (h : w.InCars v) : v.uptime = w.uptime := (congrArg (fun x : Work => x.uptime) h :)
theorem rgc (h : w.InCars v) : v.rgc = w.rgc := (congrArg (fun x : Work => x.rgc) h :)
theorem hlc (h : w.InCars v) : v.hlc = w.hlc := (congrArg (fun x : Work => x.hlc) h :)

end Work.InCars

/-! ## What becomes of the car -/

section
variable (w : Work) {c : Nat} (hc : c < 6)
include hc

theorem clearLate_car : (w.clearLate c).car c = { w.car c with late := false } := by
  rw [Work.clearLate, Work.reportChange_toState]
  exact w.setCar_car_self c _ hc

theorem setHeldOut_car (a : Bool) : (w.setHeldOut c a).car c = { w.car c with heldOutActive := a } := by
  rw [Work.setHeldOut, Work.reportChange_toState]
  exact w.setCar_car_self c _ hc

/-- R90: a wanted command that is sent already withdraws a held one; another is held behind a change in flight, or
sent, unconfirmed. -/
theorem settleCar_car : (w.settleCar c).car c =
    if (w.car c).wanted = (w.car c).command then
      { w.car c with
        pendingCommand := none
        state := if (w.car c).state = .recallIssued ∧ (w.car c).confirmed = true then .recalling else (w.car c).state }
    else if w.carHolds c then { w.car c with pendingCommand := some (w.car c).wanted }
    else { w.car c with command := (w.car c).wanted, confirmed := false, pendingCommand := none } := by
  unfold Work.settleCar
  dsimp only
  split
  · split
    · exact w.setCar_car_self c _ hc
    · exact w.setCar_car_self c _ hc
  · split
    · exact w.setCar_car_self c _ hc
    · exact w.setCar_car_self c _ hc

/-- R90: what the comparison leaves alone. -/
theorem settleCar_keeps : { (w.settleCar c).car c with
    state := (w.car c).state, command := (w.car c).command, confirmed := (w.car c).confirmed,
    pendingCommand := (w.car c).pendingCommand } = w.car c := by
  rw [settleCar_car w hc]
  split
  · rfl
  · split <;> rfl

theorem settleCar_state : ((w.settleCar c).car c).state =
    if (w.car c).wanted = (w.car c).command ∧ (w.car c).state = .recallIssued ∧ (w.car c).confirmed = true then .recalling
    else (w.car c).state := by
  rw [settleCar_car w hc]
  by_cases same : (w.car c).wanted = (w.car c).command
  · simp only [same, true_and, if_true]
  · simp only [same, false_and, if_false]
    split <;> rfl

theorem settleCar_state_of_ne (h : (w.car c).state ≠ .recallIssued) :
    ((w.settleCar c).car c).state = (w.car c).state := by
  rw [settleCar_state w hc, if_neg (fun k => h k.2.1)]

/-- R90: the wanted command is sent, or held. -/
theorem settleCar_wants : ((w.settleCar c).car c).command = (w.car c).wanted ∨
    ((w.settleCar c).car c).pendingCommand = some (w.car c).wanted := by
  rw [settleCar_car w hc]
  split
  next same => exact .inl same.symm
  next =>
    split
    · exact .inr rfl
    · exact .inl rfl

end

/-! ## A recall issued (R93, R96) and a return to service (R102) -/

section
variable (w : Work) {c : Nat} (hc : c < 6)
include hc

/-- R96: the record of a car that is held out, but for its command and what is held of it. -/
theorem holdOut_car : ((w.holdOut c).car c).state = .heldOut ∧ ((w.holdOut c).car c).target = none ∧
    ((w.holdOut c).car c).recallStarted = none ∧ ((w.holdOut c).car c).late = false ∧
    ((w.holdOut c).car c).heldOutActive = true ∧ ((w.holdOut c).car c).shutdownDue = (w.car c).shutdownDue := by
  unfold Work.holdOut
  dsimp only
  generalize out : ((w.clearLate c).setCar c _).setHeldOut c true = v
  have record : v.car c = { w.car c with
      late := false, state := .heldOut, priorState := none, target := none, recallStarted := none,
      heldOutActive := true } := by
    rw [← out, setHeldOut_car _ hc, Work.setCar_car_self _ _ _ hc, clearLate_car w hc]
  have keeps := settleCar_keeps v hc
  have state := settleCar_state_of_ne v hc (by rw [record]; simp)
  rw [record] at keeps state
  exact ⟨state, (congrArg Car.target keeps :), (congrArg Car.recallStarted keeps :), (congrArg Car.late keeps :),
    (congrArg Car.heldOutActive keeps :), (congrArg Car.shutdownDue keeps :)⟩

/-- R93: the record of a car that is recalled: toward its bank's recall floor, confirmed already or not. -/
theorem issueRecall_car (auto : (w.car c).inAuto = true) :
    let o := (w.bank (carBank w.map c)).recallFloor
    ((w.issueRecall c).car c).target = some o ∧ ((w.issueRecall c).car c).recallStarted = some w.uptime ∧
      ((w.issueRecall c).car c).state =
        (if (w.car c).confirmed = true ∧ (w.car c).command = .recall o then .recalling else .recallIssued) ∧
      ((w.issueRecall c).car c).late = false ∧ ((w.issueRecall c).car c).shutdownDue = (w.car c).shutdownDue ∧
      ((w.issueRecall c).car c).heldOutActive = (w.car c).heldOutActive := by
  intro o
  have cleared : Work.CarStep c w (w.clearLate c) := (Work.CarStep.refl w).clearLate
  have floor : ((w.clearLate c).bank (carBank (w.clearLate c).map c)).recallFloor = o := by
    rw [cleared.rest.map, State.bank, cleared.banks]; rfl
  rw [Work.issueRecall, if_pos auto]
  dsimp only
  rw [floor, cleared.rest.uptime]
  generalize out : (w.clearLate c).setCar c _ = v
  have record : v.car c = { w.car c with
      late := false, state := .recallIssued, priorState := none, target := some o, recallStarted := some w.uptime } := by
    rw [← out, Work.setCar_car_self _ _ _ hc, clearLate_car w hc]
  have keeps := settleCar_keeps v hc
  have state := settleCar_state v hc
  rw [record] at keeps state
  refine ⟨(congrArg Car.target keeps :), (congrArg Car.recallStarted keeps :), state.trans ?_, (congrArg Car.late keeps :),
    (congrArg Car.shutdownDue keeps :), (congrArg Car.heldOutActive keeps :)⟩
  refine if_congr ?_ rfl rfl
  simp only [Car.wanted, wantedCommandOf, Option.getD_some, true_and, reduceCtorEq, if_false]
  exact ⟨fun h => ⟨h.2, h.1.symm⟩, fun h => ⟨h.2.symm, h.1⟩⟩

/-- R102: the record of a car that is returned. -/
theorem returnCar_car (h : (w.car c).state.returnable = true) :
    ((w.returnCar c).car c).state = .inService ∧ ((w.returnCar c).car c).target = none ∧
      ((w.returnCar c).car c).recallStarted = none ∧ ((w.returnCar c).car c).late = false ∧
      ((w.returnCar c).car c).shutdownDue = false ∧ ((w.returnCar c).car c).heldOutActive = false ∧
      (((w.returnCar c).car c).command = .normal ∨ ((w.returnCar c).car c).pendingCommand = some .normal) := by
  rw [Work.returnCar, if_pos h]
  dsimp only
  generalize back : ((w.setHeldOut c false).clearLate c).setCar c _ = v
  have record : v.car c = { w.car c with
      heldOutActive := false, late := false, state := .inService, target := none, recallStarted := none,
      shutdownDue := false } := by
    rw [← back, Work.setCar_car_self _ _ _ hc, clearLate_car _ hc, setHeldOut_car w hc]
  have keeps := settleCar_keeps v hc
  have state := settleCar_state_of_ne v hc (by rw [record]; simp)
  have wants := settleCar_wants v hc
  rw [record] at keeps state wants
  exact ⟨state, (congrArg Car.target keeps :), (congrArg Car.recallStarted keeps :), (congrArg Car.late keeps :),
    (congrArg Car.shutdownDue keeps :), (congrArg Car.heldOutActive keeps :), wants⟩

end

theorem issueRecall_out {w : Work} {c : Nat} (out : (w.car c).inAuto = false) : w.issueRecall c = w.holdOut c := by
  rw [Work.issueRecall, if_neg (by simp [out])]

theorem returnCar_still {w : Work} {c : Nat} (h : (w.car c).state.returnable = false) : w.returnCar c = w := by
  rw [Work.returnCar, if_neg (by simp [h])]

/-! ## Operations on several cars -/

theorem mem_presentCars (m : Memory) (c : Nat) : c ∈ presentCars m ↔ carPresent m c = true := by
  simp only [presentCars, carIndices, List.mem_filter, List.mem_range, and_iff_right_iff_imp]
  intro h
  simp only [carPresent, Bool.and_eq_true, decide_eq_true_eq] at h
  exact h.1.1.1

theorem carPresent_lt {m : Memory} {c : Nat} (h : carPresent m c = true) : c < 6 :=
  List.mem_range.mp (List.mem_filter.mp ((mem_presentCars m c).mpr h)).1

theorem nodup_presentCars (m : Memory) : (presentCars m).Nodup := List.nodup_range.filter _

/-- An operation over several cars takes each car once, from the record it had before. -/
theorem foldl_car {f : Work → Nat → Work} (step : ∀ w c, Work.CarStep c w (f w c)) {l : List Nat} (nodup : l.Nodup)
    (w : Work) (i : Nat) : w.InCars (l.foldl f w) ∧ (l.foldl f w).cru.banks = w.cru.banks ∧
      (i ∉ l → (l.foldl f w).car i = w.car i) ∧
      (i ∈ l → ∃ v, w.InCars v ∧ v.cru.banks = w.cru.banks ∧ v.car i = w.car i ∧ (l.foldl f w).car i = (f v i).car i) := by
  induction l generalizing w with
  | nil => exact ⟨.refl w, rfl, fun _ => rfl, fun h => by cases h⟩
  | cons c l ih =>
    obtain ⟨first, nodup⟩ := List.nodup_cons.mp nodup
    have here := step w c
    obtain ⟨rest, banks, outside, inside⟩ := ih nodup (f w c)
    rw [List.foldl_cons]
    refine ⟨here.rest.trans rest, banks.trans here.banks, fun h => ?_, fun h => ?_⟩
    · obtain ⟨apart, later⟩ := not_or.mp (mt List.mem_cons.mpr h)
      rw [outside later, here.others i apart]
    · by_cases same : i = c
      · subst same
        exact ⟨w, .refl w, rfl, rfl, outside first⟩
      · obtain ⟨v, rest, banks, before, after⟩ := inside ((List.mem_cons.mp h).resolve_left same)
        exact ⟨v, here.rest.trans rest, banks.trans here.banks, before.trans (here.others i same), after⟩

/-! ## The end of an event that gathered no door and no join -/

theorem onlyPosted_foldl {α : Type} {f : Work → α → Work} (h : ∀ (w : Work) a, w.onlyPosted (f w a)) (l : List α)
    (w : Work) : w.onlyPosted (l.foldl f w) := by
  induction l generalizing w with
  | nil => exact .refl w
  | cons a l ih => exact (h w a).trans (ih _)

/-- R84, R106, R130: with no door moved or queued and no join owed, the end of an event posts what it owes. -/
theorem endEvent_posts {w : Work} (moved : w.moved = []) (toPlace : w.toPlace = []) (joins : w.joinsDue = false) :
    ({ w.endEvent.toState with hlc := w.hlc } : State) = w.toState ∧ w.endEvent.hlc.unposted w.hlc ∧
      w.endEvent.conds = w.conds := by
  have settle : w.settle = w := by
    simp [Work.settle, Work.settleJoins, settleBound, Work.settleDoors, moved, toPlace, joins]
  have posted : w.onlyPosted w.postDoors.postPrograms.postCars :=
    ((onlyPosted_foldl (fun w _ => w.post_onlyPosted _ _) _ _).trans
      (onlyPosted_foldl (fun w _ => w.post_onlyPosted _ _) _ _)).trans
      (onlyPosted_foldl (fun w _ => w.post_onlyPosted _ _) _ _)
  rw [Work.endEvent, settle]
  exact ⟨congrArg Work.toState posted.1, posted.2, (congrArg Work.conds posted.1 :)⟩

/-- A served request whose rule is an operation on cars and the end of its event. -/
theorem serve_cars {s : State} {req : Request} {code : Nat} {ok : List Byte → Bool} {rule : Work → List Byte → Answer}
    {w : Work} {result : Result} {fields : List Byte} (hs : Claims.Serves s code req) (hl : ok req.body = true)
    (hr : rule (Work.begin s) req.body = ⟨w.endEvent, result, fields⟩) (cars : (Work.begin s).InCars w) :
    Claims.Done s (s.serve code ok rule) req result fields ∧ Claims.CarsOnly s (s.serve code ok rule) ∧
      (∀ i, (s.serve code ok rule).car i = w.car i) ∧ (s.serve code ok rule).cru.banks = w.cru.banks := by
  obtain ⟨ended, link, -⟩ := endEvent_posts (w := w) (congrArg Work.moved cars :) (congrArg Work.toPlace cars :)
    (congrArg Work.joinsDue cars :)
  have unposted : w.endEvent.hlc.unposted s.hlc := by
    have same : w.hlc = s.hlc := cars.hlc
    rw [← same]; exact link
  obtain ⟨done, others⟩ := serve_unposted hs hl hr unposted
  have cru : (s.serve code ok rule).cru = w.cru := (congrArg State.cru others :).trans (congrArg State.cru ended :)
  refine ⟨done, ?_, fun i => congrArg (fun v : Cru => vget v.cars i Car.reset) cru, congrArg Cru.banks cru⟩
  have state := (congrArg (fun u : State => { u with hlc := s.hlc }) others).trans
    (congrArg (fun u : State => { u with hlc := s.hlc }) ended)
  exact (congrArg (fun u : State => { u with cru := s.cru, rbm := s.rbm, trc := s.trc, hlc := s.hlc }) others).trans
    ((congrArg (fun u : State => { u with cru := s.cru, rbm := s.rbm, trc := s.trc, hlc := s.hlc }) ended).trans
      (congrArg (fun u : Work => { u.toState with trc := s.trc, hlc := s.hlc }) cars))

/-- R99: the record of a car that is granted. -/
theorem granted_car (w : Work) {c : Nat} (hc : c < 6) :
    let y := ((w.setCar c { w.car c with state := .firefighter }).settleCar c).car c
    y.state = .firefighter ∧ y.target = (w.car c).target ∧
      (y.command = .firefighterEnable ∨ y.pendingCommand = some .firefighterEnable) := by
  have record := w.setCar_car_self c { w.car c with state := .firefighter } hc
  generalize w.setCar c { w.car c with state := .firefighter } = v at record ⊢
  have keeps := settleCar_keeps v hc
  have state := settleCar_state_of_ne v hc (by rw [record]; simp)
  have wants := settleCar_wants v hc
  rw [record] at keeps state wants
  exact ⟨state, (congrArg Car.target keeps :), wants⟩

/-! ## The choice of a recall floor (R91) -/

/-- A stable sort puts first the least of a rising list, the earliest of several. -/
theorem head?_sortBy {d : Nat → Nat} {l : List Nat} (rising : l.Pairwise (· < ·)) {f : Nat} (hf : f ∈ l)
    (least : ∀ k ∈ l, d f < d k ∨ (d f = d k ∧ f ≤ k)) : (sortBy (fun x y => decide (d x ≤ d y)) l).head? = some f := by
  induction l with
  | nil => cases hf
  | cons x l ih =>
    obtain ⟨below, rising⟩ := List.pairwise_cons.mp rising
    rw [sortBy]
    by_cases first : f = x
    · subst first
      cases sorted : sortBy (fun x y => decide (d x ≤ d y)) l with
      | nil => rfl
      | cons y ys =>
        have later : y ∈ l := (mem_sortBy (fun x y => decide (d x ≤ d y)) y l).mp (by rw [sorted]; exact .head _)
        have le : d f ≤ d y := (least y (.tail _ later)).elim Nat.le_of_lt fun h => h.1.le
        simp [insertBy, le]
    · have inside : f ∈ l := (List.mem_cons.mp hf).resolve_left first
      have head := ih rising inside fun k hk => least k (.tail _ hk)
      have lt : d f < d x := by
        have less := below f inside
        have := least x (.head _)
        omega
      cases sorted : sortBy (fun x y => decide (d x ≤ d y)) l with
      | nil => simp [sorted] at head
      | cons y ys =>
        obtain rfl : y = f := by simpa [sorted] using head
        simp [insertBy, Nat.not_le.mpr lt]

/-- R91: a floor that the choice may settle on last. -/
def State.Safe (s : State) (b f : Nat) : Prop :=
  f < 32 ∧ bankServes s.map b f = true ∧ (s.floor f).lobbyAlarm = false ∧ (s.floor f).fireState ≠ .alarm

theorem nearestFloor_none {s : State} {b : Nat} (h : ∀ f, ¬ s.Safe b f) : s.nearestFloor b = none := by
  unfold State.nearestFloor
  dsimp only
  rw [List.filter_eq_nil_iff.mpr]
  · rfl
  · intro f hf safe
    refine h f ⟨List.mem_range.mp hf, ?_⟩
    simpa [and_assoc] using safe

theorem nearestFloor_some {s : State} {b f : Nat} (safe : s.Safe b f)
    (least : ∀ k, s.Safe b k → floorDistance f (groundFloor s.map) < floorDistance k (groundFloor s.map) ∨
      (floorDistance f (groundFloor s.map) = floorDistance k (groundFloor s.map) ∧ f ≤ k)) :
    s.nearestFloor b = some f := by
  have mem (k : Nat) : (k ∈ floorIndices.filter fun f =>
      bankServes s.map b f && !(s.floor f).lobbyAlarm && (s.floor f).fireState ≠ .alarm) ↔ s.Safe b k := by
    simp [State.Safe, floorIndices, and_assoc]
  exact head?_sortBy (d := fun x => floorDistance x (groundFloor s.map)) (List.pairwise_lt_range.filter _)
    ((mem f).mpr safe) fun k hk => least k ((mem k).mp hk)

/-- R91: with the primary and the alternate in alarm, the nearest safe landing is taken. -/
theorem chooseRecall_nearest {s : State} {b : Nat} (primary : (s.floor (effectivePrimary s.map b)).lobbyAlarm = true)
    (alternate : ∀ a, effectiveAlternate s.map b = some a → (s.floor a).lobbyAlarm = true) :
    s.chooseRecall b = s.chooseNearest b (effectivePrimary s.map b) := by
  unfold State.chooseRecall
  dsimp only
  rw [if_neg (by simp [primary])]
  split
  next a chosen => rw [if_neg (by simp [alternate a chosen])]
  next => rfl

/-! ## The rules, case by case -/

theorem onCar_present {rule : Work → Nat → Answer} {w : Work} {c : Nat} (h : carPresent w.map c = true) :
    onCar rule w c = rule w c := if_pos h

theorem onCar_absent {rule : Work → Nat → Answer} {w : Work} {c : Nat} (h : carPresent w.map c = false) :
    onCar rule w c = .refuse w .refusedRange := if_neg (by simp [h])

theorem grantable_iff (s : State) (c : Nat) : s.grantable c = true ↔
    (s.car c).state = .parked ∧ carEligible s.map c = true ∧ (s.car c).key = some true ∧
      ((List.range 6).filter fun i => (s.car i).state = .firefighter).length < eligibleCount s.map := by
  simp [State.grantable, and_assoc, carIndices]
  exact fun _ _ _ => decide_eq_true_iff

theorem carReturnRule_absent {w : Work} {n : Nat} (named : n ≠ 0xFF) (absent : carPresent w.map n = false) :
    carReturnRule w n = .refuse w .refusedRange := if_pos ⟨named, absent⟩

theorem carReturnRule_running {w : Work} {n : Nat} (known : n = 0xFF ∨ carPresent w.map n = true)
    (running : w.rgc.state ≠ .quiet) : carReturnRule w n = .refuse w .refusedState := by
  rw [carReturnRule, if_neg (fun h => known.elim h.1 (by simp [h.2])), if_pos running]

theorem carReturnRule_one {w : Work} {n : Nat} (named : n ≠ 0xFF) (present : carPresent w.map n = true)
    (quiet : w.rgc.state = .quiet) : carReturnRule w n = returnOneRule w n := by
  rw [carReturnRule, if_neg (by simp [present]), if_neg (not_not_intro quiet), if_neg named]

theorem carReturnRule_all {w : Work} (quiet : w.rgc.state = .quiet) :
    carReturnRule w 0xFF = ⟨((presentCars w.map).foldl Work.returnCar w).endEvent, .ok, []⟩ := by
  rw [carReturnRule, if_neg (fun h => h.1 rfl), if_neg (not_not_intro quiet), if_pos rfl]

theorem returnOneRule_refused {w : Work} {c : Nat} (h : (w.car c).state = .firefighter ∨ (w.car c).state = .lost) :
    returnOneRule w c = .refuse w .refusedState := by
  obtain state | state := h <;> simp only [returnOneRule, state]

theorem returnOneRule_returns {w : Work} {c : Nat} (h : (w.car c).state ≠ .firefighter) (h' : (w.car c).state ≠ .lost) :
    returnOneRule w c = ⟨(w.returnCar c).endEvent, .ok, []⟩ := by
  unfold returnOneRule
  split
  · exact absurd ‹_› h
  · exact absurd ‹_› h'
  · rfl

theorem returnable_iff (st : CarState) :
    st.returnable = true ↔ st ∈ ([.parked, .shutDown, .heldOut, .recallIssued, .recalling] : List CarState) := by
  cases st <;> decide

end Sys2Proof.Machine

namespace Sys2Proof.Claims

open Sys2Proof Sys2Proof.Machine

/-- Settles O43: the steps of the choice in their order; the last is the head of a stable sort by distance. -/
theorem recallFloorChoice : Obligations.RecallFloorChoice := by
  intro s b primary g distance safe
  refine ⟨fun clear => ?_, fun alarm a chosen clear => ?_, fun alarm alternate => ⟨fun nowhere => ?_, fun f here least => ?_⟩⟩
  · exact if_pos (by rw [show (s.floor (effectivePrimary s.map b)).lobbyAlarm = false from clear]; rfl)
  · unfold State.chooseRecall
    dsimp only
    rw [if_neg (by rw [show (s.floor (effectivePrimary s.map b)).lobbyAlarm = true from alarm]; simp), chosen]
    exact if_pos (by rw [clear]; rfl)
  · rw [chooseRecall_nearest alarm alternate, State.chooseNearest, nearestFloor_none nowhere]
  · rw [chooseRecall_nearest alarm alternate, State.chooseNearest, nearestFloor_some (f := f) here least]

/-- Settles O44. -/
theorem firefighterGrantAndEnd : Obligations.FirefighterGrantAndEnd := by
  intro s req n body c
  have length : lengthIs 1 req.body = true := by rw [body]; rfl
  have index : byteAt req.body 0 = c := by rw [body]; rfl
  refine ⟨fun hs => ?_, fun hs => ⟨fun absent => ?_, fun present other => ?_, fun present firefighter => ?_⟩⟩
  · intro may
    have grantable : s.grantable c = true ↔ may := grantable_iff s c
    refine ⟨fun absent => ?_, fun present refused => ?_, fun present granted => ?_⟩
    · exact congrArg Host.Outcome.next (serve_plain hs length (by rw [index]; exact onCar_absent (w := Work.begin s) absent))
    · refine congrArg Host.Outcome.next (serve_plain hs length ?_)
      rw [index, onCar_present (w := Work.begin s) present]
      exact if_neg (mt grantable.mp refused)
    · have hc : c < 6 := carPresent_lt present
      have step : Work.CarStep c (Work.begin s)
          (((Work.begin s).setCar c { s.car c with state := .firefighter }).settleCar c) :=
        ((Work.CarStep.refl _).setCar _).settleCar
      obtain ⟨done, only, car, banks⟩ := serve_cars (rule := fun w body => onCar grantRule w (byteAt body 0)) hs length
        (by rw [index, onCar_present (w := Work.begin s) present]; exact if_pos (grantable.mpr granted)) step.rest
      obtain ⟨state, target, wants⟩ := granted_car (Work.begin s) hc
      refine ⟨_, rfl, done, only, ?_⟩
      simp only [State.serveByte, car, banks]
      exact ⟨state, target, wants, step.others, step.banks⟩
  · exact congrArg Host.Outcome.next (serve_plain (rule := fun w body => onCar endRule w (byteAt body 0)) hs length
      (by rw [index]; exact onCar_absent (w := Work.begin s) absent))
  · refine congrArg Host.Outcome.next (serve_plain (rule := fun w body => onCar endRule w (byteAt body 0)) hs length ?_)
    rw [index, onCar_present (w := Work.begin s) present]
    exact if_neg other
  · have hc : c < 6 := carPresent_lt present
    have step : Work.CarStep c (Work.begin s) ((Work.begin s).issueRecall c) := (Work.CarStep.refl _).issueRecall
    obtain ⟨done, only, car, banks⟩ := serve_cars (rule := fun w body => onCar endRule w (byteAt body 0)) hs length
      (by rw [index, onCar_present (w := Work.begin s) present]; exact if_pos firefighter) step.rest
    refine ⟨_, rfl, done, only, ?_⟩
    simp only [State.serveByte, car, banks]
    cases auto : (s.car c).inAuto with
    | true =>
      obtain ⟨target, started, state, late, -⟩ := issueRecall_car (Work.begin s) hc auto
      refine ⟨fun _ => ⟨?_, started, target⟩, fun no => (by cases no), late, step.others, step.banks⟩
      rw [state]
      split <;> simp
    | false =>
      obtain ⟨state, target, started, late, held, -⟩ := holdOut_car (Work.begin s) hc
      rw [← issueRecall_out (by exact auto)] at state target started late held
      exact ⟨fun no => (by cases no), fun _ => ⟨state, target, started, held⟩, late, step.others, step.banks⟩

/-- Settles O45. -/
theorem carReturnEndsRecall : Obligations.CarReturnEndsRecall := by
  intro s req n hs body c
  have length : lengthIs 1 req.body = true := by rw [body]; rfl
  have index : byteAt req.body 0 = c := by rw [body]; rfl
  refine ⟨fun named absent => ?_, fun known running => ?_, fun present quiet other => ?_, fun known quiet => ?_⟩
  · exact congrArg Host.Outcome.next (serve_plain hs length (by rw [index]; exact carReturnRule_absent named absent))
  · exact congrArg Host.Outcome.next (serve_plain hs length (by rw [index]; exact carReturnRule_running known running))
  · have named : c ≠ 0xFF := fun h => by have := carPresent_lt present; omega
    refine congrArg Host.Outcome.next (serve_plain hs length ?_)
    rw [index, carReturnRule_one (by exact named) (by exact present) (by exact quiet)]
    exact returnOneRule_refused (by simpa using other)
  · have one (named : c ≠ 0xFF) : carPresent s.map c = true ∧ (s.car c).state ≠ .firefighter ∧ (s.car c).state ≠ .lost := by
      simpa using known.resolve_left named
    -- The cars that the request names, each returned once.
    obtain ⟨l, nodup, mem, rule⟩ : ∃ l : List Nat, l.Nodup ∧
        (∀ i, i ∈ l ↔ (i = c ∨ c = 0xFF) ∧ carPresent s.map i = true) ∧
        carReturnRule (Work.begin s) c = ⟨(l.foldl Work.returnCar (Work.begin s)).endEvent, .ok, []⟩ := by
      by_cases all : c = 0xFF
      · exact ⟨presentCars s.map, nodup_presentCars _, fun i => by simp [mem_presentCars, all],
          all ▸ carReturnRule_all (by exact quiet)⟩
      · obtain ⟨present, firefighter, lost⟩ := one all
        refine ⟨[c], List.nodup_singleton c, fun i => ?_, ?_⟩
        · simp only [List.mem_singleton, all, or_false]
          exact ⟨fun h => ⟨h, h ▸ present⟩, fun h => h.1⟩
        · rw [carReturnRule_one (by exact all) (by exact present) (by exact quiet)]
          exact returnOneRule_returns firefighter lost
    have step (w : Work) (i : Nat) : Work.CarStep i w (w.returnCar i) := (Work.CarStep.refl w).returnCar
    obtain ⟨rest, -, -⟩ := foldl_car step nodup (Work.begin s) c
    obtain ⟨done, only, car, banks⟩ := serve_cars (rule := fun w body => carReturnRule w (byteAt body 0)) hs length
      (by rw [index]; exact rule) rest
    refine ⟨_, rfl, done, only, ?_⟩
    simp only [State.serveByte, car, banks]
    refine ⟨(foldl_car step nodup (Work.begin s) c).2.1, fun i => ?_⟩
    obtain ⟨-, -, outside, inside⟩ := foldl_car step nodup (Work.begin s) i
    split
    next returned =>
      obtain ⟨named, present, state⟩ := returned
      obtain ⟨v, -, -, before, after⟩ := inside ((mem i).mpr ⟨named, present⟩)
      rw [after]
      exact returnCar_car v (carPresent_lt present) (by rw [before, returnable_iff]; exact state)
    next stays =>
      by_cases here : i ∈ l
      · obtain ⟨v, -, -, before, after⟩ := inside here
        obtain ⟨named, present⟩ := (mem i).mp here
        have unreturnable : (v.car i).state.returnable = false := by
          rw [before, ← Bool.not_eq_true, returnable_iff]
          exact fun state => stays ⟨named, present, state⟩
        rw [after, returnCar_still unreturnable]
        exact before
      · exact outside here

end Sys2Proof.Claims
end

section
/-! PROOFS. Chapters 4 and 5: the supervision timers of doors and cars (R83, R97). -/

namespace Sys2Proof.Machine

theorem heldDue_iff (s : State) (d : Nat) : s.heldDue d = true ↔
    doorPresent s.map d = true ∧ (s.door d).state.watched = true ∧ (s.door d).held = false ∧
      ∃ e, (s.door d).heldSince = some e ∧ e + doorOpenTime s.map ≤ s.uptime := by
  simp only [State.heldDue, Bool.and_eq_true, Bool.not_eq_true', decide_eq_true_eq, Option.any_eq_true, and_assoc]

theorem lateDue_iff (s : State) (c : Nat) : s.lateDue c = true ↔
    carPresent s.map c = true ∧ (s.car c).state.underRecall = true ∧ (s.car c).late = false ∧
      ∃ e, (s.car c).recallStarted = some e ∧ e + recallTime s.map ≤ s.uptime := by
  simp only [State.lateDue, Bool.and_eq_true, Bool.not_eq_true', decide_eq_true_eq, Option.any_eq_true, and_assoc]

theorem watched_of_mem {st : DoorState} (h : st ∈ ([.locked, .disabled] : List DoorState)) : st.watched = true := by
  cases st <;> simp at h ⊢ <;> rfl

theorem underRecall_of_mem {st : CarState} (h : st ∈ ([.recallIssued, .recalling, .lost] : List CarState)) :
    st.underRecall = true := by
  cases st <;> simp at h ⊢ <;> rfl

/-- R83, R97: an event that occurs and gathers no door and no join leaves what its work does, the collection and the
link aside. -/
theorem onEvent_supervised {s : State} {occurs : Bool} {f : Work → Work} {v : Work} (started : s.hlc.started = true)
    (h : occurs = true) (hf : f (Work.begin s) = v.endEvent) (moved : v.moved = []) (toPlace : v.toPlace = [])
    (joins : v.joinsDue = false) : ∃ t, s.onEvent occurs f = t ∧
      ({ t with trc := s.trc, hlc := s.hlc } : State) = { v.toState with trc := s.trc, hlc := s.hlc } := by
  obtain ⟨ended, -, -⟩ := endEvent_posts moved toPlace joins
  have others := v.endEvent.finish_others
  refine ⟨v.endEvent.finish, by rw [onEvent_occurs started h, hf], ?_⟩
  generalize v.endEvent.finish = t at others ⊢
  exact (congrArg (fun u : State => { u with trc := s.trc, hlc := s.hlc }) others).trans
    (congrArg (fun u : State => { u with trc := s.trc, hlc := s.hlc }) ended)

end Sys2Proof.Machine

namespace Sys2Proof.Claims

open Sys2Proof Sys2Proof.Machine

/-- Settles O42: either expiry sets one record, reports its condition and posts its notice. -/
theorem supervisionTimers : Obligations.SupervisionTimers := by
  refine ⟨fun s d => ⟨fun started present state clear due => ?_, fun other => ?_⟩,
    fun s c => ⟨fun started present state clear due => ?_, fun other => ?_⟩⟩
  · have bound : d < 64 := doorPresent_lt present
    have occurs : s.heldDue d = true := (heldDue_iff s d).mpr ⟨present, watched_of_mem state, clear, due⟩
    obtain ⟨t, exec, frame⟩ := onEvent_supervised started occurs (f := fun w => w.holdDoor d)
      (v := (((Work.begin s).setDoor d { s.door d with held := true }).markDoor d).report .doorHeld d true) rfl rfl rfl rfl
    refine ⟨t, congrArg Host.Outcome.next exec, ?_, fun e he => ?_, ?_⟩
    · exact (congrArg (fun u : State => u.door d) frame :).trans ((Work.begin s).setDoor_door_self d _ bound)
    · exact (congrArg (fun u : State => u.door e) frame :).trans ((Work.begin s).setDoor_door_ne d e _ he.symm)
    · exact (congrArg (fun u : State => { u with doors := s.doors }) frame :)
  · refine congrArg Host.Outcome.next (onEvent_not ?_ _)
    rw [← Bool.not_eq_true, heldDue_iff]
    rintro ⟨-, -, clear, e, since, reached⟩
    obtain held | ahead := other
    · simp [clear] at held
    · exact (ahead e since).not_ge reached
  · have bound : c < 6 := carPresent_lt present
    have occurs : s.lateDue c = true := (lateDue_iff s c).mpr ⟨present, underRecall_of_mem state, clear, due⟩
    have step : Work.CarStep c (Work.begin s) (((Work.begin s).setCar c { s.car c with late := true }).report
        .recallLate c true) := ((Work.CarStep.refl _).setCar _).reportChange .recallLate c false true
    obtain ⟨t, exec, frame⟩ := onEvent_supervised started occurs (f := fun w => w.becomeLate c) rfl
      (congrArg Work.moved step.rest :) (congrArg Work.toPlace step.rest :) (congrArg Work.joinsDue step.rest :)
    have cars (i : Nat) := congrArg (fun u : State => u.car i) frame
    refine ⟨t, congrArg Host.Outcome.next exec, ?_, fun i hi => ?_, ?_, ?_⟩
    · exact (cars c :).trans ((Work.begin s).setCar_car_self c _ bound)
    · exact (cars i :).trans ((Work.begin s).setCar_car_ne c i _ hi.symm)
    · exact (congrArg (fun u : State => u.cru.banks) frame :).trans step.banks
    · refine (congrArg (fun u : State => { u with cru := s.cru }) frame :).trans ?_
      exact congrArg (fun u : State => { u with cru := s.cru, trc := s.trc, hlc := s.hlc }) (Work.setCar_toState _ _ _)
  · refine congrArg Host.Outcome.next (onEvent_not ?_ _)
    rw [← Bool.not_eq_true, lateDue_iff]
    rintro ⟨-, -, clear, e, since, reached⟩
    obtain late | ahead := other
    · simp [clear] at late
    · exact (ahead e since).not_ge reached

end Sys2Proof.Claims
end

section
/-! PROOFS. Chapters 1, 2 and 5: a zone's change of evaluation as RGC and CRU take it (R18 to R21, R24, R25, R40, R91, R93,
R98), at the expiry of its window (R9) and at its disablement and return (R14, R15). -/

namespace Sys2Proof.Machine

/-! ## The manual's records and the model's -/

theorem alarmed_eq (x : Floor) (clock : Nat) (lobby : Bool) : x.alarmed clock lobby = Claims.alarmRecorded x clock lobby := by
  cases first : x.firstAlarmAt <;> simp [Floor.alarmed, Claims.alarmRecorded, first, satAdd]

theorem entryGeneral_eq (m : Memory) (r : Rgc) : r.entryGeneral m = Claims.generalEntered m r := rfl

theorem begin_eq (m : Memory) (general : Bool) (cause : Option Nat) (r : Rgc) :
    r.begin m cause general = Claims.regimeStarted m general cause r := by
  cases cause <;> cases general <;> rfl

theorem starts_iff (st : RegimeState) : (st = .quiet ∨ st = .alerted) ↔ st.running = false := by
  cases st <;> simp [RegimeState.running]

theorem confirmFloor_eq (m : Memory) (general lobby : Bool) (f : Nat) (r : Rgc) :
    r.confirmFloor m general lobby f =
      let applied := if r.state = .quiet ∨ r.state = .alerted then Claims.regimeStarted m general (some f) r
        else if (r.floor f).fireState = .alarm then r
        else r.origin m f
      applied.mapFloors (fun g => g = f) fun _ x => Claims.alarmRecorded x applied.clock lobby := by
  simp only [starts_iff, ← begin_eq, ← alarmed_eq]
  cases running : r.state.running <;> simp [Rgc.confirmFloor, running]

theorem enterGeneral_eq (m : Memory) (r : Rgc) : r.enterGeneral m =
    if r.state = .quiet ∨ r.state = .alerted then Claims.regimeStarted m true none r
    else if r.state = .active then Claims.generalEntered m r
    else r := by
  cases state : r.state <;> simp [Rgc.enterGeneral, state, begin_eq, entryGeneral_eq]

theorem someFloorZone_iff (s : State) (f : Nat) : s.someFloorZone f .verifying = true ↔ Claims.Verifies s f := by
  simp only [State.someFloorZone, Claims.Verifies, List.any_eq_true, List.mem_range, Bool.and_eq_true, decide_eq_true_eq]
  exact exists_congr fun z => and_congr_right fun _ => and_comm

/-- R18: the fire state that the rule gives is the one that the model derives. -/
theorem fireIs_iff (s : State) (f : Nat) (fire : FireState) : Claims.FireIs s f fire ↔ fire = s.deriveFire f := by
  unfold Claims.FireIs State.deriveFire
  simp only [← someFloorZone_iff]
  cases (s.floor f).alarmLatch <;> cases s.someFloorZone f .verifying <;> simp

/-- R24: the re-examination that the rule gives is the model's. -/
theorem reexamined (m : Memory) (r : Rgc) : Claims.Reexamined m r (r.reexamine m) := by
  unfold Claims.Reexamined
  intro among
  have present (st : FireState) : (floorIndices.any fun f => floorPresent m f && (r.floor f).fireState = st) = true ↔
      among st := by
    simp [among, floorIndices]
  unfold Rgc.reexamine
  dsimp only
  refine ⟨fun quiet pre alarm => ?_, fun quiet none => ?_, fun alerted none => ?_, fun alerted pre => ?_, fun running => ?_⟩
  · simp only [quiet]
    exact if_pos (by simpa [(present .preAlarm).mpr pre] using mt (present .alarm).mp alarm)
  · simp only [quiet]
    refine if_neg fun h => ?_
    obtain ⟨pre, alarm⟩ := Bool.and_eq_true_iff.mp h
    rw [Bool.not_eq_true'] at alarm
    exact none.elim (fun k => k ((present .preAlarm).mp pre)) fun k => by simp [(present .alarm).mpr k] at alarm
  · simp only [alerted]
    exact if_neg (mt (present .preAlarm).mp none)
  · simp only [alerted]
    exact if_pos ((present .preAlarm).mpr pre)
  · obtain state | state := running <;> simp only [state]

theorem escalating_eq (s : State) : s.escalating = (s.hlc.mode = .autonomous && escalates s.map) := by
  simp [State.escalating]

/-! ## What RGC hands on to CRU (R91, R93, R98) -/

/-- R98: the machine-zone confirmation of a bank, on its present cars. -/
def Work.machineAlarms (w : Work) : Option Nat → Work
  | some b => ((presentCars w.map).filter fun c => carBank w.map c = b).foldl Work.machineAlarm w
  | none => w

/-- R92, R93: the cars' part of a hand-off, after the recall floors of its banks. -/
def Work.regimeTurn (w : Work) (old : Vector Bank 2) (started : Bool) : Work :=
  if started then (presentCars w.map).foldl Work.recallAtStart w
  else if w.rgc.state.running then w.retargetChanged old
  else w

theorem cruPart_eq (w : Work) (b : Option Nat) (started fires : Bool) :
    w.cruPart b started fires = (if fires || started then (w.machineAlarms b).chooseBanks else w.machineAlarms b).regimeTurn
      (w.machineAlarms b).cru.banks started := by
  cases b <;> rfl

/-- An operation that leaves a car shut down, or due for it, so. -/
structure Work.KeepsShutdown (f : Work → Nat → Work) : Prop where
  step : ∀ w c, Work.CarStep c w (f w c)
  due : ∀ (w : Work) c, c < 6 → (w.car c).shutdownDue = true → ((f w c).car c).shutdownDue = true
  down : ∀ (w : Work) c, (w.car c).state = .shutDown → f w c = w

theorem retarget_due (w : Work) {c : Nat} (hc : c < 6) : ((w.retarget c).car c).shutdownDue = (w.car c).shutdownDue := by
  have settled (v : Work) : ((v.settleCar c).car c).shutdownDue = (v.car c).shutdownDue :=
    (congrArg Car.shutdownDue (settleCar_keeps v hc) :)
  unfold Work.retarget
  dsimp only
  split
  · rw [settled, Work.setCar_car_self _ _ _ hc]
  · rw [settled, Work.setCar_car_self _ _ _ hc]
  · rw [settled, Work.setCar_car_self _ _ _ hc, clearLate_car w hc]
  all_goals rfl

theorem issueRecall_due (w : Work) {c : Nat} (hc : c < 6) :
    ((w.issueRecall c).car c).shutdownDue = (w.car c).shutdownDue := by
  cases auto : (w.car c).inAuto with
  | true => exact (issueRecall_car w hc auto).2.2.2.2.1
  | false =>
    rw [issueRecall_out auto]
    exact (holdOut_car w hc).2.2.2.2.2

/-- R93: a present car at a regime start is recalled, re-targeted or left. -/
theorem recallAtStart_cases (w : Work) (c : Nat) :
    w.recallAtStart c = w ∨ w.recallAtStart c = w.retarget c ∨ w.recallAtStart c = w.issueRecall c := by
  unfold Work.recallAtStart
  dsimp only
  split
  · exact .inr (.inr rfl)
  all_goals (try split) <;> simp

theorem keepsShutdown_recallAtStart : Work.KeepsShutdown Work.recallAtStart where
  step w _ := (Work.CarStep.refl w).recallAtStart
  due w c hc h := by
    obtain same | same | same := recallAtStart_cases w c
    · rw [same]; exact h
    · rw [same, retarget_due w hc]; exact h
    · rw [same, issueRecall_due w hc]; exact h
  down w c h := by simp only [Work.recallAtStart, h]

/-- R92: the re-targeting of a car whose bank's recall floor changed. -/
def Work.retargetMoved (old : Vector Bank 2) (w : Work) (c : Nat) : Work :=
  if (vget old (carBank w.map c) .reset).recallFloor = (w.bank (carBank w.map c)).recallFloor then w else w.retarget c

theorem keepsShutdown_retargetMoved (old : Vector Bank 2) : Work.KeepsShutdown (Work.retargetMoved old) where
  step w _ := .ite (.refl w) (Work.CarStep.refl w).retarget
  due w c hc h := by
    unfold Work.retargetMoved
    split
    · exact h
    · rw [retarget_due w hc]; exact h
  down w c h := by
    unfold Work.retargetMoved
    split
    · rfl
    · simp only [Work.retarget, h]

theorem keepsShutdown_none : Work.KeepsShutdown (fun w _ => w) where
  step w _ := .refl w
  due _ _ _ h := h
  down _ _ _ := rfl

theorem regimeTurn_eq (w : Work) (old : Vector Bank 2) (started : Bool) :
    ∃ turn, Work.KeepsShutdown turn ∧ (started = true → turn = Work.recallAtStart) ∧
      w.regimeTurn old started = (presentCars w.map).foldl turn w := by
  unfold Work.regimeTurn
  cases started with
  | true => exact ⟨_, keepsShutdown_recallAtStart, fun _ => rfl, rfl⟩
  | false =>
    cases running : w.rgc.state.running with
    | true => exact ⟨_, keepsShutdown_retargetMoved old, fun h => by simp at h, rfl⟩
    | false =>
      refine ⟨_, keepsShutdown_none, fun h => by simp at h, ?_⟩
      have still (l : List Nat) : l.foldl (fun (w : Work) (_ : Nat) => w) w = w := by
        induction l with
        | nil => rfl
        | cons c l ih => exact ih
      rw [still]
      rfl

/-! ### A machine-zone confirmation on one car -/

section
variable (w : Work) {c : Nat} (hc : c < 6)
include hc

theorem machineAlarm_parked (parked : (w.car c).state = .parked) (clear : (w.car c).shutdownDue = false) :
    ((w.machineAlarm c).car c).shutdownDue = true ∧ ((w.machineAlarm c).car c).state = .shutDown := by
  unfold Work.machineAlarm
  rw [if_neg (by simp [clear]), if_pos parked]
  generalize down : (w.setCar c { w.car c with shutdownDue := true }).setCar c _ = v
  have record : v.car c = { w.car c with shutdownDue := true, state := .shutDown } := by
    rw [← down, Work.setCar_car_self _ _ _ hc, Work.setCar_car_self _ _ _ hc]
  have keeps := settleCar_keeps v hc
  have state := settleCar_state_of_ne v hc (by rw [record]; simp)
  rw [record] at keeps state
  exact ⟨(congrArg Car.shutdownDue keeps :), state⟩

theorem machineAlarm_unparked (unparked : (w.car c).state ≠ .parked) :
    (w.machineAlarm c).car c = { w.car c with shutdownDue := true } := by
  unfold Work.machineAlarm
  dsimp only
  by_cases due : (w.car c).shutdownDue = true
  · rw [if_pos due, ← due]
  · rw [if_neg due, if_neg unparked, Work.setCar_car_self _ _ _ hc]

theorem machineAlarm_due : ((w.machineAlarm c).car c).shutdownDue = true := by
  by_cases parked : (w.car c).state = .parked
  · cases clear : (w.car c).shutdownDue with
    | false => exact (machineAlarm_parked w hc parked clear).1
    | true => rw [Work.machineAlarm, if_pos clear]; exact clear
  · rw [machineAlarm_unparked w hc parked]

end

/-! ### The cars after a hand-off -/

theorem chooseRecall_congr {s t : State} (map : t.map = s.map) (rgc : t.rgc = s.rgc) (b : Nat) :
    t.chooseRecall b = s.chooseRecall b := by
  simp only [State.chooseRecall, State.chooseNearest, State.nearestFloor, State.floor, map, rgc]
  rfl

theorem machineAlarms_cars (w : Work) (mb : Option Nat) :
    w.InCars (w.machineAlarms mb) ∧ (w.machineAlarms mb).cru.banks = w.cru.banks ∧
      (∀ c < 6, (w.car c).state ≠ .parked → ∃ due, (w.machineAlarms mb).car c = { w.car c with shutdownDue := due }) ∧
      ∀ c, carPresent w.map c = true → mb = some (carBank w.map c) →
        ((w.machineAlarms mb).car c).shutdownDue = true ∧
          ((w.car c).state = .parked → (w.car c).shutdownDue = false → ((w.machineAlarms mb).car c).state = .shutDown) := by
  cases mb with
  | none => exact ⟨.refl w, rfl, fun c _ _ => ⟨_, rfl⟩, fun c _ h => by simp at h⟩
  | some b =>
    have each := foldl_car (f := Work.machineAlarm) (fun w c => (Work.CarStep.refl w).machineAlarm)
      ((nodup_presentCars w.map).filter fun c => decide (carBank w.map c = b)) w
    refine ⟨(each 0).1, (each 0).2.1, fun c hc unparked => ?_, fun c present bank => ?_⟩
    · obtain ⟨-, -, outside, inside⟩ := each c
      by_cases named : c ∈ (presentCars w.map).filter fun c => decide (carBank w.map c = b)
      · obtain ⟨v, -, -, before, after⟩ := inside named
        exact ⟨true, by rw [Work.machineAlarms, after, machineAlarm_unparked v hc (by rw [before]; exact unparked), before]⟩
      · exact ⟨_, outside named⟩
    · obtain ⟨v, -, -, before, after⟩ := (each c).2.2.2 (List.mem_filter.mpr
        ⟨(mem_presentCars _ c).mpr present, decide_eq_true (Option.some.inj bank).symm⟩)
      have hc := carPresent_lt present
      rw [Work.machineAlarms, after]
      refine ⟨machineAlarm_due v hc, fun parked clear => ?_⟩
      exact (machineAlarm_parked v hc (by rw [before]; exact parked) (by rw [before]; exact clear)).2

theorem chooseBanks_banks (w : Work) {b : Nat} (hb : b < 2) : w.chooseBanks.bank b = w.chooseRecall b := by
  have two : b = 0 ∨ b = 1 := by omega
  obtain rfl | rfl := two
  · exact (vget_vset_ne _ 1 0 _ _ (by decide)).trans (vget_vset_self _ 0 _ _ (by decide))
  · exact vget_vset_self _ 1 _ _ (by decide)

/-- R91, R93, R98: CRU's part of a hand-off, on its banks and on each present car. -/
theorem cruPart_cars (w : Work) (mb : Option Nat) (started fires : Bool) :
    let u := w.cruPart mb started fires
    (∀ c, carPresent w.map c = true → mb = some (carBank w.map c) →
      (u.car c).shutdownDue = true ∧
        ((w.car c).state = .parked → (w.car c).shutdownDue = false → (u.car c).state = .shutDown)) ∧
    (started = true → ∀ c, carPresent w.map c = true → (w.car c).state = .inService →
      let o := (u.bank (carBank w.map c)).recallFloor
      if (w.car c).inAuto = true then
        (u.car c).target = some o ∧ (u.car c).recallStarted = some w.uptime ∧
          (u.car c).state = (if (w.car c).confirmed = true ∧ (w.car c).command = .recall o then .recalling else .recallIssued)
      else (u.car c).state = .heldOut ∧ (u.car c).target = none) ∧
    ((fires || started) = true → ∀ b < 2, u.bank b = w.chooseRecall b) := by
  intro u
  obtain ⟨rest, banks, unparked, alarmed⟩ := machineAlarms_cars w mb
  obtain ⟨chosen, hchosen⟩ : ∃ v, v = if fires || started then (w.machineAlarms mb).chooseBanks else w.machineAlarms mb := ⟨_, rfl⟩
  have cars (c : Nat) : chosen.car c = (w.machineAlarms mb).car c := by rw [hchosen]; split <;> rfl
  have others : w.InCars chosen := by
    rw [hchosen]
    split
    · exact rest.trans rfl
    · exact rest
  obtain ⟨turn, keeps, starts, turned⟩ := regimeTurn_eq chosen (w.machineAlarms mb).cru.banks started
  have hu : u = (presentCars chosen.map).foldl turn chosen := by
    rw [← turned, hchosen, ← cruPart_eq]
  have each := foldl_car keeps.step (nodup_presentCars chosen.map) chosen
  have finalBanks : u.cru.banks = chosen.cru.banks := by rw [hu]; exact (each 0).2.1
  have here {c : Nat} (present : carPresent w.map c = true) : ∃ v, chosen.InCars v ∧ v.cru.banks = chosen.cru.banks ∧
      v.car c = (w.machineAlarms mb).car c ∧ u.car c = (turn v c).car c := by
    obtain ⟨v, inCars, same, before, after⟩ := (each c).2.2.2 (by rw [others.map]; exact (mem_presentCars _ c).mpr present)
    exact ⟨v, inCars, same, before.trans (cars c), by rw [hu]; exact after⟩
  refine ⟨fun c present bank => ?_, fun started c present serving => ?_, fun chooses b hb => ?_⟩
  · obtain ⟨due, down⟩ := alarmed c present bank
    obtain ⟨v, -, -, before, after⟩ := here present
    rw [after]
    refine ⟨keeps.due v c (carPresent_lt present) (by rw [before]; exact due), fun parked clear => ?_⟩
    have state : (v.car c).state = .shutDown := by rw [before]; exact down parked clear
    rw [keeps.down v c state]
    exact state
  · have hc := carPresent_lt present
    obtain ⟨v, inCars, same, before, after⟩ := here present
    obtain ⟨due, flagged⟩ := unparked c hc (by rw [serving]; decide)
    rw [flagged] at before
    have recalls : turn v c = v.issueRecall c := by
      rw [starts started]
      have state : (v.car c).state = .inService := by rw [before]; exact serving
      simp only [Work.recallAtStart, state]
    have floor : (v.bank (carBank v.map c)).recallFloor = (u.bank (carBank w.map c)).recallFloor := by
      rw [(others.trans inCars).map, State.bank, State.bank, same, finalBanks]
    have auto : (v.car c).inAuto = (w.car c).inAuto := by rw [before]; rfl
    rw [after, recalls]
    split
    next h =>
      obtain ⟨target, since, state, -⟩ := issueRecall_car v hc (auto.trans h)
      rw [floor] at target state
      rw [before] at state
      exact ⟨target, since.trans (congrArg some (others.trans inCars).uptime), state⟩
    next h =>
      rw [issueRecall_out (auto.trans (Bool.eq_false_iff.mpr h))]
      obtain ⟨state, target, -⟩ := holdOut_car v hc
      exact ⟨state, target⟩
  · rw [State.bank, finalBanks, hchosen, if_pos chooses]
    exact (chooseBanks_banks _ hb).trans (chooseRecall_congr rest.map rest.rgc b)

/-- R188: the cars after an event of RGC are those that CRU's part leaves. -/
theorem rgcEvent_cars (w : Work) (r : Rgc) (n : News) : ∃ (v : Work) (fires : Bool),
    v.cru = w.cru ∧ v.rgc = r ∧ v.map = w.map ∧ v.uptime = w.uptime ∧
      (fires = true ↔ ∃ f < 32, (w.rgc.floor f).fireState ≠ (r.floor f).fireState ∨
        (w.rgc.floor f).lobbyAlarm ≠ (r.floor f).lobbyAlarm) ∧
      (w.rgcEvent r n).cru = (v.cruPart n.machineBank n.started (fires || n.returned)).cru := by
  have posted : Leads {} (w.setRgc r) ((w.setRgc r).postRegime w.rgc n) := (Leads.refl _).postRegime _ _
  unfold Work.rgcEvent Work.handOff
  dsimp only
  generalize (w.setRgc r).postRegime w.rgc n = p at posted ⊢
  have record : p.rgc = r := posted.untouched.rgc rfl
  generalize hphases : (floorIndices.filter fun f => decide ((w.rgc.floor f).phase ≠ _)) = phases
  generalize (!phases.isEmpty || _ || _ || _ : Bool) = toAns
  generalize hfires : (floorIndices.any fun f => _) = fires
  generalize (phases.any fun f => decide ((w.rgc.floor f).phase = .none)) = leftNone
  have handed : Leads {} (w.setRgc r) (if toAns = true then (p.druPhases phases).ansPhases leftNone n.returned
      else p.druPhases phases) := .ite ((posted.druPhases _).ansPhases _ _) (posted.druPhases _)
  refine ⟨_, fires, handed.untouched.cru rfl, handed.untouched.rgc rfl,
    congrArg Mst.map (handed.untouched.mst rfl), handed.untouched.uptime rfl, ?_,
    ((Leads.refl (n := {}) _).endEvent).untouched.cru rfl⟩
  rw [← hfires, record]
  simp [floorIndices]

/-! ## A zone's change as RGC and CRU take it -/

section
variable {s t : State} {w : Work} {z : Nat}

/-- CRU takes an event of RGC that carries a zone's change. -/
theorem zoneToCars_of_rgcEvent {r : Rgc} {n : News} (rgc : w.rgc = s.rgc) (cru : w.cru = s.cru) (map : w.map = s.map)
    (uptime : w.uptime = s.uptime) (record : t.rgc = r) (cars : t.cru = (w.rgcEvent r n).cru) (same : t.map = s.map)
    (bank : ∀ b, zoneClass s.map z = .machine b → (t.zone z).eval = .confirmed → n.machineBank = some b)
    (starts : (t.zone z).eval = .confirmed → (s.rgc.state = .quiet ∨ s.rgc.state = .alerted) → n.started = true) :
    Claims.ZoneToCars s t z := by
  obtain ⟨v, fires, vcru, vrgc, vmap, vuptime, fired, result⟩ := rgcEvent_cars w r n
  obtain ⟨alarmed, recalled, chosen⟩ := cruPart_cars v n.machineBank n.started (fires || n.returned)
  have final : t.cru = (v.cruPart n.machineBank n.started (fires || n.returned)).cru := cars.trans result
  have car (c : Nat) : (v.cruPart n.machineBank n.started (fires || n.returned)).car c = t.car c := by
    rw [State.car, ← final]; rfl
  have bankOf (b : Nat) : (v.cruPart n.machineBank n.started (fires || n.returned)).bank b = t.bank b := by
    rw [State.bank, ← final]; rfl
  have before (c : Nat) : v.car c = s.car c := by rw [State.car, vcru, cru]; rfl
  rw [vmap, map] at alarmed recalled
  simp only [car, bankOf, before, vuptime, uptime] at alarmed recalled chosen
  refine ⟨fun b machine confirmed c _ present serves => ?_, fun started c _ present serving => ?_, fun moved b hb => ?_⟩
  · obtain ⟨due, down⟩ := alarmed c present (by rw [serves]; exact bank b machine confirmed)
    refine ⟨due, fun parked clear => ⟨down parked clear, ?_⟩⟩
    simp [Car.wanted, down parked clear, wantedCommandOf]
  · have taken := recalled (starts started.1 started.2) c present serving
    simpa [Car.inAuto] using taken
  · rw [chosen ?_ b hb, chooseRecall_congr (vmap.trans map |>.trans same.symm) (vrgc.trans record.symm)]
    obtain started | ⟨f, hf, changed⟩ := moved
    · simp [starts started.1 started.2]
    · have fire : fires = true := by
        refine fired.mpr ⟨f, hf, .inr ?_⟩
        rw [rgc, ← record]
        exact Ne.symm changed
      simp [fire]

/-- CRU takes nothing where RGC changes nothing. -/
theorem zoneToCars_of_same (rgc : t.rgc = s.rgc)
    (bank : ∀ b, zoneClass s.map z = .machine b → (t.zone z).eval ≠ .confirmed)
    (starts : (t.zone z).eval = .confirmed → ¬ (s.rgc.state = .quiet ∨ s.rgc.state = .alerted)) :
    Claims.ZoneToCars s t z := by
  refine ⟨fun b machine confirmed => absurd confirmed (bank b machine), fun started => absurd started.2 (starts started.1), ?_⟩
  rintro (started | ⟨f, -, changed⟩)
  · exact absurd started.2 (starts started.1)
  · exact absurd (congrArg (fun r : Rgc => (r.floor f).lobbyAlarm) rgc) changed

/-- R18, R21: RGC and CRU take the change of a zone's evaluation state that ZEV hands on. -/
theorem zoneHandOff_taken (rgc : w.rgc = s.rgc) (cru : w.cru = s.cru) (map : w.map = s.map) (uptime : w.uptime = s.uptime)
    (mode : w.hlc.mode = s.hlc.mode) (zev : t.zev = w.zev) (record : t.rgc = (w.zoneHandOff z (t.zone z).eval).rgc)
    (cars : t.cru = (w.zoneHandOff z (t.zone z).eval).cru) (same : t.map = s.map) :
    Claims.ZoneToRegime s t z ∧ Claims.ZoneToCars s t z := by
  have escalating : w.escalating = (s.hlc.mode = .autonomous && escalates s.map) := by rw [escalating_eq, mode, map]
  have fireOf (f : Nat) (fire : FireState) : Claims.FireIs { s with zev := t.zev } f fire ↔ fire = w.deriveFire f := by
    rw [fireIs_iff]
    simp only [State.deriveFire, State.someFloorZone, State.zone, State.floor, rgc, zev, map]
    exact Iff.rfl
  have starting : (!w.rgc.state.running) = true ↔ (s.rgc.state = .quiet ∨ s.rgc.state = .alerted) := by
    rw [rgc, starts_iff, Bool.not_eq_true']
  unfold Work.zoneHandOff at record cars
  dsimp only at record cars
  rw [map] at record cars
  cases zclass : zoneClass s.map z with
  | floorZone f =>
    simp only [zclass] at record cars
    have machineless (b : Nat) : zoneClass s.map z ≠ .machine b := by simp [zclass]
    have floored : zoneClass s.map z ≠ .floorless := by simp [zclass]
    have only {g : Nat} (h : zoneClass s.map z = .floorZone g) : f = g := ZoneClass.floorZone.inj (zclass.symm.trans h)
    by_cases confirmed : (t.zone z).eval = .confirmed
    · rw [if_pos confirmed] at record cars
      rw [Work.rgcEvent_rgc, rgc, escalating, confirmFloor_eq] at record
      refine ⟨⟨fun g hg _ => only hg ▸ record, fun g _ _ h => absurd confirmed h, fun b hb => absurd hb (machineless b),
        fun h => absurd h floored, fun _ h => absurd confirmed h⟩, ?_⟩
      refine zoneToCars_of_rgcEvent rgc cru map uptime ?_ cars same (fun b hb => absurd hb (machineless b))
        fun _ => starting.mpr
      rw [record, rgc, escalating, confirmFloor_eq]
    · rw [if_neg confirmed] at record cars
      have floor : w.floor f = s.floor f := by rw [State.floor, rgc]; rfl
      by_cases kept : w.deriveFire f = (w.floor f).fireState
      · rw [if_pos kept] at record
        have still : t.rgc = s.rgc := record.trans rgc
        refine ⟨⟨fun g _ h => absurd h confirmed, fun g fire hg _ derived => ⟨fun _ => still, fun moved => ?_⟩,
          fun b hb => absurd hb (machineless b), fun h => absurd h floored, fun h => absurd zclass (h f)⟩,
          zoneToCars_of_same still (fun b hb => absurd hb (machineless b)) fun h => absurd h confirmed⟩
        obtain rfl := only hg
        exact absurd (((fireOf f fire).mp derived).trans (kept.trans (congrArg Floor.fireState floor))) moved
      · rw [if_neg kept] at record cars
        rw [Work.rgcEvent_rgc, rgc] at record
        refine ⟨⟨fun g _ h => absurd h confirmed, fun g fire hg _ derived => ?_,
          fun b hb => absurd hb (machineless b), fun h => absurd h floored, fun h => absurd zclass (h f)⟩,
          zoneToCars_of_rgcEvent rgc cru map uptime (record.trans (by rw [rgc])) cars same
            (fun b hb => absurd hb (machineless b)) fun h => absurd h confirmed⟩
        obtain rfl := only hg
        obtain rfl := (fireOf f fire).mp derived
        refine ⟨fun h => absurd (h.trans (congrArg Floor.fireState floor.symm)) kept, fun _ => ?_⟩
        rw [record]
        exact reexamined _ _
  | floorless =>
    simp only [zclass] at record cars
    have machineless (b : Nat) : zoneClass s.map z ≠ .machine b := by simp [zclass]
    have unfloored (f : Nat) : zoneClass s.map z ≠ .floorZone f := by simp [zclass]
    by_cases confirmed : (t.zone z).eval = .confirmed
    · rw [if_pos confirmed] at record cars
      have entered : t.rgc = s.rgc.enterGeneral s.map := by
        rw [record, apply_ite (fun v : Work => v.rgc), Work.rgcEvent_rgc, rgc]
        split
        next general => simp only [Rgc.enterGeneral, general]
        next => rfl
      rw [enterGeneral_eq] at entered
      refine ⟨⟨fun f hf => absurd hf (unfloored f), fun f _ hf => absurd hf (unfloored f),
        fun b hb => absurd hb (machineless b), fun _ _ => entered, fun _ h => absurd confirmed h⟩, ?_⟩
      by_cases general : w.rgc.state = .general
      · rw [if_pos general] at record
        refine zoneToCars_of_same (record.trans rgc) (fun b hb => absurd hb (machineless b)) fun _ => ?_
        rw [← rgc, general]
        simp
      · rw [if_neg general] at record cars
        exact zoneToCars_of_rgcEvent rgc cru map uptime (record.trans (Work.rgcEvent_rgc _ _ _)) cars same
          (fun b hb => absurd hb (machineless b)) fun _ => starting.mpr
    · rw [if_neg confirmed] at record
      exact ⟨⟨fun f hf => absurd hf (unfloored f), fun f _ hf => absurd hf (unfloored f),
        fun b hb => absurd hb (machineless b), fun _ h => absurd h confirmed, fun _ _ => record.trans rgc⟩,
        zoneToCars_of_same (record.trans rgc) (fun b hb => absurd hb (machineless b)) fun h => absurd h confirmed⟩
  | machine b =>
    simp only [zclass] at record cars
    have floored : zoneClass s.map z ≠ .floorless := by simp [zclass]
    have unfloored (f : Nat) : zoneClass s.map z ≠ .floorZone f := by simp [zclass]
    by_cases confirmed : (t.zone z).eval = .confirmed
    · rw [if_pos confirmed] at record cars
      have taken := record.trans (Work.rgcEvent_rgc _ _ _)
      refine ⟨⟨fun f hf => absurd hf (unfloored f), fun f _ hf => absurd hf (unfloored f), fun _ _ _ => ?_,
        fun h => absurd h floored, fun _ h => absurd confirmed h⟩,
        zoneToCars_of_rgcEvent rgc cru map uptime taken cars same (fun k hk _ => ?_) fun _ => starting.mpr⟩
      · rw [taken, escalating, begin_eq]
        refine (if_congr starting rfl rfl).trans ?_
        rw [rgc]
      · exact congrArg some (ZoneClass.machine.inj (zclass.symm.trans hk))
    · rw [if_neg confirmed] at record
      exact ⟨⟨fun f hf => absurd hf (unfloored f), fun f _ hf => absurd hf (unfloored f),
        fun _ _ h => absurd h confirmed, fun h => absurd h floored, fun _ _ => record.trans rgc⟩,
        zoneToCars_of_same (record.trans rgc) (fun _ _ => confirmed) fun h => absurd h confirmed⟩

end

theorem zoneChanged_handsOff (w : Work) {z : Nat} {r : Zone} {cause : ZoneCause} (h : r.eval ≠ (w.zone z).eval) :
    w.zoneChanged z r cause =
      ((w.setZone z r).post .zone (zoneBody (w.setZone z r).toState z cause)).zoneHandOff z r.eval := if_neg h

/-- R16, R18, R21: everything outside the link and the collection after a change of a zone's evaluation state. -/
theorem zoneChanged_taken {s t : State} {w : Work} {z : Nat} {r : Zone} {cause : ZoneCause} (hz : z < 128)
    (moved : r.eval ≠ (s.zone z).eval) (same : w.toState = s)
    (others : { t with trc := (w.zoneChanged z r cause).trc, hlc := (w.zoneChanged z r cause).hlc } =
      (w.zoneChanged z r cause).toState) :
    t.zone z = r ∧ (∀ y, y ≠ z → t.zone y = s.zone y) ∧ t.zev.panelTrouble = s.zev.panelTrouble ∧
      Claims.ZoneToRegime s t z ∧ Claims.ZoneToCars s t z ∧ t.mst = s.mst ∧ t.uptime = s.uptime := by
  subst same
  have leads : Leads { cru := true, rgc := true, zev := true } w (w.zoneChanged z r cause) :=
    (Leads.refl _).zoneChanged rfl rfl rfl _ _ _
  have mst : t.mst = w.mst := (congrArg State.mst others :).trans (leads.untouched.mst rfl)
  have zev : t.zev = (w.setZone z r).zev := (congrArg State.zev others :).trans (zev_zoneChanged w z r cause)
  have zone : t.zone z = r := by
    rw [State.zone, zev]; exact Work.setZone_zone_self w z r hz
  have handed := zoneChanged_handsOff w (cause := cause) moved
  obtain ⟨regime, cars⟩ := zoneHandOff_taken (s := w.toState) (t := t) (z := z)
    (w := (w.setZone z r).post .zone (zoneBody (w.setZone z r).toState z cause)) rfl rfl rfl rfl
    (congrArg Hlc.mode (Hlc.post_link w.hlc .zone _) :) zev
    (by rw [zone, ← handed]; exact (congrArg State.rgc others :)) (by rw [zone, ← handed]; exact (congrArg State.cru others :))
    (congrArg Mst.map mst)
  refine ⟨zone, fun y hy => ?_, (congrArg Zev.panelTrouble zev).trans (by rw [Work.setZone_zev]), regime, cars, mst,
    (congrArg State.uptime others :).trans (leads.untouched.uptime rfl)⟩
  rw [State.zone, zev]
  exact Work.setZone_zone_ne w z y r hy.symm

theorem windowOver_iff (s : State) (z : Nat) : s.windowOver z = true ↔
    z < 128 ∧ (s.zone z).eval = .verifying ∧ ∃ d, (s.zone z).deadline = some d ∧ d ≤ s.uptime := by
  simp only [State.windowOver, Bool.and_eq_true, decide_eq_true_eq, Option.any_eq_true, and_assoc]

/-- R9: a window that expires ends the verification. -/
theorem expired_eval_ne (r : Zone) : r.expired.eval ≠ .verifying := by
  unfold Zone.expired
  split <;> simp [Zone.settledIn]

theorem State.enabled_eq (s : State) (z : Nat) : s.enabled z =
    if (s.zone z).condition ≠ .alarm then { s.zone z with eval := .quiet, count := 0, deadline := none }
    else if zoneKind s.map z = .manual ∨ effectiveConfirm s.map z = 1 then
      { s.zone z with eval := .confirmed, count := 0, deadline := none }
    else { s.zone z with eval := .verifying, count := 1, deadline := some (s.uptime + zoneWindow s.map z) } := by
  by_cases alarm : (s.zone z).condition = .alarm <;>
    simp [State.enabled, State.restarted, Zone.settledIn, State.edgeOnQuiet, alarm]

end Sys2Proof.Machine

namespace Sys2Proof.Claims

open Sys2Proof Sys2Proof.Machine

/-- Settles O26: an expiry that occurs is one change of a zone, handed on. -/
theorem zoneWindowExpires : Obligations.ZoneWindowExpires := by
  refine fun s z => ⟨fun started hz verifying due => ?_, fun other => ?_⟩
  · have occurs : s.windowOver z = true := (windowOver_iff s z).mpr ⟨hz, verifying, due⟩
    have moved : (s.zone z).expired.eval ≠ (s.zone z).eval := by rw [verifying]; exact expired_eval_ne _
    have leads : Leads { cru := true, rgc := true, zev := true } (Work.begin s)
        ((Work.begin s).zoneChanged z (s.zone z).expired .expiry) := (Leads.refl _).zoneChanged rfl rfl rfl _ _ _
    have link := linkKept_finish (leads.untouched.link rfl)
    have others := ((Work.begin s).zoneChanged z (s.zone z).expired .expiry).finish_others
    obtain ⟨t, ht⟩ : ∃ t, t = ((Work.begin s).zoneChanged z (s.zone z).expired .expiry).finish := ⟨_, rfl⟩
    rw [← ht] at link others
    have exec : execZoneWindowExpiry z s = .next t := by
      rw [ht]; exact congrArg Host.Outcome.next (onEvent_occurs started occurs _)
    obtain ⟨zone, zones, panels, regime, cars, mst, uptime⟩ := zoneChanged_taken hz moved rfl others
    exact ⟨t, exec, zone, zones, panels, regime, cars, mst, uptime, link⟩
  · refine congrArg Host.Outcome.next (onEvent_not ?_ _)
    rw [← Bool.not_eq_true, windowOver_iff]
    rintro ⟨-, verifying, d, ends, reached⟩
    obtain still | ahead := other
    · exact still verifying
    · exact (ahead d ends).not_ge reached

/-- R14, R15: a served request that changes a zone's evaluation state. -/
theorem serve_zoneChanged {s : State} {req : Request} {code z : Nat} {rule : Work → Nat → Answer} {w : Work} {r : Zone}
    {cause : ZoneCause} (hs : Serves s code req) (length : lengthIs 1 req.body = true) (index : byteAt req.body 0 = z)
    (hz : z < 128) (moved : r.eval ≠ (s.zone z).eval) (same : w.toState = s) (leads : Leads { cru := true, rgc := true, zev := true } (Work.begin s) w)
    (hr : rule (Work.begin s) z = ⟨w.zoneChanged z r cause, .ok, []⟩) :
    ∃ t, s.serveByte code rule = t ∧ Done s t req .ok [] ∧ t.zone z = r ∧ (∀ y, y ≠ z → t.zone y = s.zone y) ∧
      ZoneToRegime s t z ∧ ZoneToCars s t z ∧ t.mst = s.mst ∧ t.uptime = s.uptime := by
  obtain ⟨done, others, -⟩ := serve_event (rule := fun w body => rule w (byteAt body 0)) hs length (by rw [index]; exact hr)
    (leads.zoneChanged rfl rfl rfl z r cause) rfl
  obtain ⟨zone, zones, -, taken⟩ := zoneChanged_taken hz moved same others
  exact ⟨_, rfl, done, zone, zones, taken⟩

/-- Settles O27: either request refuses, leaves the zone, or is one change of it, handed on. -/
theorem zoneDisableAndEnable : Obligations.ZoneDisableAndEnable := by
  intro s req z body
  have length : lengthIs 1 req.body = true := by rw [body]; rfl
  have index : byteAt req.body 0 = z.toNat := by rw [body]; rfl
  refine ⟨fun hs => ⟨fun out => ?_, fun known same => ?_, fun known moved => ?_⟩,
    fun hs => ⟨fun out => ?_, fun known same => ?_, fun known moved => ?_⟩⟩
  · refine congrArg Host.Outcome.next (serve_plain (rule := fun w body => zoneDisableRule w (byteAt body 0)) hs length ?_)
    rw [index]; exact if_neg out.not_gt
  · refine congrArg Host.Outcome.next (serve_plain (rule := fun w body => zoneDisableRule w (byteAt body 0)) hs length ?_)
    rw [index, zoneDisableRule, if_pos known, Work.disableZone, if_pos (by exact same)]
  · obtain ⟨t, ht, rest⟩ := serve_zoneChanged (rule := zoneDisableRule) (w := (Work.begin s).report .zoneDisabled z.toNat true)
      (r := (s.zone z.toNat).settledIn .disabled) (cause := .disable) hs length index known moved.symm rfl
      ((Leads.refl _).report _ _ _)
      (by rw [zoneDisableRule, if_pos known, Work.disableZone, if_neg (by exact moved)]; rfl)
    exact ⟨t, congrArg Host.Outcome.next ht, rest⟩
  · refine congrArg Host.Outcome.next (serve_plain (rule := fun w body => zoneEnableRule w (byteAt body 0)) hs length ?_)
    rw [index]; exact if_neg out.not_gt
  · refine congrArg Host.Outcome.next (serve_plain (rule := fun w body => zoneEnableRule w (byteAt body 0)) hs length ?_)
    rw [index, zoneEnableRule, if_pos known, Work.enableZone, if_neg (by exact same)]
  · have enabled := s.enabled_eq z.toNat
    obtain ⟨t, ht, done, zone, rest⟩ := serve_zoneChanged (rule := zoneEnableRule)
      (w := (Work.begin s).report .zoneDisabled z.toNat false) (r := s.enabled z.toNat) (cause := .enable) hs length index
      known (by rw [moved, enabled]; split <;> [simp; (split <;> simp)]) rfl ((Leads.refl _).report _ _ _)
      (by rw [zoneEnableRule, if_pos known, Work.enableZone, if_pos (by exact moved)]; rfl)
    exact ⟨t, congrArg Host.Outcome.next ht, done, zone.trans enabled, rest⟩

end Sys2Proof.Claims
end

section
/-! PROOFS. Chapter 3: what a grant pass does to each claim (R55 to R58), and what shedding takes (R59, R60). -/

namespace Sys2Proof.Machine

/-! ## One claim changed or dropped -/

theorem Lbu.mem_change {l : Lbu} {c : Claim} (h : c ∈ l.claims) (who : Claimant) (f : Claim → Claim) :
    (if c.claimant = who then f c else c) ∈ (l.change who f).claims :=
  List.mem_map.mpr ⟨c, h, rfl⟩

theorem Lbu.mem_change_self {l : Lbu} {c : Claim} (h : c ∈ l.claims) (f : Claim → Claim) :
    f c ∈ (l.change c.claimant f).claims := by
  simpa using l.mem_change h c.claimant f

theorem Lbu.mem_change_ne {l : Lbu} {c : Claim} (h : c ∈ l.claims) {who : Claimant} (other : c.claimant ≠ who)
    (f : Claim → Claim) : c ∈ (l.change who f).claims := by
  simpa [other] using l.mem_change h who f

theorem Lbu.mem_drop_ne {l : Lbu} {c : Claim} (h : c ∈ l.claims) {who : Claimant} (other : c.claimant ≠ who) :
    c ∈ (l.drop who).claims :=
  List.mem_filter.mpr ⟨h, decide_eq_true other⟩

theorem Lbu.eq_of_claimant {l : Lbu} (hl : l.single) {c d : Claim} (hc : c ∈ l.claims) (hd : d ∈ l.claims)
    (same : d.claimant = c.claimant) : d = c :=
  List.inj_on_of_nodup_map hl hd hc same

/-- The sums of a source, as one claim of it is replaced. -/
theorem sum_replaced {β : Type} (key : Claim → β) [DecidableEq β] (weight weight' : Claim → Nat) {l : List Claim}
    (single : (l.map key).Nodup) {c : Claim} (hc : c ∈ l) :
    (l.map fun d => if key d = key c then weight' d else weight d).sum + weight c = (l.map weight).sum + weight' c := by
  induction l with
  | nil => cases hc
  | cons x l ih =>
    obtain ⟨first, single⟩ := List.nodup_cons.mp single
    simp only [List.map_cons, List.sum_cons]
    obtain rfl | later := List.mem_cons.mp hc
    · have rest : (l.map fun d => if key d = key c then weight' d else weight d) = l.map weight :=
        List.map_congr_left fun d hd => if_neg fun same : key d = key c => first (same ▸ List.mem_map_of_mem hd)
      rw [rest, if_pos rfl]
      omega
    · have other : key x ≠ key c := fun same => first (same ▸ List.mem_map_of_mem later)
      rw [if_neg other]
      have := ih single later
      omega

theorem Lbu.used_change_exact {l : Lbu} (hl : l.single) {c : Claim} (hc : c ∈ l.claims) {f : Claim → Claim}
    (src : Source) : (l.change c.claimant f).used src + c.weight src = l.used src + (f c).weight src := by
  rw [Lbu.used_eq, Lbu.used_eq, ← sum_replaced Claim.claimant (Claim.weight src) (fun d => (f d).weight src) hl hc]
  refine congrArg (fun l : List Nat => l.sum + c.weight src) ?_
  rw [Lbu.change, List.map_map]
  exact List.map_congr_left fun d _ => apply_ite (Claim.weight src) _ _ _

theorem Lbu.used_drop_exact {l : Lbu} (hl : l.single) {c : Claim} (hc : c ∈ l.claims) (src : Source) :
    (l.drop c.claimant).used src + c.weight src = l.used src := by
  have replaced := sum_replaced Claim.claimant (Claim.weight src) (fun _ => 0) hl hc
  rw [Lbu.used_eq, Lbu.used_eq, ← Nat.add_zero (l.claims.map (Claim.weight src)).sum, ← replaced]
  refine congrArg (· + c.weight src) ?_
  simp only [Lbu.drop]
  clear replaced hc hl
  induction l.claims with
  | nil => rfl
  | cons d l ih =>
    by_cases same : d.claimant = c.claimant
    · simpa [same] using ih
    · simpa [same] using ih

/-! ## Waiting claims -/

theorem Claim.waiting_eq_false {c : Claim} : c.waiting = false ↔ c.source ≠ none := by
  rw [Claim.waiting, Option.isNone_eq_false_iff, Option.isSome_iff_ne_none]

theorem Lbu.urgentWaiting_eq (l : Lbu) :
    l.urgentWaiting = (l.claims.filter Claim.waiting).any fun c => decide (c.level ≤ 1) := by
  rw [List.any_filter]; rfl

theorem Lbu.urgentWaiting_iff (l : Lbu) : l.urgentWaiting = true ↔ ∃ c ∈ l.claims, c.waiting = true ∧ c.level ≤ 1 := by
  simp [Lbu.urgentWaiting, Claim.waiting]

/-- R56: moving a granted claim leaves those that wait. -/
theorem Lbu.waiting_change {l : Lbu} {who : Claimant} {f : Claim → Claim}
    (h : ∀ c ∈ l.claims, c.claimant = who → c.waiting = false ∧ (f c).waiting = false) :
    (l.change who f).claims.filter Claim.waiting = l.claims.filter Claim.waiting := by
  unfold Lbu.change
  dsimp only
  revert h
  induction l.claims with
  | nil => exact fun _ => rfl
  | cons c cs ih =>
    intro h
    have rest := ih fun d hd => h d (List.mem_cons_of_mem _ hd)
    by_cases same : c.claimant = who
    · obtain ⟨before, after⟩ := h c List.mem_cons_self same
      simp [same, before, after, rest]
    · simp only [List.map_cons, if_neg same, List.filter_cons, rest]

theorem mem_waitList (l : Lbu) (c : Claim) : c ∈ l.waitList ↔ c ∈ l.claims ∧ c.source = none := by
  rw [Lbu.waitList, mem_sortBy, List.mem_filter, Claim.waiting, Option.isNone_iff_eq_none]

theorem waitList_levels (l : Lbu) : l.waitList.Pairwise fun a b => a.level ≤ b.level := by
  refine (sortBy_pairwise (fun a b => ?_) (fun a b c => ?_) _).imp (S := fun a b : Claim => a.level ≤ b.level) fun {a b} h => ?_
  · simp only [decide_eq_true_eq]; omega
  · simp only [decide_eq_true_eq]; omega
  · have := of_decide_eq_true h
    omega

/-! ## Claims to be tried -/

/-- The claims of a list stand in the account, each of its own claimant. -/
structure Lbu.Lists (l : Lbu) (cs : List Claim) : Prop where
  single : l.single
  distinct : (cs.map Claim.claimant).Nodup
  stands : ∀ c ∈ cs, c ∈ l.claims

/-- The claims of every claimant outside a list stay. -/
def Lbu.KeepsBut (cs : List Claim) (l l' : Lbu) : Prop :=
  ∀ d ∈ l.claims, (∀ c ∈ cs, d.claimant ≠ c.claimant) → d ∈ l'.claims

theorem Lbu.KeepsBut.refl (cs : List Claim) (l : Lbu) : l.KeepsBut cs l := fun _ h _ => h

theorem Lbu.KeepsBut.append {cs ds : List Claim} {l m n : Lbu} (h : l.KeepsBut cs m) (k : m.KeepsBut ds n) :
    l.KeepsBut (cs ++ ds) n :=
  fun d hd apart => k d (h d hd fun c hc => apart c (List.mem_append_left _ hc))
    fun c hc => apart c (List.mem_append_right _ hc)

theorem Lbu.keepsBut_change (l : Lbu) (c : Claim) (f : Claim → Claim) : l.KeepsBut [c] (l.change c.claimant f) :=
  fun _ hd apart => l.mem_change_ne hd (apart c (.head _)) f

theorem Lbu.keepsBut_drop (l : Lbu) (c : Claim) : l.KeepsBut [c] (l.drop c.claimant) :=
  fun _ hd apart => l.mem_drop_ne hd (apart c (.head _))

theorem Lbu.Lists.later {l l' : Lbu} {cs ds : List Claim} (h : l.Lists (cs ++ ds)) (single : l'.single)
    (keeps : l.KeepsBut cs l') : l'.Lists ds where
  single := single
  distinct := (List.nodup_append.mp (List.map_append ▸ h.distinct)).2.1
  stands d hd := by
    refine keeps d (h.stands d (List.mem_append_right _ hd)) fun c hc same => ?_
    have distinct := h.distinct
    rw [List.map_append, List.nodup_append] at distinct
    exact distinct.2.2 _ (List.mem_map_of_mem hc) _ (List.mem_map_of_mem hd) same.symm

theorem Lbu.Lists.head {l : Lbu} {cs ds : List Claim} (h : l.Lists (cs ++ ds)) : l.Lists cs where
  single := h.single
  distinct := (List.nodup_append.mp (List.map_append ▸ h.distinct)).1
  stands c hc := h.stands c (List.mem_append_left _ hc)

/-- A list of claims is taken claim by claim: one step does `rel` for the claim it takes, and the steps together do it
for the whole list. -/
structure Turns {β : Type} (view : β → Lbu) (f : β → Claim → β) (admits : Claim → Prop)
    (rel : List Claim → β → β → Prop) : Prop where
  nil : ∀ a, (view a).single → rel [] a a
  append : ∀ {cs ds a b c}, ((cs ++ ds).map Claim.claimant).Nodup → rel cs a b → rel ds b c → rel (cs ++ ds) a c
  single : ∀ {cs a b}, rel cs a b → (view b).single
  keeps : ∀ {cs a b}, rel cs a b → (view a).KeepsBut cs (view b)
  step : ∀ {a c}, (view a).single → c ∈ (view a).claims → admits c → rel [c] a (f a c)

namespace Turns

variable {β : Type} {view : β → Lbu} {f : β → Claim → β} {admits : Claim → Prop} {rel : List Claim → β → β → Prop}

theorem foldl (t : Turns view f admits rel) {cs : List Claim} {a : β} (h : (view a).Lists cs) (ha : ∀ c ∈ cs, admits c) :
    rel cs a (cs.foldl f a) := by
  induction cs generalizing a with
  | nil => exact t.nil _ h.single
  | cons c cs ih =>
    have first := t.step h.single (h.stands c (.head _)) (ha c (.head _))
    have rest := h.later (cs := [c]) (t.single first) (t.keeps first)
    exact t.append (cs := [c]) h.distinct first (ih rest fun d hd => ha d (.tail _ hd))

/-- A claim taken in its turn: what was done before it, at it and after it. -/
theorem turn (t : Turns view f admits rel) {before after : List Claim} {c : Claim} {a : β}
    (h : (view a).Lists (before ++ c :: after)) (ha : ∀ d ∈ before ++ c :: after, admits d) :
    let now := before.foldl f a
    (view now).single ∧ c ∈ (view now).claims ∧ rel before a now ∧ rel [c] now (f now c) ∧
      rel after (f now c) ((before ++ c :: after).foldl f a) := by
  intro now
  have first : rel before a now := t.foldl h.head fun d hd => ha d (List.mem_append_left _ hd)
  have listed := h.later (t.single first) (t.keeps first)
  have here := t.step listed.single (listed.stands c (.head _)) (ha c (by simp))
  have rest := listed.later (cs := [c]) (t.single here) (t.keeps here)
  refine ⟨listed.single, listed.stands c (.head _), first, here, ?_⟩
  rw [List.foldl_append, List.foldl_cons]
  exact t.foldl rest fun d hd => ha d (List.mem_append_right _ (.tail _ hd))

end Turns

/-! ## The scan (R57, R58) -/

/-- What the scan of a list of waiting claims does to the account and to the list of those granted. -/
structure Scanned (cs : List Claim) (a b : Lbu × List Claimant) : Prop where
  single : b.1.single
  keeps : a.1.KeepsBut cs b.1
  grows : ∀ src, a.1.used src ≤ b.1.used src
  granted : ∃ more, b.2 = a.2 ++ more ∧ more.Sublist (cs.map Claim.claimant)
  settled : b.1.urgentWaiting = true → a.1.urgentWaiting = true
  lower : (∀ c ∈ cs, 2 ≤ c.level) → a.1.urgentWaiting = true → b.1.urgentWaiting = true

theorem Scanned.nil {a : Lbu × List Claimant} (h : a.1.single) : Scanned [] a a :=
  ⟨h, .refl _ _, fun _ => le_rfl, ⟨[], by simp, .slnil⟩, id, fun _ => id⟩

theorem Scanned.append {cs ds : List Claim} {a b c : Lbu × List Claimant} (h : Scanned cs a b) (k : Scanned ds b c) :
    Scanned (cs ++ ds) a c where
  single := k.single
  keeps := h.keeps.append k.keeps
  grows src := (h.grows src).trans (k.grows src)
  granted := by
    obtain ⟨more, first, sub⟩ := h.granted
    obtain ⟨more', second, sub'⟩ := k.granted
    exact ⟨more ++ more', by rw [second, first, List.append_assoc], by rw [List.map_append]; exact sub.append sub'⟩
  settled u := h.settled (k.settled u)
  lower low u := k.lower (fun d hd => low d (List.mem_append_right _ hd))
    (h.lower (fun d hd => low d (List.mem_append_left _ hd)) u)

theorem Lbu.used_grant {l : Lbu} (hl : l.single) {c : Claim} (hc : c ∈ l.claims) (waits : c.source = none) (dst src : Source) :
    (l.grant c.claimant dst).used src = l.used src + if dst = src then c.cost else 0 := by
  have exact := l.used_change_exact hl hc (f := fun c => { c with source := some dst, granted := some l.nextGranted }) src
  simpa [Claim.weight, waits, Lbu.grant, Lbu.used] using exact

theorem scanOne_refused {cap : Capacity} {a : Lbu × List Claimant} {c : Claim} (h : a.1.sourceFor cap c = none) :
    scanOne cap a c = a := by
  simp only [scanOne, h]

theorem scanOne_granted {cap : Capacity} {a : Lbu × List Claimant} {c : Claim} {src : Source}
    (h : a.1.sourceFor cap c = some src) : scanOne cap a c = (a.1.grant c.claimant src, a.2 ++ [c.claimant]) := by
  simp only [scanOne, h]

theorem scanOne_scanned (cap : Capacity) {a : Lbu × List Claimant} {c : Claim} (hl : a.1.single) (hc : c ∈ a.1.claims)
    (waits : c.source = none) : Scanned [c] a (scanOne cap a c) := by
  cases source : a.1.sourceFor cap c with
  | none =>
    rw [scanOne_refused source]
    exact ⟨hl, .refl _ _, fun _ => le_rfl, ⟨[], by simp, List.nil_sublist _⟩, id, fun _ => id⟩
  | some src =>
    rw [scanOne_granted source]
    refine ⟨Lbu.single_change hl _ (Claim.keeps_grant src a.1.nextGranted), a.1.keepsBut_change c _, fun oth => ?_,
      ⟨[c.claimant], rfl, .refl _⟩, fun urgent => ?_, fun low urgent => ?_⟩
    · rw [Lbu.used_grant hl hc waits]; omega
    · obtain ⟨d, hd, waiting, level⟩ := (Lbu.urgentWaiting_iff _).mp urgent
      obtain ⟨e, he, rfl⟩ := List.mem_map.mp hd
      split at waiting
      · simp [Claim.waiting] at waiting
      · rename_i other
        rw [if_neg other] at level
        exact (Lbu.urgentWaiting_iff _).mpr ⟨e, he, waiting, level⟩
    · obtain ⟨d, hd, waiting, level⟩ := (Lbu.urgentWaiting_iff _).mp urgent
      have other : d.claimant ≠ c.claimant := fun same => by
        have := low c (.head _)
        rw [Lbu.eq_of_claimant hl hc hd same] at level
        omega
      exact (Lbu.urgentWaiting_iff _).mpr ⟨d, a.1.mem_change_ne hd other _, waiting, level⟩

theorem scan_turns (cap : Capacity) : Turns Prod.fst (scanOne cap) (fun c => c.source = none) Scanned where
  nil _ h := .nil h
  append _ h k := h.append k
  single h := h.single
  keeps h := h.keeps
  step hl hc waits := scanOne_scanned cap hl hc waits

/-! ## The refill (R56) -/

/-- What the refill of a list of granted claims does to the account. -/
structure Refilled (cs : List Claim) (a b : Lbu) : Prop where
  single : b.single
  keeps : a.KeepsBut cs b
  grows : a.used .shared ≤ b.used .shared
  waiting : b.claims.filter Claim.waiting = a.claims.filter Claim.waiting

/-- R56: the claims that the refill may move. -/
def Claim.refills (c : Claim) (urgent : Bool) : Prop :=
  c.source = some .audioReserve ∨ (c.source = some .doorReserve ∧ urgent = false)

theorem refillOne_moved {cap : Capacity} {urgent : Bool} {l : Lbu} {c : Claim} (h : c.refills urgent)
    (fits : l.used .shared + c.cost ≤ cap.shared) : refillOne cap urgent l c = l.move c.claimant .shared := by
  refine if_pos ?_
  obtain source | ⟨source, calm⟩ := h <;> simp_all [Lbu.fits, Capacity.of]

theorem refillOne_left {cap : Capacity} {urgent : Bool} {l : Lbu} {c : Claim}
    (h : ¬ (c.refills urgent ∧ l.used .shared + c.cost ≤ cap.shared)) : refillOne cap urgent l c = l := by
  refine if_neg fun k => h ?_
  obtain ⟨source, fits⟩ := Bool.and_eq_true_iff.mp k
  exact ⟨by simpa [Claim.refills] using source, of_decide_eq_true fits⟩

theorem refillOne_refilled (cap : Capacity) (urgent : Bool) {l : Lbu} {c : Claim} (hl : l.single) (hc : c ∈ l.claims)
    (granted : c.source ≠ none) : Refilled [c] l (refillOne cap urgent l c) := by
  by_cases moves : c.refills urgent ∧ l.used .shared + c.cost ≤ cap.shared
  · rw [refillOne_moved moves.1 moves.2]
    refine ⟨Lbu.single_change hl _ (Claim.keeps_source _), l.keepsBut_change c _, ?_, Lbu.waiting_change fun d hd same => ?_⟩
    · have exact := l.used_change_exact hl hc (f := fun c => { c with source := some .shared }) .shared
      have shared : c.source ≠ some .shared := by
        obtain source | ⟨source, -⟩ := moves.1 <;> simp [source]
      simp only [Claim.weight, if_neg shared, if_true] at exact
      exact Nat.le.intro exact.symm
    · rw [Lbu.eq_of_claimant hl hc hd same]
      exact ⟨Claim.waiting_eq_false.mpr granted, rfl⟩
  · rw [refillOne_left moves]
    exact ⟨hl, .refl _ _, le_rfl, rfl⟩

theorem refill_turns (cap : Capacity) (urgent : Bool) :
    Turns id (refillOne cap urgent) (fun c => c.source ≠ none) Refilled where
  nil _ h := ⟨h, .refl _ _, le_rfl, rfl⟩
  append _ h k := ⟨k.single, h.keeps.append k.keeps, h.grows.trans k.grows, k.waiting.trans h.waiting⟩
  single h := h.single
  keeps h := h.keeps
  step hl hc granted := refillOne_refilled cap urgent hl hc granted

theorem mem_grantedList (l : Lbu) (c : Claim) : c ∈ l.grantedList ↔ c ∈ l.claims ∧ c.source ≠ none := by
  rw [Lbu.grantedList, mem_sortBy, List.mem_filter, Bool.not_eq_true', Claim.waiting_eq_false]

theorem lists_sorted {l : Lbu} (hl : l.single) (le : Claim → Claim → Bool) (p : Claim → Bool) :
    l.Lists (sortBy le (l.claims.filter p)) where
  single := hl
  distinct := (((sortBy_perm _ _).map _).nodup_iff).mpr (List.Nodup.sublist (List.filter_sublist.map _) hl)
  stands c hc := List.mem_of_mem_filter ((mem_sortBy le c _).mp hc)

/-! ## The source a claim is granted from (R57, R58) -/

section
variable {l : Lbu} {cap : Capacity} {c : Claim}

theorem sourceFor_shared (open_ : l.gated c.level = false) (fits : l.used .shared + c.cost ≤ cap.shared) :
    l.sourceFor cap c = some .shared :=
  if_pos (by rw [open_]; exact decide_eq_true fits)

theorem sourceFor_reserve (full : cap.shared < l.used .shared + c.cost) {src : Source} (reserve : reserveOf c.level = some src)
    (fits : l.used src + c.cost ≤ cap.of src) : l.sourceFor cap c = some src := by
  have unshared : l.fits cap .shared c.cost = false := decide_eq_false full.not_ge
  have reserved : l.fits cap src c.cost = true := decide_eq_true fits
  simp [Lbu.sourceFor, unshared, reserve, reserved]

theorem sourceFor_gated (gated : l.gated c.level = true) : l.sourceFor cap c ≠ some .shared := by
  intro shared
  simp only [Lbu.sourceFor, gated, Bool.not_true, Bool.false_and, Bool.false_eq_true, if_false] at shared
  split at shared
  next src reserve =>
    split at shared
    · exact reserveOf_ne_shared reserve (Option.some.inj shared)
    · cases shared
  next => cases shared

theorem sourceFor_none (h : l.sourceFor cap c = none) :
    (l.gated c.level = true ∨ cap.shared < l.used .shared + c.cost) ∧
      ∀ src, reserveOf c.level = some src → cap.of src < l.used src + c.cost := by
  refine ⟨?_, fun src reserve => ?_⟩
  · by_contra fitting
    obtain ⟨open_, fits⟩ := not_or.mp fitting
    rw [sourceFor_shared (by simpa using open_) (Nat.not_lt.mp fits)] at h
    cases h
  · by_contra fits
    have reserved : l.fits cap src c.cost = true := decide_eq_true (Nat.not_lt.mp fits)
    unfold Lbu.sourceFor at h
    split at h
    · cases h
    · simp [reserve, reserved] at h

end

/-! ## The pass (R55) -/

section
variable {l : Lbu} {cap : Capacity} (hl : l.single)
include hl

theorem refill_refilled : Refilled l.grantedList l (l.refill cap) :=
  (refill_turns cap l.urgentWaiting).foldl (lists_sorted hl _ _) fun c hc => ((mem_grantedList l c).mp hc).2

theorem refill_waitList : (l.refill cap).waitList = l.waitList := by
  rw [Lbu.waitList, (refill_refilled hl).waiting]; rfl

theorem pass_scanned : Scanned l.waitList (l.refill cap, []) (l.pass cap) := by
  have lists : (l.refill cap).Lists (l.refill cap).waitList := lists_sorted (refill_refilled hl).single _ _
  have scanned := (scan_turns cap).foldl (a := (l.refill cap, [])) lists fun c hc => ((mem_waitList _ c).mp hc).2
  have final : (l.refill cap).waitList.foldl (scanOne cap) (l.refill cap, []) = l.pass cap := rfl
  rwa [final, refill_waitList hl] at scanned

/-- R58: the gate is open to the claim at the head of the wait list. -/
theorem head_ungated {c : Claim} (head : l.waitList.head? = some c) : (l.refill cap).gated c.level = false := by
  rw [Lbu.gated, Lbu.urgentWaiting_eq, (refill_refilled hl).waiting, ← Lbu.urgentWaiting_eq, ← Bool.not_eq_true,
    Bool.and_eq_true, Lbu.urgentWaiting_iff]
  rintro ⟨low, d, hd, waiting, level⟩
  have levels := waitList_levels l
  have listed := (mem_waitList l d).mpr ⟨hd, Option.isNone_iff_eq_none.mp waiting⟩
  have low := of_decide_eq_true low
  cases whole : l.waitList with
  | nil => rw [whole] at head; cases head
  | cons b bs =>
    rw [whole] at head levels listed
    obtain rfl : b = c := Option.some.inj head
    obtain rfl | later := List.mem_cons.mp listed
    · omega
    · have := (List.pairwise_cons.mp levels).1 d later
      omega

/-- R55, R56: a granted claim after a pass. -/
theorem pass_granted {c : Claim} (hc : c ∈ l.claims) (granted : c.source ≠ none) :
    c.claimant ∉ (l.pass cap).2 ∧ ((c.refills l.urgentWaiting ∧ { c with source := some .shared } ∈ (l.pass cap).1.claims) ∨
      (c ∈ (l.pass cap).1.claims ∧ (c.refills l.urgentWaiting → cap.shared < (l.pass cap).1.used .shared + c.cost))) := by
  have scanned := pass_scanned (cap := cap) hl
  have apart {d : Claim} (hd : d ∈ l.waitList) : c.claimant ≠ d.claimant := fun same => by
    obtain ⟨listed, waits⟩ := (mem_waitList l d).mp hd
    rw [Lbu.eq_of_claimant hl hc listed same.symm] at waits
    exact granted waits
  refine ⟨fun named => ?_, ?_⟩
  · obtain ⟨more, all, sub⟩ := scanned.granted
    rw [all] at named
    obtain ⟨d, hd, same⟩ := List.mem_map.mp (sub.subset named)
    exact apart hd same.symm
  · obtain ⟨before, later, split⟩ := List.append_of_mem ((mem_grantedList l c).mpr ⟨hc, granted⟩)
    have lists : l.Lists l.grantedList := lists_sorted hl _ _
    have claims : ∀ d ∈ l.grantedList, d.source ≠ none := fun d hd => ((mem_grantedList l d).mp hd).2
    rw [split] at lists claims
    obtain ⟨single, stands, -, here, rest⟩ := (refill_turns cap l.urgentWaiting).turn lists claims
    have final : ((before ++ c :: later).foldl (refillOne cap l.urgentWaiting) l) = l.refill cap := by
      rw [← split]; rfl
    rw [final] at rest
    generalize before.foldl (refillOne cap l.urgentWaiting) l = now at single stands here rest
    have distinct := lists.distinct
    rw [List.map_append, List.nodup_append, List.map_cons, List.nodup_cons] at distinct
    have after {d : Claim} (hd : d ∈ (refillOne cap l.urgentWaiting now c).claims) (same : d.claimant = c.claimant) :
        d ∈ (l.pass cap).1.claims := by
      refine scanned.keeps d (rest.keeps d hd fun e he equal => ?_) fun e he => same ▸ apart he
      exact distinct.2.1.1 (List.mem_map.mpr ⟨e, he, equal.symm.trans same⟩)
    by_cases moves : c.refills l.urgentWaiting ∧ now.used .shared + c.cost ≤ cap.shared
    · refine .inl ⟨moves.1, after ?_ rfl⟩
      rw [refillOne_moved moves.1 moves.2]
      exact now.mem_change_self stands _
    · refine .inr ⟨after (by rw [refillOne_left moves]; exact stands) rfl, fun refills => ?_⟩
      have full : cap.shared < now.used .shared + c.cost := Nat.not_le.mp fun fits => moves ⟨refills, fits⟩
      have grows : now.used .shared ≤ (l.pass cap).1.used .shared :=
        here.grows.trans (rest.grows.trans (scanned.grows .shared))
      omega

/-- R57: a waiting claim after a pass, and the account as it was when the claim was tried. -/
theorem pass_waiting {c : Claim} (hc : c ∈ l.claims) (waits : c.source = none) : ∃ now : Lbu,
    (∀ src, now.used src ≤ (l.pass cap).1.used src) ∧ (2 ≤ c.level → now.urgentWaiting = (l.pass cap).1.urgentWaiting) ∧
    (l.waitList.head? = some c → now = l.refill cap) ∧
    ((now.sourceFor cap c = none ∧ c ∈ (l.pass cap).1.claims ∧ c.claimant ∉ (l.pass cap).2) ∨
      ∃ src, now.sourceFor cap c = some src ∧ c.claimant ∈ (l.pass cap).2 ∧
        { c with source := some src, granted := some now.nextGranted } ∈ (l.pass cap).1.claims) := by
  obtain ⟨before, later, split⟩ := List.append_of_mem ((mem_waitList l c).mpr ⟨hc, waits⟩)
  have listed : (l.refill cap).waitList = before ++ c :: later := (refill_waitList hl).trans split
  have lists : (l.refill cap).Lists (l.refill cap).waitList := lists_sorted (refill_refilled hl).single _ _
  have waiting : ∀ d ∈ (l.refill cap).waitList, d.source = none := fun d hd => ((mem_waitList _ d).mp hd).2
  have levels := waitList_levels l
  rw [listed] at lists waiting
  rw [split] at levels
  obtain ⟨single, stands, first, here, rest⟩ := (scan_turns cap).turn (a := (l.refill cap, [])) lists waiting
  have final : ((before ++ c :: later).foldl (scanOne cap) (l.refill cap, [])) = l.pass cap := by
    rw [← listed]; rfl
  rw [final] at rest
  obtain ⟨now, hnow⟩ : ∃ now, now = before.foldl (scanOne cap) (l.refill cap, []) := ⟨_, rfl⟩
  rw [← hnow] at single stands first here rest
  have distinct := lists.distinct
  rw [List.map_append, List.nodup_append, List.map_cons, List.nodup_cons] at distinct
  have onward := here.append rest
  have later_levels : ∀ d ∈ [c] ++ later, c.level ≤ d.level := fun d hd => by
    obtain rfl | hd := List.mem_cons.mp hd
    · exact le_rfl
    · exact (List.pairwise_cons.mp (List.pairwise_append.mp levels).2.1).1 d hd
  refine ⟨now.1, onward.grows, fun low => ?_, fun head => ?_, ?_⟩
  · rw [Bool.eq_iff_iff]
    exact ⟨onward.lower fun d hd => low.trans (later_levels d hd), onward.settled⟩
  · cases before with
    | nil => rw [hnow]; rfl
    | cons b bs =>
      rw [split] at head
      obtain rfl : b = c := Option.some.inj head
      exact absurd rfl (distinct.2.2 _ (List.mem_map_of_mem (.head _)) _ (.head _))
  · have unnamed : c.claimant ∉ now.2 := by
      obtain ⟨more, all, sub⟩ := first.granted
      rw [all]
      intro named
      exact absurd rfl (distinct.2.2 _ (sub.subset named) _ (.head _))
    have later_unnamed {d : Claim} (hd : d ∈ (scanOne cap now c).1.claims) (same : d.claimant = c.claimant) :
        d ∈ (l.pass cap).1.claims :=
      rest.keeps d hd fun e he equal => distinct.2.1.1 (List.mem_map.mpr ⟨e, he, equal.symm.trans same⟩)
    obtain ⟨more, all, sub⟩ := rest.granted
    cases source : now.1.sourceFor cap c with
    | none =>
      rw [scanOne_refused source] at later_unnamed all
      refine .inl ⟨rfl, later_unnamed stands rfl, fun named => ?_⟩
      rw [all, List.mem_append] at named
      exact named.elim unnamed fun h => distinct.2.1.1 (sub.subset h)
    | some src =>
      rw [scanOne_granted source] at later_unnamed all
      refine .inr ⟨src, rfl, ?_, later_unnamed (now.1.mem_change_self stands _) rfl⟩
      rw [all]
      simp

end

end Sys2Proof.Machine

namespace Sys2Proof.Claims

open Sys2Proof Sys2Proof.Machine

/-- Settles O37: a granted claim is refilled or left, a waiting one is granted or left in its turn. -/
theorem grantPassOnlyGrants : Obligations.GrantPassOnlyGrants := by
  intro l cap hl after refilled
  refine ⟨?_, fun c hc => ?_⟩
  · obtain ⟨more, all, sub⟩ := (pass_scanned (cap := cap) hl).granted
    rw [all]
    exact sub
  cases source : c.source with
  | none =>
    obtain ⟨now, grows, gate, head, ⟨refused, stays, unnamed⟩ | ⟨src, granted, named, moved⟩⟩ :=
      pass_waiting (cap := cap) hl hc source
    · refine ⟨c, stays, rfl, rfl, rfl, rfl, fun h => absurd rfl h, iff_of_false unnamed fun h => h.2 source,
        fun h => by simp at h, fun h => by simp at h, fun h => by simp at h, fun first => ?_, fun _ => ?_,
        fun _ _ _ => by rw [source]; simp⟩
      · have now_eq := head first
        rw [now_eq] at refused
        refine ⟨fun fits => ?_, fun full r reserve fits => ?_⟩
        · rw [sourceFor_shared (head_ungated hl first) fits] at refused; cases refused
        · rw [sourceFor_reserve full reserve fits] at refused; cases refused
      · obtain ⟨closed, unreserved⟩ := sourceFor_none refused
        refine ⟨closed.imp (fun gated => ?_) fun full => ?_, fun r reserve => ?_⟩
        · obtain ⟨low, urgent⟩ := Bool.and_eq_true_iff.mp gated
          have low := of_decide_eq_true low
          exact ⟨low, (gate low).symm.trans urgent⟩
        · exact full.trans_le (Nat.add_le_add_right (grows .shared) _)
        · exact (unreserved r reserve).trans_le (Nat.add_le_add_right (grows r) _)
    · refine ⟨_, moved, rfl, rfl, rfl, rfl, fun h => absurd rfl h, iff_of_true named ⟨rfl, by simp⟩,
        fun h => by simp at h, fun h => by simp at h, fun h => by simp at h, fun first => ?_, fun h => by simp at h,
        fun urgent low _ => ?_⟩
      · have now_eq := head first
        rw [now_eq] at granted
        refine ⟨fun fits => ?_, fun full r reserve fits => ?_⟩
        · rw [← granted, sourceFor_shared (head_ungated hl first) fits]
        · rw [← granted, sourceFor_reserve full reserve fits]
      · have gated : now.gated c.level = true :=
          Bool.and_eq_true_iff.mpr ⟨decide_eq_true low, (gate low).trans urgent⟩
        exact fun shared => sourceFor_gated gated (granted.trans shared)
  | some src =>
    have granted : c.source ≠ none := by simp [source]
    have ungranted (first : l.waitList.head? = some c) : False :=
      granted ((mem_waitList l c).mp (List.mem_of_mem_head? first)).2
    have refills : c.refills l.urgentWaiting ↔ src = .audioReserve ∨ (src = .doorReserve ∧ l.urgentWaiting = false) := by
      simp [Claim.refills, source]
    obtain ⟨unnamed, ⟨able, moved⟩ | ⟨stays, full⟩⟩ := pass_granted (cap := cap) hl hc granted
    · refine ⟨_, moved, rfl, rfl, rfl, rfl, fun _ => ⟨by simp, rfl⟩, iff_of_false unnamed fun h => by simp at h,
        fun _ => rfl, fun _ => .inl rfl, fun door urgent => ?_, fun first => (ungranted first).elim, fun h => by simp at h,
        fun _ _ h => by simp at h⟩
      obtain audio | ⟨-, calm⟩ := refills.mp able
      · simp [audio] at door
      · simp [calm] at urgent
    · refine ⟨c, stays, rfl, rfl, rfl, rfl, fun _ => ⟨granted, rfl⟩, iff_of_false unnamed fun h => by simp at h,
        fun h => source.trans h, fun able => .inr ⟨source, full (refills.mpr (by simpa using able))⟩,
        fun h _ => source.trans h, fun first => (ungranted first).elim, fun h => absurd h granted,
        fun _ _ h => by simp at h⟩

end Sys2Proof.Claims
end

section
/-! PROOFS. Chapter 3: what shedding takes of the shared pool (R59, R60). -/

namespace Sys2Proof.Machine

/-! ## One claim taken -/

/-- R60: what becomes of a claim that is taken. -/
def takeOne (cap : Capacity) (r : ShedResult) (c : Claim) : ShedResult :=
  match reserveOf c.level with
  | some src =>
    if r.lbu.fits cap src c.cost then { r with lbu := r.lbu.move c.claimant src, resourced := r.resourced + 1 }
    else { r with lbu := r.lbu.drop c.claimant, shed := r.shed ++ [c.claimant] }
  | none => { r with lbu := r.lbu.drop c.claimant, shed := r.shed ++ [c.claimant] }

theorem shedOne_within {cap : Capacity} {r : ShedResult} (h : r.lbu.used .shared ≤ cap.shared) (c : Claim) :
    shedOne cap r c = r := if_pos h

theorem shedOne_over {cap : Capacity} {r : ShedResult} (h : cap.shared < r.lbu.used .shared) (c : Claim) :
    shedOne cap r c = takeOne cap r c := if_neg h.not_ge

/-- R60: the claim fits the reserve of its level. -/
def Lbu.Resources (l : Lbu) (cap : Capacity) (c : Claim) (src : Source) : Prop :=
  reserveOf c.level = some src ∧ l.used src + c.cost ≤ cap.of src

theorem takeOne_resourced {cap : Capacity} {r : ShedResult} {c : Claim} {src : Source} (h : r.lbu.Resources cap c src) :
    takeOne cap r c = { r with lbu := r.lbu.move c.claimant src, resourced := r.resourced + 1 } := by
  obtain ⟨reserve, fits⟩ := h
  have fits : r.lbu.fits cap src c.cost = true := decide_eq_true fits
  simp [takeOne, reserve, fits]

theorem takeOne_shed {cap : Capacity} {r : ShedResult} {c : Claim} (h : ∀ src, ¬ r.lbu.Resources cap c src) :
    takeOne cap r c = { r with lbu := r.lbu.drop c.claimant, shed := r.shed ++ [c.claimant] } := by
  unfold takeOne
  split
  next src reserve =>
    exact if_neg fun fits => h src ⟨reserve, of_decide_eq_true fits⟩
  next => rfl

/-! ## A list of claims taken -/

/-- What the claims taken that were not shed draw from a reserve. -/
def resourcedCost (shed : List Claimant) (src : Source) (cs : List Claim) : Nat :=
  ((cs.filter fun b => reserveOf b.level = some src ∧ b.claimant ∉ shed).map Claim.cost).sum

/-- What taking the claims of a list does. -/
structure TakenAll (cs : List Claim) (a b : ShedResult) : Prop where
  single : b.lbu.single
  keeps : a.lbu.KeepsBut cs b.lbu
  shared : b.lbu.used .shared + (cs.map Claim.cost).sum = a.lbu.used .shared
  shed : ∃ more, b.shed = a.shed ++ more ∧ more.Sublist (cs.map Claim.claimant) ∧
    (∀ src, src ≠ .shared → b.lbu.used src = a.lbu.used src + resourcedCost more src cs) ∧
    more.length + b.resourced = a.resourced + cs.length
  gone : ∀ who, a.lbu.has who = false → b.lbu.has who = false

theorem takeOne_taken (cap : Capacity) {r : ShedResult} {c : Claim} (hl : r.lbu.single) (hc : c ∈ r.lbu.claims)
    (shared : c.source = some .shared) : TakenAll [c] r (takeOne cap r c) := by
  by_cases fits : ∃ src, r.lbu.Resources cap c src
  · obtain ⟨src, fits⟩ := fits
    have reserved := reserveOf_ne_shared fits.1
    rw [takeOne_resourced fits]
    have exact (oth : Source) := r.lbu.used_change_exact hl hc (f := fun c => { c with source := some src }) oth
    refine ⟨Lbu.single_change hl _ (Claim.keeps_source src), r.lbu.keepsBut_change c _, ?_,
      ⟨[], by simp, List.nil_sublist _, fun oth other => ?_, by simp⟩, fun who h => ?_⟩
    · have := exact .shared
      simp [Claim.weight, shared, reserved] at this ⊢
      exact this
    · have := exact oth
      by_cases same : src = oth
      · simp [Claim.weight, shared, resourcedCost, fits.1, same, Ne.symm other] at this ⊢
        exact this
      · simp [Claim.weight, shared, resourcedCost, fits.1, same, Ne.symm other] at this ⊢
        exact this
    · exact (r.lbu.has_change c.claimant (Claim.keeps_source src) who).trans h
  · have refused : ∀ src, ¬ r.lbu.Resources cap c src := not_exists.mp fits
    rw [takeOne_shed refused]
    have exact (oth : Source) := r.lbu.used_drop_exact hl hc oth
    refine ⟨Lbu.single_drop hl _, r.lbu.keepsBut_drop c, ?_,
      ⟨[c.claimant], rfl, .refl _, fun oth other => ?_, by simp; omega⟩, fun who h => ?_⟩
    · have := exact .shared
      simpa [Claim.weight, shared] using this
    · have := exact oth
      simpa [Claim.weight, shared, Ne.symm other, resourcedCost] using this
    · show (r.lbu.drop c.claimant).has who = false
      rw [Lbu.has_drop, h, Bool.and_false]

theorem mem_claimants {more : List Claimant} {cs : List Claim} (sub : more.Sublist (cs.map Claim.claimant)) {who : Claimant}
    (h : who ∈ more) : ∃ c ∈ cs, c.claimant = who :=
  List.mem_map.mp (sub.subset h)

/-- Of claims of distinct claimants, those of a part are shed with the part. -/
theorem mem_shed_iff {cs ds : List Claim} {more more' : List Claimant} (distinct : ((cs ++ ds).map Claim.claimant).Nodup)
    (sub : more.Sublist (cs.map Claim.claimant)) (sub' : more'.Sublist (ds.map Claim.claimant)) :
    (∀ c ∈ cs, c.claimant ∈ more ++ more' ↔ c.claimant ∈ more) ∧
      (∀ d ∈ ds, d.claimant ∈ more ++ more' ↔ d.claimant ∈ more') := by
  rw [List.map_append, List.nodup_append] at distinct
  refine ⟨fun c hc => ?_, fun d hd => ?_⟩
  · rw [List.mem_append, or_iff_left]
    exact fun h => distinct.2.2 _ (List.mem_map_of_mem hc) _ (sub'.subset h) rfl
  · rw [List.mem_append, or_iff_right]
    exact fun h => distinct.2.2 _ (sub.subset h) _ (List.mem_map_of_mem hd) rfl

theorem resourcedCost_congr {shed shed' : List Claimant} {src : Source} {cs : List Claim}
    (h : ∀ c ∈ cs, c.claimant ∈ shed' ↔ c.claimant ∈ shed) : resourcedCost shed' src cs = resourcedCost shed src cs := by
  refine congrArg (fun l : List Claim => (l.map Claim.cost).sum) (List.filter_congr fun c hc => ?_)
  simp only [h c hc]

theorem resourcedCost_append (shed : List Claimant) (src : Source) (cs ds : List Claim) :
    resourcedCost shed src (cs ++ ds) = resourcedCost shed src cs + resourcedCost shed src ds := by
  simp only [resourcedCost, List.filter_append, List.map_append, List.sum_append]

theorem TakenAll.append {cs ds : List Claim} {a b c : ShedResult} (distinct : ((cs ++ ds).map Claim.claimant).Nodup)
    (h : TakenAll cs a b) (k : TakenAll ds b c) : TakenAll (cs ++ ds) a c where
  single := k.single
  keeps := h.keeps.append k.keeps
  shared := by
    have := h.shared
    have := k.shared
    rw [List.map_append, List.sum_append]
    omega
  shed := by
    obtain ⟨more, first, sub, draws, counts⟩ := h.shed
    obtain ⟨more', second, sub', draws', counts'⟩ := k.shed
    obtain ⟨left, right⟩ := mem_shed_iff distinct sub sub'
    refine ⟨more ++ more', by rw [second, first, List.append_assoc], by rw [List.map_append]; exact sub.append sub',
      fun src other => ?_, ?_⟩
    · rw [draws' src other, draws src other, resourcedCost_append, resourcedCost_congr left, resourcedCost_congr right,
        Nat.add_assoc]
    · rw [List.length_append, List.length_append]
      omega
  gone who none := k.gone who (h.gone who none)

theorem take_turns (cap : Capacity) :
    Turns ShedResult.lbu (takeOne cap) (fun c => c.source = some .shared) TakenAll where
  nil r h := ⟨h, .refl _ _, by simp, ⟨[], by simp, .slnil, fun _ _ => by simp [resourcedCost], by simp⟩, fun _ => id⟩
  append distinct h k := h.append distinct k
  single h := h.single
  keeps h := h.keeps
  step hl hc shared := takeOne_taken cap hl hc shared

/-! ## How many are taken (R59) -/

theorem shedOne_stops {cap : Capacity} {r : ShedResult} (h : r.lbu.used .shared ≤ cap.shared) (cs : List Claim) :
    cs.foldl (shedOne cap) r = r := by
  induction cs with
  | nil => rfl
  | cons c cs ih => rw [List.foldl_cons, shedOne_within h, ih]

/-- R59: the first claims are taken while the pool stands above S, and no more. -/
theorem shed_takes (cap : Capacity) (cs : List Claim) (r : ShedResult) : ∃ n ≤ cs.length,
    cs.foldl (shedOne cap) r = (cs.take n).foldl (takeOne cap) r ∧
      (0 < n → cap.shared < ((cs.take (n - 1)).foldl (takeOne cap) r).lbu.used .shared) := by
  induction cs generalizing r with
  | nil => exact ⟨0, le_rfl, rfl, fun h => absurd h (lt_irrefl 0)⟩
  | cons c cs ih =>
    by_cases exceeds : cap.shared < r.lbu.used .shared
    · obtain ⟨n, bound, same, last⟩ := ih (takeOne cap r c)
      refine ⟨n + 1, Nat.succ_le_succ bound, ?_, fun _ => ?_⟩
      · rw [List.foldl_cons, shedOne_over exceeds, same]; rfl
      · cases n with
        | zero => exact exceeds
        | succ n => exact last (Nat.succ_pos n)
    · exact ⟨0, Nat.zero_le _, shedOne_stops (Nat.not_lt.mp exceeds) _, fun h => absurd h (lt_irrefl 0)⟩

/-! ## The shed order (R59) -/

theorem mem_shedOrder (l : Lbu) (src : Source) (c : Claim) : c ∈ l.shedOrder src ↔ c ∈ l.claims ∧ c.source = some src := by
  rw [Lbu.shedOrder, mem_sortBy, List.mem_filter, decide_eq_true_eq]

theorem shedOrder_pairwise (l : Lbu) (src : Source) : (l.shedOrder src).Pairwise fun a b =>
    b.level < a.level ∨ (a.level = b.level ∧ b.granted.getD 0 ≤ a.granted.getD 0) := by
  refine (sortBy_pairwise (fun a b => ?_) (fun a b c => ?_) _).imp
    (S := fun a b : Claim => b.level < a.level ∨ (a.level = b.level ∧ b.granted.getD 0 ≤ a.granted.getD 0))
    fun {a b} h => of_decide_eq_true h
  · simp only [decide_eq_true_eq]; omega
  · simp only [decide_eq_true_eq]; omega

theorem shedOrder_sum (l : Lbu) (src : Source) : ((l.shedOrder src).map Claim.cost).sum = l.used src :=
  ((sortBy_perm _ _).map _).sum_eq

/-- R60: a claim taken in its turn. -/
theorem take_turn (cap : Capacity) {before later : List Claim} {c : Claim} {l : Lbu}
    (lists : l.Lists (before ++ c :: later)) (shared : ∀ d ∈ before ++ c :: later, d.source = some .shared) :
    let r := (before ++ c :: later).foldl (takeOne cap) ⟨l, [], 0⟩
    let fits := ∃ src, reserveOf c.level = some src ∧ l.used src + resourcedCost r.shed src before + c.cost ≤ cap.of src
    (fits → c.claimant ∉ r.shed ∧ ∃ src, reserveOf c.level = some src ∧ { c with source := some src } ∈ r.lbu.claims) ∧
      (¬ fits → c.claimant ∈ r.shed ∧ ∀ d ∈ r.lbu.claims, d.claimant ≠ c.claimant) := by
  intro r fits
  obtain ⟨single, stands, first, here, rest⟩ := (take_turns cap).turn (a := ⟨l, [], 0⟩) lists shared
  obtain ⟨now, hnow⟩ : ∃ now, now = before.foldl (takeOne cap) ⟨l, [], 0⟩ := ⟨_, rfl⟩
  rw [← hnow] at single stands first here rest
  have distinct := lists.distinct
  have apart := distinct
  rw [List.map_append, List.nodup_append, List.map_cons, List.nodup_cons] at apart
  obtain ⟨more, shedFirst, sub, draws, -⟩ := first.shed
  obtain ⟨more', shedLast, sub', -, -⟩ := (here.append (by simpa using apart.2.1) rest).shed
  have all : r.shed = more ++ more' := by rw [shedLast, shedFirst]; rfl
  obtain ⟨left, -⟩ := mem_shed_iff (ds := c :: later) distinct sub sub'
  have drawn {src : Source} (other : src ≠ .shared) :
      now.lbu.used src = l.used src + resourcedCost r.shed src before := by
    rw [draws src other, all, resourcedCost_congr left]
  have fits_iff : fits ↔ ∃ src, now.lbu.Resources cap c src := by
    refine exists_congr fun src => and_congr_right fun reserve => ?_
    rw [drawn (reserveOf_ne_shared reserve)]
  have unnamed : c.claimant ∉ now.shed := by
    rw [shedFirst]
    exact fun h => apart.2.2 _ (sub.subset (by simpa using h)) _ (.head _) rfl
  obtain ⟨final, shedFinal, subFinal, -⟩ := rest.shed
  have unnamedLater : c.claimant ∉ final := fun h => apart.2.1.1 (subFinal.subset h)
  refine ⟨fun h => ?_, fun h => ?_⟩
  · obtain ⟨src, resources⟩ := fits_iff.mp h
    rw [takeOne_resourced resources] at rest shedFinal
    refine ⟨?_, src, resources.1, rest.keeps _ (now.lbu.mem_change_self stands _) fun e he same => ?_⟩
    · rw [show r.shed = _ from shedFinal, List.mem_append]
      exact not_or.mpr ⟨unnamed, unnamedLater⟩
    · exact apart.2.1.1 (List.mem_map.mpr ⟨e, he, same.symm⟩)
  · rw [takeOne_shed (not_exists.mp (mt fits_iff.mpr h))] at rest shedFinal
    refine ⟨?_, fun d hd same => ?_⟩
    · rw [show r.shed = _ from shedFinal]
      simp
    · have none := rest.gone c.claimant (by show (now.lbu.drop c.claimant).has _ = false; rw [Lbu.has_drop]; simp)
      exact Bool.eq_false_iff.mp none (List.any_eq_true.mpr ⟨d, hd, decide_eq_true same⟩)

end Sys2Proof.Machine

namespace Sys2Proof.Claims

open Sys2Proof Sys2Proof.Machine

/-- Settles O38: the claims taken are the first of the shed order, each re-sourced or shed in its turn. -/
theorem sheddingFollowsTheOrder : Obligations.SheddingFollowsTheOrder := by
  intro l cap hl r order
  have lists : l.Lists order := lists_sorted hl _ _
  have shared : ∀ c ∈ order, c.source = some .shared := fun c hc => ((mem_shedOrder l _ c).mp hc).2
  obtain ⟨n, bound, takes, last⟩ := shed_takes cap order ⟨l, [], 0⟩
  have result : r = (order.take n).foldl (takeOne cap) ⟨l, [], 0⟩ := takes
  have parts (k : Nat) : order.take k ++ order.drop k = order := List.take_append_drop k order
  have prefixes (k : Nat) : l.Lists (order.take k) := Lbu.Lists.head (by rw [parts k]; exact lists)
  have taken (k : Nat) : TakenAll (order.take k) ⟨l, [], 0⟩ ((order.take k).foldl (takeOne cap) ⟨l, [], 0⟩) :=
    (take_turns cap).foldl (prefixes k) fun c hc => shared c (List.mem_of_mem_take hc)
  have whole := taken n
  rw [← result] at whole
  refine ⟨shedOrder_pairwise l .shared, (shedShared_sheds cap (r := ⟨l, [], 0⟩) hl).2, n, bound, fun some_ => ?_,
    fun c hc untaken => ?_, fun k hk c at_ => ?_, ?_⟩
  · have total : ((order.take (n - 1)).map Claim.cost).sum + ((order.drop (n - 1)).map Claim.cost).sum = l.used .shared := by
      rw [← List.sum_append, ← List.map_append, parts, shedOrder_sum]
    have now : _ = l.used .shared := (taken (n - 1)).shared
    have exceeds := last some_
    omega
  · refine whole.keeps c hc fun e he same => ?_
    obtain unshared | late := untaken
    · have listed := (mem_shedOrder l _ e).mp (List.mem_of_mem_take he)
      rw [Lbu.eq_of_claimant hl listed.1 hc same] at unshared
      exact unshared listed.2
    · have distinct := lists.distinct
      rw [← parts n, List.map_append, List.nodup_append] at distinct
      exact distinct.2.2 _ (List.mem_map_of_mem he) _ (List.mem_map_of_mem late) same.symm
  · obtain ⟨inside, here⟩ := List.getElem?_eq_some_iff.mp at_
    have split : order.take n = order.take k ++ c :: (order.take n).drop (k + 1) := by
      have shorter : k < (order.take n).length := by rw [List.length_take]; omega
      have cut := List.take_append_drop k (order.take n)
      rw [List.take_take, min_eq_left hk.le, List.drop_eq_getElem_cons shorter, List.getElem_take, here] at cut
      exact cut.symm
    have standing := prefixes n
    have sharing : ∀ d ∈ order.take n, d.source = some .shared := fun d hd => shared d (List.mem_of_mem_take hd)
    rw [split] at standing sharing
    have turn := take_turn cap standing sharing
    rw [← split, ← result] at turn
    exact turn
  · obtain ⟨more, all, -, -, counts⟩ := whole.shed
    have empty : r.shed = more := all
    rw [List.length_take, min_eq_left bound, Nat.zero_add] at counts
    rw [empty]
    exact counts

end Sys2Proof.Claims
end

section
/-! PROOFS. Chapters 3, 4 and 6: the settling of an event, in the small. A grant pass, the comparison of strikes, the
recomputation of floor sets, the arbiter and the end of an event are runs of a few small steps on doors, claims, programs
and channels; what every such step keeps, the whole keeps. -/

namespace Sys2Proof.Machine

/-! ## What the small steps change -/

/-- What the settling of an event works on. -/
structure View where
  doors : Vector Door 64
  lbu : Lbu
  toPlace : List Nat
  programs : Vector Program 6
  channels : Vector Channel 6
  playerLost : Bool
  commands : List PlayerCommand
  rgc : Rgc
  mst : Mst
  uptime : Nat

def Work.view (w : Work) : View where
  doors := w.doors
  lbu := w.lbu
  toPlace := w.toPlace
  programs := w.ans.programs
  channels := w.ans.channels
  playerLost := w.ans.playerLost
  commands := w.plp.commands
  rgc := w.rgc
  mst := w.mst
  uptime := w.uptime

/-- R83: a door's record on entry to a state, but for its held-open supervision. -/
def Door.Enters (o : Door) (st : DoorState) (r : Door) : Prop :=
  { r with heldSince := o.heldSince, held := o.held } = { o with state := st }

/-- R69: a door's record after the comparison of its strike. -/
inductive Door.Compared (o : Door) : Door → Prop
  | met (h : o.state.wanted = o.desired) : Compared o { o with pendingDesired := none }
  | holds (h : o.state.wanted ≠ o.desired) (p : Option StrikeOrder) : Compared o { o with pendingDesired := p }
  | sent (h : o.state.wanted ≠ o.desired) :
      Compared o { o with desired := o.state.wanted, confirmed := false, mismatch := 0, pendingDesired := none }

/-- R70, R71: a door's record after a grant or a confirmation that queues nothing. -/
inductive Door.Advances (o : Door) : Door → Prop
  | releasing {r} (h : o.state = .releasePending) (e : o.Enters .releasing r) : Advances o r
  | released {r} (h : o.state = .releasing) (e : o.Enters .released r) : Advances o r
  | locked {r} (h : o.state = .relocking) (e : ({ o with reRequest := false } : Door).Enters .locked r) : Advances o r

/-- Which programs take their turn before the arbiter, which floor sets are recomputed and why one of them empties,
whether RGC's phases reach the doors and a shed the programs, whether doors are settled, and whether the event ends. -/
structure Reaching where
  turn : ProgramKind → Prop := fun _ => False
  recomputes : ProgramKind → Prop := fun _ => False
  why : ProgramKind → StopReason := becauseEmptied
  doors : Prop := False
  sheds : Prop := False
  settles : Prop := True
  ends : Prop := True

/-- Why a PLAYING program is stopped, and for whom its channel is reserved. -/
inductive Stops (n : Reaching) (w : Work) (k : ProgramKind) : StopReason → Option ProgramKind → Prop
  | emptied (h : n.recomputes k) (empty : (w.program k).floorSet = 0) : Stops n w k (n.why k) none
  | preempted (j : ProgramKind) (h : n.turn j) (lower : j.priority < k.priority) (c : Nat)
      (held : (w.channel c).state = .held) (holder : (w.channel c).holder = some k) : Stops n w k .preempted (some j)
  | shed (h : n.sheds) : Stops n w k .shed none

/-- The claims of the doors queued in an event, placed together (R68). -/
def Work.placing (w : Work) : Lbu :=
  (doorIndices.filter fun d => w.toPlace.contains d).foldl
    (fun l d => l.place (.door d) ((w.doorDemand d).getD 6) (doorCost w.map)) w.lbu

/-- R110: the channels after a program in WAITING_BUDGET has given its channel up. -/
def Work.channelsFreed (w : Work) (k : ProgramKind) : Vector Channel 6 :=
  match (w.program k).channel with
  | some c => vset w.ans.channels c (w.channel c).freed
  | none => w.ans.channels

/-- A small step of the settling of an event. -/
inductive Micro (n : Reaching) (w v : Work) : Prop
  | same (h : v.view = w.view)
  | cleared (hn : n.ends) (h : v.view = { w.view with toPlace := [] })
  | issued (c : PlayerCommand) (h : v.view = { w.view with commands := w.view.commands ++ [c] })
  | compared (d : Nat) (r : Door) (hr : (w.door d).Compared r) (h : v.view = { w.view with doors := vset w.doors d r })
  | advanced (d : Nat) (r : Door) (hr : (w.door d).Advances r) (h : v.view = { w.view with doors := vset w.doors d r })
  | requeued (hn : n.settles) (d : Nat) (r : Door) (state : (w.door d).state = .relocking) (again : (w.door d).reRequest = true)
      (demand : (w.doorDemand d).isSome = true)
      (hr : ({ w.door d with reRequest := false } : Door).Enters .releasePending r)
      (h : v.view = { w.view with doors := vset w.doors d r, toPlace := w.toPlace ++ [d] })
  | placed (h : v.view = { w.view with lbu := w.placing, toPlace := [] })
  | passed (h : v.view = { w.view with lbu := (w.lbu.pass (capacityOf w.map w.lbu.mode)).1 })
  | dropped (k : ProgramKind) (h : v.view = { w.view with lbu := w.lbu.drop (.program k) })
  | reached (hn : n.doors) (doors : Vector Door 64) (lbu : Lbu) (toPlace : List Nat)
      (h : v.view = { w.view with doors := doors, lbu := lbu, toPlace := toPlace })
  | granted (k : ProgramKind) (state : (w.program k).state = .waitingBudget) (h : v = w.programGranted k)
  | stopped (k : ProgramKind) (why : StopReason) (for_ : Option ProgramKind) (state : (w.program k).state = .playing)
      (reason : Stops n w k why for_) (h : v = w.stopProgram k why for_)
  | floors (k : ProgramKind) (hn : n.recomputes k)
      (h : v.view = { w.view with
        programs := vset w.ans.programs k.priority { w.program k with floorSet := w.floorSetOf k } })
  | started (k : ProgramKind) (hn : n.recomputes k) (idle : (w.program k).state = .idle)
      (floors : (w.program k).floorSet ≠ 0)
      (h : v.view = { w.view with programs := vset w.ans.programs k.priority { w.program k with
        state := .waitingChannel, slot := 0, repeatsLeft := startRepeats k (w.program k), played := false,
        stopReason := none } })
  | ended (k : ProgramKind) (hn : n.recomputes k) (waits : (w.program k).state = .waitingChannel)
      (empty : (w.program k).floorSet = 0)
      (h : v.view = { w.view with programs := vset w.ans.programs k.priority ((w.program k).ended k (n.why k)) })
  | gaveUp (k : ProgramKind) (hn : n.recomputes k) (waits : (w.program k).state = .waitingBudget)
      (empty : (w.program k).floorSet = 0)
      (h : v.view = { w.view with
        programs := vset w.ans.programs k.priority ((w.program k).ended k (n.why k)), channels := w.channelsFreed k })
  | unreserved (c : Nat) (h : v.view = { w.view with
      channels := vset w.ans.channels c { w.channel c with reservedFor := none } })
  | taken (k : ProgramKind) (c : Nat) (hn : n.turn k) (waits : (w.program k).state = .waitingChannel)
      (sound : (w.channel c).state ≠ .faulted)
      (h : v.view = { w.view with
        programs := vset w.ans.programs k.priority { w.program k with state := .waitingBudget, channel := some c },
        channels := vset w.ans.channels c { (w.channel c).freed with state := .held, holder := some k } })
  | claimed (k : ProgramKind) (hn : n.turn k)
      (h : v.view = { w.view with lbu := w.lbu.place (.program k) (programLevel k) (channelCost w.map) })
  | displaced (k j : ProgramKind) (hn : n.turn k) (lower : k.priority < j.priority)
      (state : (w.program j).state ≠ .playing) (c : Nat) (held : (w.channel c).state = .held)
      (holder : (w.channel c).holder = some j)
      (h : v.view = { w.view with programs := vset w.ans.programs j.priority ((w.program j).displaced j) })

/-- A run of small steps. -/
def Runs (n : Reaching) : Work → Work → Prop := Relation.ReflTransGen (Micro n)

variable {n : Reaching} {a w : Work}

theorem Runs.refl (w : Work) : Runs n w w := Relation.ReflTransGen.refl
theorem Runs.step (h : Runs n a w) {v : Work} (m : Micro n w v) : Runs n a v := Relation.ReflTransGen.tail h m
theorem Runs.same (h : Runs n a w) {v : Work} (e : v.view = w.view) : Runs n a v := h.step (.same e)
theorem Runs.trans (h : Runs n a w) {v : Work} (k : Runs n w v) : Runs n a v := Relation.ReflTransGen.trans h k

/-- What every small step keeps, a run keeps. -/
theorem Runs.keeps {P : Work → Prop} (step : ∀ u v, Micro n u v → P u → P v) (h : Runs n a w) (ha : P a) : P w := by
  induction h with
  | refl => exact ha
  | tail _ m ih => exact step _ _ m ih

theorem Runs.foldl {α : Type} {f : Work → α → Work} (l : List α) (h : Runs n a w)
    (step : ∀ w x, Runs n a w → Runs n a (f w x)) : Runs n a (l.foldl f w) :=
  List.foldlRecOn (motive := fun v : Work => Runs n a v) _ _ h fun v hv x _ => step v x hv

theorem Runs.ite {c : Prop} [Decidable c] {x y : Work} (h : Runs n a x) (h' : Runs n a y) :
    Runs n a (if c then x else y) := by
  split
  · exact h
  · exact h'

/-! ## What leaves the view alone -/

theorem Work.view_reportChange (w : Work) (k : Kind) (m : Nat) (x y : Bool) : (w.reportChange k m x y).view = w.view := by
  unfold Work.reportChange
  split <;> rfl

theorem Work.view_giveFloor (w : Work) (f : Nat) : (w.giveFloor f).view = w.view := by
  unfold Work.giveFloor
  split <;> rfl

theorem Work.view_setProgram (w : Work) (k : ProgramKind) (r : Program) :
    (w.setProgram k r).view = { w.view with programs := vset w.ans.programs k.priority r } := by
  unfold Work.setProgram
  dsimp only
  split <;> rfl

theorem Work.view_setChannel (w : Work) (c : Nat) (r : Channel) :
    (w.setChannel c r).view = { w.view with channels := vset w.ans.channels c r } := rfl
theorem Work.view_issue (w : Work) (c : PlayerCommand) :
    (w.issue c).view = { w.view with commands := w.view.commands ++ [c] } := rfl
theorem Work.view_oweJoins (w : Work) (b : Bool) : (w.oweJoins b).view = w.view := rfl

theorem Runs.setJoin (h : Runs n a w) (f r) : Runs n a (w.setJoin f r) := h.same rfl
theorem Runs.giveFloor (h : Runs n a w) (f) : Runs n a (w.giveFloor f) := h.same (w.view_giveFloor f)
theorem Runs.post (h : Runs n a w) (k body) : Runs n a (w.post k body) := h.same rfl
theorem Runs.reportChange (h : Runs n a w) (k m x y) : Runs n a (w.reportChange k m x y) :=
  h.same (w.view_reportChange k m x y)
theorem Runs.oweJoins (h : Runs n a w) (b) : Runs n a (w.oweJoins b) := h.same rfl
theorem Runs.owePass (h : Runs n a w) (b) : Runs n a (w.owePass b) := h.same rfl
theorem Runs.markProgram (h : Runs n a w) (k) : Runs n a (w.markProgram k) := h.same rfl

/-! ## Doors -/

/-- R83: a change of a door's state. -/
theorem Work.view_setDoorState {w : Work} {d : Nat} {st : DoorState} (moves : (w.door d).state ≠ st) :
    ∃ r, (w.door d).Enters st r ∧ (w.setDoorState d st).view = { w.view with doors := vset w.doors d r } := by
  unfold Work.setDoorState
  dsimp only
  rw [if_neg moves]
  exact ⟨_, by unfold Door.Enters; split <;> rfl, Work.view_reportChange _ _ _ _ _⟩

theorem Runs.doorGranted (h : Runs n a w) (d) : Runs n a (w.doorGranted d) := by
  unfold Work.doorGranted
  split
  next pending =>
    obtain ⟨r, enters, view⟩ := Work.view_setDoorState (w := w) (d := d) (st := .releasing) (by rw [pending]; decide)
    exact h.step (.advanced d r (.releasing pending enters) view)
  next => exact h

theorem Runs.compareStrike (h : Runs n a w) (d) : Runs n a (w.compareStrike d) := by
  unfold Work.compareStrike
  dsimp only
  split
  next met => exact h.step (.compared d _ (.met met) rfl)
  next unmet =>
    split
    · exact h.step (.compared d _ (.holds unmet _) rfl)
    · exact Runs.giveFloor (h.step (.compared d _ (.sent unmet) rfl)) _

theorem vset_vset {α : Type} {m : Nat} (v : Vector α m) (i : Nat) (x y : α) : vset (vset v i x) i y = vset v i y := by
  refine Vector.ext fun j hj => ?_
  by_cases same : i = j
  · subst same; simp [vset]
  · simp [vset, Vector.getElem_setIfInBounds_ne, same]

theorem Runs.confirmStep (h : Runs n a w) (hn : n.settles) (d) : Runs n a (w.confirmStep d) := by
  unfold Work.confirmStep
  dsimp only
  split
  next releasing =>
    obtain ⟨r, enters, view⟩ :=
      Work.view_setDoorState (w := w) (d := d) (st := .released) (by rw [releasing.1]; decide)
    exact h.step (.advanced d r (.released releasing.1 enters) view)
  next =>
    split
    next relocking =>
      have bound : d < 64 := by
        by_contra past
        have state := relocking.1
        rw [State.door, vget_of_le _ _ _ (by omega)] at state
        cases state
      have record := w.setDoor_door_self d { w.door d with reRequest := false } bound
      split
      next again =>
        obtain ⟨r, enters, view⟩ := Work.view_setDoorState (w := w.setDoor d { w.door d with reRequest := false }) (d := d)
          (st := .releasePending) (by rw [record]; simp [relocking.1])
        rw [record] at enters
        rw [show (w.setDoor d _).doors = vset w.doors d _ from rfl, vset_vset] at view
        obtain ⟨again, demand⟩ := Bool.and_eq_true_iff.mp again
        refine h.step (.requeued hn d r relocking.1 again demand enters ?_)
        exact congrArg (fun v : View => { v with toPlace := v.toPlace ++ [d] }) view
      next =>
        obtain ⟨r, enters, view⟩ := Work.view_setDoorState (w := w.setDoor d { w.door d with reRequest := false }) (d := d)
          (st := .locked) (by rw [record]; simp [relocking.1])
        rw [record] at enters
        rw [show (w.setDoor d _).doors = vset w.doors d _ from rfl, vset_vset] at view
        exact h.step (.advanced d r (.locked relocking.1 enters) view)
    next => exact h

theorem Runs.settleDoor (h : Runs n a w) (hn : n.settles) (d) : Runs n a (w.settleDoor d) :=
  .ite ((h.compareStrike d).confirmStep hn d) (h.compareStrike d)

/-! ## The account -/

theorem Lbu.drop_of_not_has {l : Lbu} {who : Claimant} (h : l.has who = false) : l.drop who = l := by
  have all : l.claims.filter (fun c => decide (c.claimant ≠ who)) = l.claims := by
    refine List.filter_eq_self.mpr fun c hc => decide_eq_true fun same => ?_
    exact Bool.eq_false_iff.mp h (List.any_eq_true.mpr ⟨c, hc, decide_eq_true same⟩)
  rw [Lbu.drop, all]

theorem Work.view_dropClaim (w : Work) (who : Claimant) :
    (w.dropClaim who).view = { w.view with lbu := w.lbu.drop who } := by
  unfold Work.dropClaim
  split
  next => rfl
  next none => rw [Lbu.drop_of_not_has (by simpa using none)]; rfl

theorem Runs.dropProgram (h : Runs n a w) (k) : Runs n a (w.dropClaim (.program k)) :=
  h.step (.dropped k (w.view_dropClaim _))

theorem Runs.programGranted (h : Runs n a w) (k) : Runs n a (w.programGranted k) := by
  by_cases waits : (w.program k).state = .waitingBudget
  · exact h.step (.granted k waits rfl)
  · have : w.programGranted k = w.dropClaim (.program k) := if_neg waits
    rw [this]
    exact h.dropProgram k

theorem Runs.handGrant (h : Runs n a w) (who) : Runs n a (w.handGrant who) := by
  cases who with
  | door d => exact h.doorGranted d
  | program k => exact h.programGranted k

theorem Runs.grantPass (m : Nat) : ∀ {w : Work}, Runs n a w → Runs n a (w.grantPass m) := by
  induction m with
  | zero => exact fun h => h.owePass _
  | succ m ih =>
    intro w h
    unfold Work.grantPass
    exact Runs.foldl _ (h.step (.passed rfl)) fun w x hw => .ite (ih (hw.handGrant x)) (hw.handGrant x)

theorem Runs.runPass (h : Runs n a w) : Runs n a w.runPass := Runs.grantPass _ h
theorem Runs.runDuePass (h : Runs n a w) : Runs n a w.runDuePass := .ite h.runPass h
theorem Runs.returnProgram (h : Runs n a w) (k) : Runs n a (w.returnClaim (.program k)) := (h.dropProgram k).runDuePass

theorem Runs.placeProgram (h : Runs n a w) (k) (hn : n.turn k) : Runs n a (w.placeProgram k) :=
  Runs.runPass (h.step (.claimed k hn rfl))

theorem Runs.placeDoors (h : Runs n a w) : Runs n a w.placeDoors := by
  unfold Work.placeDoors
  exact .ite h (Runs.runPass (h.step (.placed rfl)))

/-! ## The end of an event -/

theorem Runs.settleDoors (hn : n.settles) (m : Nat) : ∀ {w : Work}, Runs n a w → Runs n a (w.settleDoors m) := by
  induction m with
  | zero => exact fun h => h
  | succ m ih =>
    intro w h
    have settled : Runs n a (w.moved.foldl Work.settleDoor w.noneMoved) :=
      .foldl _ (h.same rfl) fun _ d h => h.settleDoor hn d
    exact .ite h (ih settled.placeDoors)

theorem Runs.compareJoin (h : Runs n a w) (f) : Runs n a (w.compareJoin f) :=
  .ite (h.setJoin _ _) (.ite (h.setJoin _ _) ((h.setJoin _ _).giveFloor _))

theorem Runs.settleJoins (h : Runs n a w) : Runs n a w.settleJoins := by
  have cleared : Runs n a w.noJoins := h.same rfl
  exact .ite (.foldl _ cleared fun _ f h => h.compareJoin f) h

theorem Runs.settle (h : Runs n a w) (hn : n.settles) : Runs n a w.settle := (Runs.settleDoors hn _ h).settleJoins

theorem Runs.postDoors (h : Runs n a w) : Runs n a w.postDoors := .foldl _ h fun _ _ h => h.post _ _
theorem Runs.postPrograms (h : Runs n a w) : Runs n a w.postPrograms := .foldl _ h fun _ _ h => h.post _ _
theorem Runs.postCars (h : Runs n a w) : Runs n a w.postCars := .foldl _ h fun _ _ h => h.post _ _
theorem Runs.settled (h : Runs n a w) (hn : n.ends) : Runs n a w.settled := h.step (.cleared hn rfl)
theorem Runs.endEvent (h : Runs n a w) (hn : n.settles) (he : n.ends) : Runs n a w.endEvent :=
  (h.settle hn).postDoors.postPrograms.postCars.settled he

/-! ## A program that plays (R117, R118) -/

/-- R117: a program's record as it moves on in its template. -/
def Program.Onward (p q : Program) : Prop :=
  { q with
    slot := p.slot, repeatsLeft := p.repeatsLeft, played := p.played, pauseUntil := p.pauseUntil,
    phraseStarted := p.phraseStarted } = p

theorem Program.Onward.trans {p q r : Program} (h : p.Onward q) (k : q.Onward r) : p.Onward r := by
  have same := congrArg (fun x : Program => { x with
    slot := p.slot, repeatsLeft := p.repeatsLeft, played := p.played, pauseUntil := p.pauseUntil,
    phraseStarted := p.phraseStarted }) k
  exact same.trans h

/-- R110: the record of a program that is stopped. -/
def Program.stopped (p : Program) (k : ProgramKind) (why : StopReason) : Program :=
  let q : Program := { p with state := .stopping, stopReason := some why, pauseUntil := none, phraseStarted := none }
  if endsWhenStopped k then q.emptied else q

/-- R112: the record of a channel whose program is stopped. -/
def Channel.stopped (r : Channel) (k : ProgramKind) (for_ : Option ProgramKind) (now : Nat) : Channel :=
  { r with state := .stopping, holder := some k, reservedFor := for_, awaiting := .stop, issuedAt := some now }

/-- The channels after a program was stopped. -/
def Work.channelsStopped (w : Work) (k : ProgramKind) (for_ : Option ProgramKind) : Vector Channel 6 :=
  match (w.program k).channel with
  | some c => vset w.ans.channels c ((w.channel c).stopped k for_ w.uptime)
  | none => w.ans.channels

/-- The commands that stop a program. -/
def Program.stops (p : Program) : List PlayerCommand := (p.channel.map PlayerCommand.stop).toList

theorem Work.view_stopProgram (w : Work) (k : ProgramKind) (why : StopReason) (for_ : Option ProgramKind) :
    (w.stopProgram k why for_).view = { w.view with
      programs := vset w.ans.programs k.priority ((w.program k).stopped k why),
      channels := w.channelsStopped k for_, commands := w.view.commands ++ (w.program k).stops } := by
  unfold Work.stopProgram Work.channelsStopped Program.stops Program.stopped
  dsimp only
  generalize (if endsWhenStopped k then _ else _ : Program) = q
  have programs := w.view_setProgram k q
  obtain ⟨v, hv⟩ : ∃ v, v = w.setProgram k q := ⟨_, rfl⟩
  rw [← hv] at programs
  have channels : v.ans.channels = w.ans.channels := (congrArg View.channels programs :)
  have uptime : v.uptime = w.uptime := (congrArg View.uptime programs :)
  rw [← hv]
  split
  next c channel =>
    have record : (v.oweJoins true).channel c = w.channel c := congrArg (fun t => vget t c Channel.reset) channels
    rw [Work.view_setChannel, Work.view_issue, Work.view_oweJoins]
    have uptime : (v.oweJoins true).uptime = w.uptime := uptime
    have rows : ((v.oweJoins true).issue (.stop c)).ans.channels = w.ans.channels := channels
    rw [programs, rows, channel, record, uptime]
    rfl
  next none =>
    show v.view = _
    rw [programs, none]
    simp
    rfl

/-- R117: a channel's record as a command is awaited on it. -/
def Channel.Cued (o r : Channel) : Prop := { r with awaiting := o.awaiting, issuedAt := o.issuedAt } = o

/-- R117, R118: what beginning a slot of a PLAYING program does: the program moves on, with a command for its channel or
without, or it completes. -/
inductive Work.Played (w : Work) (k : ProgramKind) (v : Work) : Prop
  | onward (q : Program) (hq : (w.program k).Onward q)
      (h : v.view = { w.view with programs := vset w.ans.programs k.priority q })
  | cued (q : Program) (hq : (w.program k).Onward q) (c : Nat) (hc : (w.program k).channel = some c) (r : Channel)
      (hr : (w.channel c).Cued r) (cmd : PlayerCommand)
      (h : v.view = { w.view with
        programs := vset w.ans.programs k.priority q, channels := vset w.ans.channels c r,
        commands := w.view.commands ++ [cmd] })
  | completed (finite : endless k = false) (q : Program) (hq : (w.program k).Onward q)
      (h : v.view = { w.view with
        programs := vset w.ans.programs k.priority (q.stopped k .completed).emptied,
        channels := w.channelsStopped k none, commands := w.view.commands ++ (w.program k).stops,
        lbu := w.lbu.drop (.program k) })

theorem vset_vget {α : Type} {m : Nat} (v : Vector α m) (i : Nat) (d : α) : vset v i (vget v i d) = v := by
  refine Vector.ext fun j hj => ?_
  by_cases same : i = j
  · subst same; simp [vset, vget, hj]
  · simp [vset, Vector.getElem_setIfInBounds_ne, same]

/-- A program moved on, and nothing else. -/
def Work.MovedOn (w : Work) (k : ProgramKind) (u : Work) : Prop :=
  ∃ q, (w.program k).Onward q ∧ u.view = { w.view with programs := vset w.ans.programs k.priority q }

theorem Work.MovedOn.refl (w : Work) (k : ProgramKind) : w.MovedOn k w :=
  ⟨w.program k, rfl, by rw [State.program, vset_vget]; rfl⟩

theorem Work.MovedOn.program {w u : Work} {k : ProgramKind} (h : w.MovedOn k u) : (w.program k).Onward (u.program k) := by
  obtain ⟨q, hq, view⟩ := h
  have programs : u.ans.programs = _ := (congrArg View.programs view :)
  rw [show u.program k = q by rw [State.program, programs]; exact vget_vset_self _ _ _ _ (ProgramKind.priority_lt k)]
  exact hq

theorem Work.MovedOn.channel {w u : Work} {k : ProgramKind} (h : w.MovedOn k u) :
    (u.program k).channel = (w.program k).channel :=
  (congrArg Program.channel h.program :)

theorem Work.MovedOn.setProgram {w u : Work} {k : ProgramKind} (h : w.MovedOn k u) {r : Program}
    (hr : (u.program k).Onward r) : w.MovedOn k (u.setProgram k r) := by
  have before := h.program
  obtain ⟨q, -, view⟩ := h
  have programs : u.ans.programs = _ := (congrArg View.programs view :)
  refine ⟨r, before.trans hr, ?_⟩
  rw [Work.view_setProgram, programs, vset_vset, view]

theorem Work.MovedOn.played {w u : Work} {k : ProgramKind} (h : w.MovedOn k u) : w.Played k u := by
  obtain ⟨q, hq, view⟩ := h
  exact .onward q hq view

/-- R117: a command for the channel of a program that has moved on. -/
theorem Work.MovedOn.cue {w u : Work} {k : ProgramKind} (h : w.MovedOn k u) {c : Nat} (hc : (u.program k).channel = some c)
    {r : Channel} (hr : (u.channel c).Cued r) (cmd : PlayerCommand) : w.Played k ((u.issue cmd).setChannel c r) := by
  have channel := h.channel
  obtain ⟨q, hq, view⟩ := h
  have channels : u.ans.channels = w.ans.channels := (congrArg View.channels view :)
  refine .cued q hq c (channel.symm.trans hc) r ?_ cmd ?_
  · rwa [show u.channel c = w.channel c from congrArg (fun t => vget t c Channel.reset) channels] at hr
  · rw [Work.view_setChannel, Work.view_issue, view, show (u.issue cmd).ans.channels = _ from channels]

/-- R117: a phrase of a slot. -/
theorem Work.MovedOn.playPhrase {w u : Work} {k : ProgramKind} (h : w.MovedOn k u) (x : Nat) :
    w.Played k (u.playPhrase k x) := by
  have now : w.MovedOn k (u.setProgram k { u.program k with phraseStarted := some u.uptime, played := true }) :=
    h.setProgram rfl
  have record := u.setProgram_program_self k { u.program k with phraseStarted := some u.uptime, played := true }
  unfold Work.playPhrase
  dsimp only
  split
  next c here => exact now.cue (by rw [record]; exact here) (by exact rfl) _
  next => exact now.played

/-- R118: a program completes. -/
theorem Work.view_completeProgram (u : Work) (k : ProgramKind) :
    (u.completeProgram k).view = { u.view with
      programs := vset u.ans.programs k.priority ((u.program k).stopped k .completed).emptied,
      channels := u.channelsStopped k none, commands := u.view.commands ++ (u.program k).stops,
      lbu := u.lbu.drop (.program k) } := by
  have stopped := u.view_stopProgram k .completed none
  obtain ⟨v, hv⟩ : ∃ v, v = u.stopProgram k .completed none := ⟨_, rfl⟩
  rw [← hv] at stopped
  have rows : v.ans.programs = _ := (congrArg View.programs stopped :)
  have record : v.program k = (u.program k).stopped k .completed := by
    rw [State.program, rows]; exact vget_vset_self _ _ _ _ (ProgramKind.priority_lt k)
  have lbu : v.lbu = u.lbu := (congrArg View.lbu stopped :)
  unfold Work.completeProgram
  rw [← hv]
  dsimp only
  rw [Work.view_dropClaim, Work.view_setProgram, record, rows, stopped, Work.setProgram_lbu, lbu, vset_vset]

theorem Work.MovedOn.completeProgram {w u : Work} {k : ProgramKind} (h : w.MovedOn k u) (finite : endless k = false) :
    w.Played k (u.completeProgram k) := by
  have onward := h.program
  have channel := h.channel
  obtain ⟨q, -, view⟩ := h
  have programs : u.ans.programs = _ := (congrArg View.programs view :)
  have channels : u.ans.channels = w.ans.channels := (congrArg View.channels view :)
  have uptime : u.uptime = w.uptime := (congrArg View.uptime view :)
  have lbu : u.lbu = w.lbu := (congrArg View.lbu view :)
  have stops : w.channelsStopped k none = u.channelsStopped k none := by
    unfold Work.channelsStopped
    rw [channel, channels, uptime]
    unfold State.channel
    rw [channels]
  refine .completed finite (u.program k) onward ?_
  rw [Work.view_completeProgram, programs, view, lbu, stops, Program.stops, Program.stops, channel, vset_vset]

/-- R117, R118: the slots that one event begins. -/
theorem Work.MovedOn.beginSlot {w : Work} {k : ProgramKind} (m : Nat) :
    ∀ {u : Work} (i : Nat), w.MovedOn k u → w.Played k (u.beginSlot m k i) := by
  induction m with
  | zero => exact fun _ h => h.played
  | succ m ih =>
    intro u i h
    have entered : w.MovedOn k (u.enterSlot k i) := h.setProgram rfl
    unfold Work.beginSlot
    dsimp only
    split
    · exact entered.playPhrase _
    · exact entered.playPhrase _
    · split
      · exact entered.playPhrase _
      · exact ih _ entered
    · exact (h.setProgram (r := { u.program k with slot := i, pauseUntil := _, played := true }) rfl).played
    · have repeated (b : Bool) (s : Nat) (p : Option Nat) : (u.program k).Onward
          { (u.program k).repeated k with played := b, slot := s, pauseUntil := p } := by
        unfold Program.repeated Program.Onward
        split <;> rfl
      have counted : w.MovedOn k (u.setProgram k ((u.program k).repeated k)) :=
        h.setProgram (by unfold Program.repeated Program.Onward; split <;> rfl)
      split
      next last => exact counted.completeProgram last.1
      next =>
        split
        · exact ih _ (h.setProgram (by unfold Program.repeated Program.Onward; split <;> rfl))
        · exact (h.setProgram (by unfold Program.repeated Program.Onward; split <;> rfl)).played

end Sys2Proof.Machine
end

section
/-! PROOFS. Chapters 3, 4 and 6: what a small step does to one program, one channel, one door and one claim. -/

namespace Sys2Proof.Machine

variable {n : Reaching} {w v : Work}

/-! ## A grant (R115) -/

/-- R115: the record of a program that enters PLAYING. -/
def Program.playing (p : Program) : Program := { p with state := .playing, slot := 0, played := false }

theorem Work.program_of_view {k j : ProgramKind} {r : Program} (h : v.ans.programs = vset w.ans.programs j.priority r) :
    v.program k = w.program k ∨ (j = k ∧ v.program k = r) := by
  by_cases same : j = k
  · subst same
    exact .inr ⟨rfl, by rw [State.program, h]; exact vget_vset_self _ _ _ _ (ProgramKind.priority_lt j)⟩
  · refine .inl ?_
    rw [State.program, h]
    exact vget_vset_ne _ _ _ _ _ fun e => same (ProgramKind.priority_injective e)

theorem Work.program_of_view_self {k : ProgramKind} {r : Program} (h : v.ans.programs = vset w.ans.programs k.priority r) :
    v.program k = r := by
  rw [State.program, h]; exact vget_vset_self _ _ _ _ (ProgramKind.priority_lt k)

/-- R115: a grant makes the program PLAYING, and begins it. -/
theorem Work.programGranted_played (w : Work) {k : ProgramKind} (waits : (w.program k).state = .waitingBudget) :
    (w.setProgram k (w.program k).playing).Played k (w.programGranted k) ∧
      (k = .live → ((w.programGranted k).program k).state = .playing) := by
  unfold Work.programGranted
  dsimp only
  rw [if_pos waits]
  have entered : (w.setProgram k (w.program k).playing).MovedOn k
      ((w.setProgram k (w.program k).playing).oweJoins true) := Work.MovedOn.refl _ k
  have record : (w.setProgram k (w.program k).playing).program k = (w.program k).playing :=
    Work.setProgram_program_self _ _ _
  split
  next live =>
    subst live
    split
    next c channel =>
      exact ⟨entered.cue (by exact (congrArg Program.channel record).trans channel) (by exact rfl) _,
        fun _ => congrArg Program.state record⟩
    next => exact ⟨entered.played, fun _ => congrArg Program.state record⟩
  next other => exact ⟨Work.MovedOn.beginSlot _ _ entered, fun live => absurd live other⟩

/-! ## Programs -/

/-- What a small step can make of a program's record. -/
inductive Program.Move (n : Reaching) (w : Work) (k : ProgramKind) : Program → Prop
  | onward (waits : (w.program k).state = .waitingBudget) (q) (hq : (w.program k).playing.Onward q)
      (grant : (w.programGranted k).program k = q) : Move n w k q
  | completed (waits : (w.program k).state = .waitingBudget) (finite : endless k = false) (other : k ≠ .live) (q)
      (hq : (w.program k).playing.Onward q)
      (grant : (w.programGranted k).program k = (q.stopped k .completed).emptied) :
      Move n w k (q.stopped k .completed).emptied
  | stopped (playing : (w.program k).state = .playing) (why for_) (reason : Stops n w k why for_) :
      Move n w k ((w.program k).stopped k why)
  | floors (hn : n.recomputes k) : Move n w k { w.program k with floorSet := w.floorSetOf k }
  | started (hn : n.recomputes k) (idle : (w.program k).state = .idle) (floors : (w.program k).floorSet ≠ 0) :
      Move n w k { w.program k with
        state := .waitingChannel, slot := 0, repeatsLeft := startRepeats k (w.program k), played := false,
        stopReason := none }
  | ended (hn : n.recomputes k)
      (waits : (w.program k).state = .waitingChannel ∨ (w.program k).state = .waitingBudget)
      (empty : (w.program k).floorSet = 0) : Move n w k ((w.program k).ended k (n.why k))
  | taken (hn : n.turn k) (waits : (w.program k).state = .waitingChannel) (c : Nat) :
      Move n w k { w.program k with state := .waitingBudget, channel := some c }
  | displaced (j : ProgramKind) (hn : n.turn j) (lower : j.priority < k.priority)
      (state : (w.program k).state ≠ .playing) (c : Nat) (held : (w.channel c).state = .held)
      (holder : (w.channel c).holder = some k) : Move n w k ((w.program k).displaced k)

theorem Micro.program (m : Micro n w v) (k : ProgramKind) :
    v.program k = w.program k ∨ Program.Move n w k (v.program k) := by
  have still (h : v.ans.programs = w.ans.programs) : v.program k = w.program k := by rw [State.program, h]; rfl
  cases m with
  | same h => exact .inl (still (congrArg View.programs h :))
  | cleared _ h => exact .inl (still (congrArg View.programs h :))
  | issued _ h => exact .inl (still (congrArg View.programs h :))
  | compared _ _ _ h => exact .inl (still (congrArg View.programs h :))
  | advanced _ _ _ h => exact .inl (still (congrArg View.programs h :))
  | requeued _ _ _ _ _ _ _ h => exact .inl (still (congrArg View.programs h :))
  | placed h => exact .inl (still (congrArg View.programs h :))
  | passed h => exact .inl (still (congrArg View.programs h :))
  | dropped _ h => exact .inl (still (congrArg View.programs h :))
  | reached _ _ _ _ h => exact .inl (still (congrArg View.programs h :))
  | unreserved _ h => exact .inl (still (congrArg View.programs h :))
  | claimed _ _ h => exact .inl (still (congrArg View.programs h :))
  | granted j waits h =>
    subst h
    obtain ⟨played, live⟩ := w.programGranted_played waits
    have before : (w.setProgram j (w.program j).playing).program j = (w.program j).playing :=
      Work.setProgram_program_self _ _ _
    have replaced (r : Program) : vset (w.setProgram j (w.program j).playing).ans.programs j.priority r =
        vset w.ans.programs j.priority r := by rw [Work.setProgram_ans]; exact vset_vset _ _ _ _
    cases played with
    | onward q hq view =>
      obtain same | ⟨rfl, same⟩ := Work.program_of_view (k := k) ((congrArg View.programs view :).trans (replaced q))
      · exact .inl same
      · rw [before] at hq
        rw [same]; exact .inr (.onward waits q hq same)
    | cued q hq c _ r _ cmd view =>
      obtain same | ⟨rfl, same⟩ := Work.program_of_view (k := k) ((congrArg View.programs view :).trans (replaced q))
      · exact .inl same
      · rw [before] at hq
        rw [same]; exact .inr (.onward waits q hq same)
    | completed finite q hq view =>
      obtain same | ⟨rfl, same⟩ := Work.program_of_view (k := k) ((congrArg View.programs view :).trans (replaced _))
      · exact .inl same
      · rw [before] at hq
        have other : j ≠ .live := fun isLive => by
          have state := live isLive
          rw [same] at state
          simp only [Program.emptied, Program.stopped] at state
          split at state <;> cases state
        rw [same]; exact .inr (.completed waits finite other q hq same)
  | stopped j why for_ state reason h =>
    subst h
    obtain same | ⟨rfl, same⟩ := Work.program_of_view (k := k) (congrArg View.programs (w.view_stopProgram j why for_) :)
    · exact .inl same
    · rw [same]; exact .inr (.stopped state why for_ reason)
  | floors j hn h =>
    obtain same | ⟨rfl, same⟩ := Work.program_of_view (k := k) (congrArg View.programs h :)
    · exact .inl same
    · rw [same]; exact .inr (.floors hn)
  | started j hn idle floors h =>
    obtain same | ⟨rfl, same⟩ := Work.program_of_view (k := k) (congrArg View.programs h :)
    · exact .inl same
    · rw [same]; exact .inr (.started hn idle floors)
  | ended j hn waits empty h =>
    obtain same | ⟨rfl, same⟩ := Work.program_of_view (k := k) (congrArg View.programs h :)
    · exact .inl same
    · rw [same]; exact .inr (.ended hn (.inl waits) empty)
  | gaveUp j hn waits empty h =>
    obtain same | ⟨rfl, same⟩ := Work.program_of_view (k := k) (congrArg View.programs h :)
    · exact .inl same
    · rw [same]; exact .inr (.ended hn (.inr waits) empty)
  | taken j c hn waits sound h =>
    obtain same | ⟨rfl, same⟩ := Work.program_of_view (k := k) (congrArg View.programs h :)
    · exact .inl same
    · rw [same]; exact .inr (.taken hn waits c)
  | displaced i j hn lower state c held holder h =>
    obtain same | ⟨rfl, same⟩ := Work.program_of_view (k := k) (congrArg View.programs h :)
    · exact .inl same
    · rw [same]; exact .inr (.displaced i hn lower state c held holder)

/-! ## Channels -/

theorem Work.channel_of_view {c i : Nat} {r : Channel} (h : v.ans.channels = vset w.ans.channels i r) :
    v.channel c = w.channel c ∨ (i = c ∧ v.channel c = r) := by
  by_cases same : i = c
  · subst same
    by_cases bound : i < 6
    · exact .inr ⟨rfl, by rw [State.channel, h]; exact vget_vset_self _ _ _ _ bound⟩
    · refine .inl ?_
      rw [State.channel, h, vset_of_le _ _ _ (Nat.not_lt.mp bound)]
      rfl
  · refine .inl ?_
    rw [State.channel, h]
    exact vget_vset_ne _ _ _ _ _ same

/-- What a small step can make of a channel's record. -/
inductive Channel.Move (n : Reaching) (w : Work) (c : Nat) : Channel → Prop
  | cued (k) (waits : (w.program k).state = .waitingBudget) (hc : (w.program k).channel = some c) (r)
      (hr : (w.channel c).Cued r) : Move n w c r
  | completed (k) (waits : (w.program k).state = .waitingBudget) (hc : (w.program k).channel = some c) :
      Move n w c ((w.channel c).stopped k none w.uptime)
  | stopped (k) (playing : (w.program k).state = .playing) (hc : (w.program k).channel = some c) (why for_)
      (reason : Stops n w k why for_) : Move n w c ((w.channel c).stopped k for_ w.uptime)
  | freed (k) (hn : n.recomputes k) (waits : (w.program k).state = .waitingBudget) (hc : (w.program k).channel = some c) :
      Move n w c (w.channel c).freed
  | unreserved : Move n w c { w.channel c with reservedFor := none }
  | taken (k) (hn : n.turn k) (waits : (w.program k).state = .waitingChannel) (sound : (w.channel c).state ≠ .faulted) :
      Move n w c { (w.channel c).freed with state := .held, holder := some k }

theorem Work.channelsStopped_cases (w : Work) (k : ProgramKind) (for_ : Option ProgramKind) (c : Nat)
    (h : v.ans.channels = w.channelsStopped k for_) : v.channel c = w.channel c ∨
      ((w.program k).channel = some c ∧ v.channel c = (w.channel c).stopped k for_ w.uptime) := by
  unfold Work.channelsStopped at h
  split at h
  next i here =>
    obtain same | ⟨rfl, same⟩ := Work.channel_of_view (c := c) h
    · exact .inl same
    · exact .inr ⟨here, same⟩
  next => exact .inl (by rw [State.channel, h]; rfl)

theorem Micro.channel (m : Micro n w v) (c : Nat) : v.channel c = w.channel c ∨ Channel.Move n w c (v.channel c) := by
  have still (h : v.ans.channels = w.ans.channels) : v.channel c = w.channel c := by rw [State.channel, h]; rfl
  cases m with
  | same h => exact .inl (still (congrArg View.channels h :))
  | cleared _ h => exact .inl (still (congrArg View.channels h :))
  | issued _ h => exact .inl (still (congrArg View.channels h :))
  | compared _ _ _ h => exact .inl (still (congrArg View.channels h :))
  | advanced _ _ _ h => exact .inl (still (congrArg View.channels h :))
  | requeued _ _ _ _ _ _ _ h => exact .inl (still (congrArg View.channels h :))
  | placed h => exact .inl (still (congrArg View.channels h :))
  | passed h => exact .inl (still (congrArg View.channels h :))
  | dropped _ h => exact .inl (still (congrArg View.channels h :))
  | reached _ _ _ _ h => exact .inl (still (congrArg View.channels h :))
  | claimed _ _ h => exact .inl (still (congrArg View.channels h :))
  | floors _ _ h => exact .inl (still (congrArg View.channels h :))
  | started _ _ _ _ h => exact .inl (still (congrArg View.channels h :))
  | ended _ _ _ _ h => exact .inl (still (congrArg View.channels h :))
  | displaced _ _ _ _ _ _ _ _ h => exact .inl (still (congrArg View.channels h :))
  | granted j waits h =>
    subst h
    have channels : (w.setProgram j (w.program j).playing).ans.channels = w.ans.channels := by rw [Work.setProgram_ans]
    have uptime : (w.setProgram j (w.program j).playing).uptime = w.uptime := Work.setProgram_uptime _ _ _
    have record : (w.setProgram j (w.program j).playing).channel c = w.channel c :=
      congrArg (fun t => vget t c Channel.reset) channels
    have own : ((w.setProgram j (w.program j).playing).program j).channel = (w.program j).channel :=
      (congrArg Program.channel (w.setProgram_program_self j (w.program j).playing) :)
    cases (w.programGranted_played waits).1 with
    | onward q hq view => exact .inl ((congrArg (fun t : View => vget t.channels c Channel.reset) view :).trans record)
    | cued q hq i hi r hr cmd view =>
      obtain same | ⟨rfl, same⟩ := Work.channel_of_view (c := c) (congrArg View.channels view :)
      · exact .inl (same.trans record)
      · rw [record] at hr
        rw [same]; exact .inr (.cued j waits (own.symm.trans hi) r hr)
    | completed finite q hq view =>
      obtain same | ⟨here, same⟩ := Work.channelsStopped_cases _ j none c (congrArg View.channels view :)
      · exact .inl (same.trans record)
      · rw [same, record, uptime]; exact .inr (.completed j waits (own.symm.trans here))
  | stopped j why for_ state reason h =>
    subst h
    obtain same | ⟨here, same⟩ :=
      Work.channelsStopped_cases w j for_ c (congrArg View.channels (w.view_stopProgram j why for_) :)
    · exact .inl same
    · rw [same]; exact .inr (.stopped j state here why for_ reason)
  | gaveUp j hn waits empty h =>
    have channels : v.ans.channels = w.channelsFreed j := (congrArg View.channels h :)
    unfold Work.channelsFreed at channels
    split at channels
    next i here =>
      obtain same | ⟨rfl, same⟩ := Work.channel_of_view (c := c) channels
      · exact .inl same
      · rw [same]; exact .inr (.freed j hn waits here)
    next => exact .inl (still channels)
  | unreserved i h =>
    obtain same | ⟨rfl, same⟩ := Work.channel_of_view (c := c) (congrArg View.channels h :)
    · exact .inl same
    · rw [same]; exact .inr .unreserved
  | taken j i hn waits sound h =>
    obtain same | ⟨rfl, same⟩ := Work.channel_of_view (c := c) (congrArg View.channels h :)
    · exact .inl same
    · rw [same]; exact .inr (.taken j hn waits sound)

/-! ## What no small step changes -/

/-- The doors and the claims of a step on programs. -/
theorem Work.programGranted_view (w : Work) {k : ProgramKind} (waits : (w.program k).state = .waitingBudget) :
    let u := w.programGranted k
    u.doors = w.doors ∧ u.toPlace = w.toPlace ∧ u.ans.playerLost = w.ans.playerLost ∧ u.rgc = w.rgc ∧ u.mst = w.mst ∧
      u.uptime = w.uptime ∧ (u.lbu = w.lbu ∨ u.lbu = w.lbu.drop (.program k)) ∧
      ∃ more, u.plp.commands = w.plp.commands ++ more := by
  intro u
  have base := w.view_setProgram k (w.program k).playing
  have from_ {α : Type} (p : View → α) (hp : p (w.setProgram k (w.program k).playing).view = p w.view)
      {y : View} (view : u.view = y) (hy : p y = p (w.setProgram k (w.program k).playing).view) : p u.view = p w.view :=
    (congrArg p view).trans (hy.trans hp)
  cases (w.programGranted_played waits).1 with
  | onward q hq view =>
    exact ⟨from_ View.doors (by rw [base]) view rfl, from_ View.toPlace (by rw [base]) view rfl,
      from_ View.playerLost (by rw [base]) view rfl, from_ View.rgc (by rw [base]) view rfl,
      from_ View.mst (by rw [base]) view rfl, from_ View.uptime (by rw [base]) view rfl,
      .inl (from_ View.lbu (by rw [base]) view rfl),
      [], (from_ View.commands (by rw [base]) view rfl).trans (List.append_nil _).symm⟩
  | cued q hq c hc r hr cmd view =>
    exact ⟨from_ View.doors (by rw [base]) view rfl, from_ View.toPlace (by rw [base]) view rfl,
      from_ View.playerLost (by rw [base]) view rfl, from_ View.rgc (by rw [base]) view rfl,
      from_ View.mst (by rw [base]) view rfl, from_ View.uptime (by rw [base]) view rfl,
      .inl (from_ View.lbu (by rw [base]) view rfl),
      [cmd], (congrArg View.commands view).trans (congrArg (· ++ [cmd]) (congrArg View.commands base :))⟩
  | completed finite q hq view =>
    exact ⟨from_ View.doors (by rw [base]) view rfl, from_ View.toPlace (by rw [base]) view rfl,
      from_ View.playerLost (by rw [base]) view rfl, from_ View.rgc (by rw [base]) view rfl,
      from_ View.mst (by rw [base]) view rfl, from_ View.uptime (by rw [base]) view rfl,
      .inr ((congrArg View.lbu view).trans (congrArg (fun y : View => y.lbu.drop (.program k)) base :)),
      _, (congrArg View.commands view).trans (congrArg (· ++ _) (congrArg View.commands base :))⟩

/-- No small step changes the regime, the map, the uptime or the player's record, and none takes a command back. -/
theorem Micro.frame (m : Micro n w v) : v.ans.playerLost = w.ans.playerLost ∧ v.rgc = w.rgc ∧ v.mst = w.mst ∧
    v.uptime = w.uptime ∧ ∃ more, v.plp.commands = w.plp.commands ++ more := by
  have by_view {y : View} (h : v.view = y) (playerLost : y.playerLost = w.ans.playerLost) (rgc : y.rgc = w.rgc)
      (mst : y.mst = w.mst) (uptime : y.uptime = w.uptime) (more : ∃ more, y.commands = w.plp.commands ++ more) :
      v.ans.playerLost = w.ans.playerLost ∧ v.rgc = w.rgc ∧ v.mst = w.mst ∧ v.uptime = w.uptime ∧
        ∃ more, v.plp.commands = w.plp.commands ++ more := by
    subst h; exact ⟨playerLost, rgc, mst, uptime, more⟩
  have kept : ∃ more, w.plp.commands = w.plp.commands ++ more := ⟨[], (List.append_nil _).symm⟩
  cases m with
  | granted k waits h =>
    subst h
    obtain ⟨-, -, playerLost, rgc, mst, uptime, -, more⟩ := w.programGranted_view waits
    exact ⟨playerLost, rgc, mst, uptime, more⟩
  | stopped k why for_ _ _ h =>
    subst h
    exact by_view (w.view_stopProgram k why for_) rfl rfl rfl rfl ⟨_, rfl⟩
  | issued c h => exact by_view h rfl rfl rfl rfl ⟨_, rfl⟩
  | same h => exact by_view h rfl rfl rfl rfl kept
  | cleared _ h => exact by_view h rfl rfl rfl rfl kept
  | compared _ _ _ h => exact by_view h rfl rfl rfl rfl kept
  | advanced _ _ _ h => exact by_view h rfl rfl rfl rfl kept
  | requeued _ _ _ _ _ _ _ h => exact by_view h rfl rfl rfl rfl kept
  | placed h => exact by_view h rfl rfl rfl rfl kept
  | passed h => exact by_view h rfl rfl rfl rfl kept
  | dropped _ h => exact by_view h rfl rfl rfl rfl kept
  | reached _ _ _ _ h => exact by_view h rfl rfl rfl rfl kept
  | unreserved _ h => exact by_view h rfl rfl rfl rfl kept
  | claimed _ _ h => exact by_view h rfl rfl rfl rfl kept
  | floors _ _ h => exact by_view h rfl rfl rfl rfl kept
  | started _ _ _ _ h => exact by_view h rfl rfl rfl rfl kept
  | ended _ _ _ _ h => exact by_view h rfl rfl rfl rfl kept
  | gaveUp _ _ _ _ h => exact by_view h rfl rfl rfl rfl kept
  | taken _ _ _ _ _ h => exact by_view h rfl rfl rfl rfl kept
  | displaced _ _ _ _ _ _ _ _ h => exact by_view h rfl rfl rfl rfl kept

/-! ## Doors and their claims -/

theorem Lbu.has_place_self (l : Lbu) (who : Claimant) (level cost : Nat) : (l.place who level cost).has who = true := by
  unfold Lbu.place
  split
  next claimed => exact claimed
  next => simp [Lbu.has]

theorem Lbu.has_place_mono {l : Lbu} {who : Claimant} (h : l.has who = true) (j : Claimant) (level cost : Nat) :
    (l.place j level cost).has who = true := by
  by_cases same : j = who
  · subst same; exact l.has_place_self j level cost
  · rw [l.has_place_ne same]; exact h

theorem placing_has_self (w : Work) {d : Nat} (bound : d < 64) (queued : d ∈ w.toPlace) :
    w.placing.has (.door d) = true := by
  have member : d ∈ doorIndices.filter fun d => w.toPlace.contains d :=
    List.mem_filter.mpr ⟨List.mem_range.mpr bound, by simpa using queued⟩
  unfold Work.placing
  generalize doorIndices.filter (fun d => w.toPlace.contains d) = l at member
  generalize w.lbu = lbu
  induction l generalizing lbu with
  | nil => cases member
  | cons x l ih =>
    rw [List.foldl_cons]
    obtain rfl | later := List.mem_cons.mp member
    · exact List.foldlRecOn (motive := fun l : Lbu => l.has (.door d) = true) _ _ (lbu.has_place_self _ _ _)
        fun l hl x _ => Lbu.has_place_mono hl _ _ _
    · exact ih later _

theorem placing_has_mono (w : Work) {who : Claimant} (h : w.lbu.has who = true) : w.placing.has who = true :=
  List.foldlRecOn (motive := fun l : Lbu => l.has who = true) _ _ h fun _ hl _ _ => Lbu.has_place_mono hl _ _ _

theorem placing_has_ne (w : Work) {who : Claimant} (h : ∀ d ∈ w.toPlace, who ≠ .door d) :
    w.placing.has who = w.lbu.has who := by
  refine List.foldlRecOn (motive := fun l : Lbu => l.has who = w.lbu.has who) _ _ rfl fun l hl x hx => ?_
  rw [l.has_place_ne fun same => h x (by simpa using (List.mem_filter.mp hx).2) same.symm]
  exact hl

/-- What a small step can make of a door's record while neither RGC's phases nor a shed reach the doors. -/
inductive Door.Move (n : Reaching) (w v : Work) (d : Nat) : Prop
  | same (h : v.door d = w.door d)
  | compared (h : (w.door d).Compared (v.door d))
  | advanced (h : (w.door d).Advances (v.door d))
  | requeued (hn : n.settles) (state : (w.door d).state = .relocking) (again : (w.door d).reRequest = true)
      (demand : (w.doorDemand d).isSome = true)
      (hr : ({ w.door d with reRequest := false } : Door).Enters .releasePending (v.door d))

theorem Work.door_of_view {d x : Nat} {r : Door} (h : v.doors = vset w.doors x r) :
    v.door d = w.door d ∨ (x = d ∧ v.door d = r) := by
  rcases w.door_setDoor x d r with same | ⟨here, same⟩
  · exact .inl ((congrArg (fun t => vget t d Door.reset) h).trans same)
  · exact .inr ⟨here, (congrArg (fun t => vget t d Door.reset) h).trans same⟩

theorem Micro.door (m : Micro n w v) (closed : ¬ n.doors) (d : Nat) : Door.Move n w v d := by
  have still (h : v.doors = w.doors) : Door.Move n w v d := .same (by rw [State.door, h]; rfl)
  cases m with
  | granted k waits h =>
    subst h
    exact still (w.programGranted_view waits).1
  | stopped k why for_ _ _ h =>
    subst h
    exact still (congrArg View.doors (w.view_stopProgram k why for_) :)
  | compared x r hr h =>
    obtain same | ⟨rfl, same⟩ := Work.door_of_view (d := d) (congrArg View.doors h :)
    · exact .same same
    · exact .compared (same ▸ hr)
  | advanced x r hr h =>
    obtain same | ⟨rfl, same⟩ := Work.door_of_view (d := d) (congrArg View.doors h :)
    · exact .same same
    · exact .advanced (same ▸ hr)
  | requeued hn x r state again demand hr h =>
    obtain same | ⟨rfl, same⟩ := Work.door_of_view (d := d) (congrArg View.doors h :)
    · exact .same same
    · exact .requeued hn state again demand (same ▸ hr)
  | reached hn _ _ _ _ => exact absurd hn closed
  | issued _ h => exact still (congrArg View.doors h :)
  | same h => exact still (congrArg View.doors h :)
  | cleared _ h => exact still (congrArg View.doors h :)
  | placed h => exact still (congrArg View.doors h :)
  | passed h => exact still (congrArg View.doors h :)
  | dropped _ h => exact still (congrArg View.doors h :)
  | unreserved _ h => exact still (congrArg View.doors h :)
  | claimed _ _ h => exact still (congrArg View.doors h :)
  | floors _ _ h => exact still (congrArg View.doors h :)
  | started _ _ _ _ h => exact still (congrArg View.doors h :)
  | ended _ _ _ _ h => exact still (congrArg View.doors h :)
  | gaveUp _ _ _ _ h => exact still (congrArg View.doors h :)
  | taken _ _ _ _ _ h => exact still (congrArg View.doors h :)
  | displaced _ _ _ _ _ _ _ _ h => exact still (congrArg View.doors h :)

/-- What a small step can make of the doors queued and of the claims, while neither RGC's phases nor a shed reach them:
a door is queued anew, the queued doors are placed, the queue is cleared, a program places or returns its claim. -/
inductive ClaimMove (n : Reaching) (w v : Work) : Prop
  | same (toPlace : v.toPlace = w.toPlace) (has : ∀ who, v.lbu.has who = w.lbu.has who)
  | requeued (hn : n.settles) (d : Nat) (state : (w.door d).state = .relocking) (again : (w.door d).reRequest = true)
      (toPlace : v.toPlace = w.toPlace ++ [d]) (lbu : v.lbu = w.lbu)
  | placed (toPlace : v.toPlace = []) (lbu : v.lbu = w.placing)
  | cleared (hn : n.ends) (toPlace : v.toPlace = []) (lbu : v.lbu = w.lbu)
  | dropped (k : ProgramKind) (toPlace : v.toPlace = w.toPlace) (lbu : v.lbu = w.lbu.drop (.program k))
  | claimed (k : ProgramKind) (hn : n.turn k) (toPlace : v.toPlace = w.toPlace)
      (lbu : v.lbu = w.lbu.place (.program k) (programLevel k) (channelCost w.map))

theorem Micro.claims (m : Micro n w v) (closed : ¬ n.doors) : ClaimMove n w v := by
  have still {y : View} (h : v.view = y) (toPlace : y.toPlace = w.toPlace) (lbu : y.lbu = w.lbu) : ClaimMove n w v :=
    .same ((congrArg View.toPlace h :).trans toPlace) fun who => by rw [show v.lbu = w.lbu from (congrArg View.lbu h).trans lbu]
  cases m with
  | granted k waits h =>
    subst h
    obtain ⟨-, toPlace, -, -, -, -, same | dropped, -⟩ := w.programGranted_view waits
    · exact .same toPlace fun who => by rw [same]
    · exact .dropped k toPlace dropped
  | stopped k why for_ _ _ h =>
    subst h
    exact still (w.view_stopProgram k why for_) rfl rfl
  | requeued hn x r state again demand hr h =>
    exact .requeued hn x state again (congrArg View.toPlace h :) (congrArg View.lbu h :)
  | placed h => exact .placed (congrArg View.toPlace h :) (congrArg View.lbu h :)
  | passed h =>
    refine .same (congrArg View.toPlace h :) fun who => ?_
    rw [show v.lbu = _ from congrArg View.lbu h]
    exact Lbu.has_pass _ _ _
  | cleared hn h => exact .cleared hn (congrArg View.toPlace h :) (congrArg View.lbu h :)
  | dropped k h => exact .dropped k (congrArg View.toPlace h :) (congrArg View.lbu h :)
  | claimed k hn h => exact .claimed k hn (congrArg View.toPlace h :) (congrArg View.lbu h :)
  | reached hn _ _ _ _ => exact absurd hn closed
  | compared _ _ _ h => exact still h rfl rfl
  | advanced _ _ _ h => exact still h rfl rfl
  | issued _ h => exact still h rfl rfl
  | same h => exact still h rfl rfl
  | unreserved _ h => exact still h rfl rfl
  | floors _ _ h => exact still h rfl rfl
  | started _ _ _ _ h => exact still h rfl rfl
  | ended _ _ _ _ h => exact still h rfl rfl
  | gaveUp _ _ _ _ h => exact still h rfl rfl
  | taken _ _ _ _ _ h => exact still h rfl rfl
  | displaced _ _ _ _ _ _ _ _ h => exact still h rfl rfl

/-! ## A door through the settling of an event -/

/-- A property of a door's record that the comparison of its strike, a grant and a confirmation keep. -/
structure Door.Lasts (P : Door → Prop) : Prop where
  compared : ∀ {o r : Door}, P o → o.Compared r → P r
  advanced : ∀ {o r : Door}, P o → o.Advances r → P r

section
variable {a : Work} {P : Door → Prop} {d : Nat}

theorem Micro.door_lasts (m : Micro n w v) (lasts : Door.Lasts P) (closed : ¬ n.doors) (h : P (w.door d))
    (still : n.settles → (w.door d).state = .relocking → (w.door d).reRequest = false) : P (v.door d) := by
  obtain same | compared | advanced | ⟨hn, state, again⟩ := m.door closed d
  · rw [same]; exact h
  · exact lasts.compared h compared
  · exact lasts.advanced h advanced
  · rw [still hn state] at again; cases again

/-- A door that has no claim and is not queued gets none. -/
theorem Runs.door_unclaimed (h : Runs n a w) (lasts : Door.Lasts P) (closed : ¬ n.doors)
    (still : n.settles → ∀ o, P o → o.state = .relocking → o.reRequest = false)
    (ha : P (a.door d) ∧ a.lbu.has (.door d) = false ∧ d ∉ a.toPlace) :
    P (w.door d) ∧ w.lbu.has (.door d) = false ∧ d ∉ w.toPlace := by
  refine h.keeps (P := fun u => P (u.door d) ∧ u.lbu.has (.door d) = false ∧ d ∉ u.toPlace) (fun u v m hu => ?_) ha
  obtain ⟨record, unclaimed, unqueued⟩ := hu
  refine ⟨m.door_lasts lasts closed record fun hn => still hn _ record, ?_⟩
  cases m.claims closed with
  | same toPlace has => exact ⟨(has _).trans unclaimed, toPlace ▸ unqueued⟩
  | requeued hn x state again toPlace lbu =>
    refine ⟨lbu ▸ unclaimed, fun queued => ?_⟩
    rw [toPlace] at queued
    obtain before | now := List.mem_append.mp queued
    · exact unqueued before
    · obtain rfl := List.mem_singleton.mp now
      rw [still hn _ record state] at again; cases again
  | placed toPlace lbu =>
    refine ⟨?_, by rw [toPlace]; exact List.not_mem_nil⟩
    rw [lbu, placing_has_ne]
    · exact unclaimed
    · rintro x hx ⟨⟩; exact unqueued hx
  | cleared _ toPlace lbu => exact ⟨lbu ▸ unclaimed, by rw [toPlace]; exact List.not_mem_nil⟩
  | dropped k toPlace lbu => exact ⟨by rw [lbu, Lbu.has_drop, unclaimed, Bool.and_false], toPlace ▸ unqueued⟩
  | claimed k _ toPlace lbu =>
    refine ⟨?_, toPlace ▸ unqueued⟩
    rw [lbu, Lbu.has_place_ne _ (by rintro ⟨⟩)]; exact unclaimed

/-- A door that has a claim keeps it. -/
theorem Runs.door_claimed (h : Runs n a w) (lasts : Door.Lasts P) (closed : ¬ n.doors)
    (still : ∀ o, P o → o.state = .relocking → o.reRequest = false) (ha : P (a.door d) ∧ a.lbu.has (.door d) = true) :
    P (w.door d) ∧ w.lbu.has (.door d) = true := by
  refine h.keeps (P := fun u => P (u.door d) ∧ u.lbu.has (.door d) = true) (fun u v m hu => ?_) ha
  obtain ⟨record, claimed⟩ := hu
  refine ⟨m.door_lasts lasts closed record fun _ => still _ record, ?_⟩
  cases m.claims closed with
  | same toPlace has => exact (has _).trans claimed
  | requeued hn x state again toPlace lbu => rw [lbu]; exact claimed
  | placed toPlace lbu => rw [lbu]; exact placing_has_mono _ claimed
  | cleared _ toPlace lbu => rw [lbu]; exact claimed
  | dropped k toPlace lbu => rw [lbu, Lbu.has_drop, claimed]; rfl
  | claimed k _ toPlace lbu => rw [lbu]; exact Lbu.has_place_mono claimed _ _ _

/-- A door that is queued stays so until it is placed. -/
theorem Runs.door_queued (h : Runs n a w) (lasts : Door.Lasts P) (closed : ¬ n.doors) (open_ : ¬ n.ends) (bound : d < 64)
    (still : ∀ o, P o → o.state = .relocking → o.reRequest = false)
    (ha : P (a.door d) ∧ (a.lbu.has (.door d) = true ∨ d ∈ a.toPlace)) :
    P (w.door d) ∧ (w.lbu.has (.door d) = true ∨ d ∈ w.toPlace) := by
  refine h.keeps (P := fun u => P (u.door d) ∧ (u.lbu.has (.door d) = true ∨ d ∈ u.toPlace)) (fun u v m hu => ?_) ha
  obtain ⟨record, queued⟩ := hu
  refine ⟨m.door_lasts lasts closed record fun _ => still _ record, ?_⟩
  cases m.claims closed with
  | same toPlace has => exact queued.imp (fun h => (has _).trans h) fun h => toPlace ▸ h
  | requeued hn x state again toPlace lbu =>
    exact queued.imp (fun h => lbu ▸ h) fun h => by rw [toPlace]; exact List.mem_append_left _ h
  | placed toPlace lbu =>
    rw [lbu]
    exact .inl (queued.elim (placing_has_mono _) (placing_has_self _ bound))
  | cleared hn _ _ => exact absurd hn open_
  | dropped k toPlace lbu =>
    exact queued.imp (fun h => by rw [lbu, Lbu.has_drop, h]; rfl) fun h => toPlace ▸ h
  | claimed k _ toPlace lbu =>
    exact queued.imp (fun h => by rw [lbu]; exact Lbu.has_place_mono h _ _ _) fun h => toPlace ▸ h

end

end Sys2Proof.Machine
end

section
/-! PROOFS. Chapter 4: the manual release of a door (R76) and its disablement and return (R78, R79). -/

namespace Sys2Proof.Machine

/-! ## Records that last -/

theorem Door.Enters.manual {o r : Door} {st : DoorState} (h : o.Enters st r) : r.manual = o.manual :=
  (congrArg Door.manual h :)

theorem Door.Enters.state {o r : Door} {st : DoorState} (h : o.Enters st r) : r.state = st :=
  (congrArg Door.state h :)

theorem Door.lasts_manual (m : Bool) : Door.Lasts fun o => o.manual = m where
  compared h c := by cases c <;> exact h
  advanced h c := by
    cases c with
    | releasing _ e => exact e.manual.trans h
    | released _ e => exact e.manual.trans h
    | locked _ e => exact e.manual.trans h

/-- R78: the record of a door out of service. -/
def Door.OutOfService (m : Bool) (o : Door) : Prop :=
  o.state = .disabled ∧ o.manual = m ∧ o.reRequest = false ∧ o.mismatch = 0 ∧ o.faulted = false

theorem Door.lasts_outOfService (m : Bool) : Door.Lasts (Door.OutOfService m) where
  compared := by
    rintro o r ⟨state, manual, again, mismatch, faulted⟩ c
    cases c with
    | met => exact ⟨state, manual, again, mismatch, faulted⟩
    | holds => exact ⟨state, manual, again, mismatch, faulted⟩
    | sent => exact ⟨state, manual, again, rfl, faulted⟩
  advanced := by
    rintro o r ⟨state, -⟩ c
    cases c with
    | releasing h => rw [state] at h; cases h
    | released h => rw [state] at h; cases h
    | locked h => rw [state] at h; cases h

/-- R68: the record of a door that is queued, being released, or released. -/
def Door.OnRelease (m : Bool) (o : Door) : Prop := o.manual = m ∧ o.state ∈ [.releasePending, .releasing, .released]

theorem Door.lasts_onRelease (m : Bool) : Door.Lasts (Door.OnRelease m) where
  compared := by
    rintro o r ⟨manual, state⟩ c
    cases c <;> exact ⟨manual, state⟩
  advanced := by
    rintro o r ⟨manual, state⟩ c
    cases c with
    | releasing _ e => exact ⟨e.manual.trans manual, by rw [e.state]; decide⟩
    | released _ e => exact ⟨e.manual.trans manual, by rw [e.state]; decide⟩
    | locked h => rw [h] at state; exact absurd state (by decide)

theorem Door.OnRelease.not_relocking {m : Bool} {o : Door} (h : o.OnRelease m) : o.state ≠ .relocking := by
  intro state
  have listed := h.2
  rw [state] at listed
  exact absurd listed (by decide)

/-- The record of a door that is locked. -/
def Door.Shut (m : Bool) (o : Door) : Prop := o.manual = m ∧ o.state = .locked

theorem Door.lasts_shut (m : Bool) : Door.Lasts (Door.Shut m) where
  compared := by
    rintro o r ⟨manual, state⟩ c
    cases c <;> exact ⟨manual, state⟩
  advanced := by
    rintro o r ⟨-, state⟩ c
    cases c with
    | releasing h => rw [state] at h; cases h
    | released h => rw [state] at h; cases h
    | locked h => rw [state] at h; cases h

/-! ## A change of state -/

section
variable (w : Work) (d : Nat) (st : DoorState)

theorem Work.setDoorState_enters (bound : d < 64) : (w.door d).Enters st ((w.setDoorState d st).door d) := by
  by_cases same : (w.door d).state = st
  · rw [Work.setDoorState, if_pos same]
    unfold Door.Enters
    rw [← same]
  · obtain ⟨r, enters, view⟩ := Work.view_setDoorState same
    have record : (w.setDoorState d st).door d = r := by
      rw [State.door, show (w.setDoorState d st).doors = _ from congrArg View.doors view]
      exact vget_vset_self _ _ _ _ bound
    rw [record]; exact enters

theorem Work.setDoorState_rest : (w.setDoorState d st).lbu = w.lbu ∧ (w.setDoorState d st).toPlace = w.toPlace := by
  by_cases same : (w.door d).state = st
  · rw [Work.setDoorState, if_pos same]; exact ⟨rfl, rfl⟩
  · obtain ⟨r, -, view⟩ := Work.view_setDoorState same
    exact ⟨(congrArg View.lbu view :), (congrArg View.toPlace view :)⟩

end

/-! ## A door queued and placed in one event (R68) -/

/-- R68: the settling of an event places the claim of a door that the event has queued. -/
theorem Work.settle_claims {q : Work} {P : Door → Prop} {d : Nat} (bound : d < 64) (lasts : Door.Lasts P)
    (still : ∀ o, P o → o.state = .relocking → o.reRequest = false) (record : P (q.door d))
    (queued : q.lbu.has (.door d) = true ∨ d ∈ q.toPlace) :
    P (q.settle.door d) ∧ q.settle.lbu.has (.door d) = true := by
  by_cases still_ : (q.moved.isEmpty && q.toPlace.isEmpty) = true
  · obtain ⟨-, empty⟩ := Bool.and_eq_true_iff.mp still_
    have claimed := queued.resolve_right fun h => by simp [List.isEmpty_iff.mp empty] at h
    exact (Runs.settle (n := {}) (.refl q) trivial).door_claimed lasts id still ⟨record, claimed⟩
  obtain ⟨s, hs⟩ : ∃ s, s = q.moved.foldl Work.settleDoor q.noneMoved := ⟨_, rfl⟩
  have runs : Runs { ends := False } q s := by
    rw [hs]
    exact .foldl _ ((Runs.refl q).same rfl) fun _ d h => h.settleDoor trivial d
  obtain ⟨record', queued'⟩ := runs.door_queued lasts id id bound still ⟨record, queued⟩
  have placed : P (s.placeDoors.door d) ∧ s.placeDoors.lbu.has (.door d) = true := by
    unfold Work.placeDoors
    by_cases empty : s.toPlace.isEmpty = true
    · rw [if_pos empty]
      exact ⟨record', queued'.resolve_right fun h => by simp [List.isEmpty_iff.mp empty] at h⟩
    · rw [if_neg empty]
      have pass : Runs {} ((s.setLbu s.placing).noneToPlace) ((s.setLbu s.placing).noneToPlace.runPass) :=
        (Runs.refl _).runPass
      exact pass.door_claimed lasts id still ⟨record', queued'.elim (placing_has_mono s) (placing_has_self s bound)⟩
  have rest : Runs {} s.placeDoors q.settle := by
    have first : q.settleDoors settleBound = Work.settleDoors 5 s.placeDoors := by
      rw [hs]; exact if_neg still_
    unfold Work.settle
    rw [first]
    exact (Runs.settleDoors trivial 5 (.refl _)).settleJoins
  exact rest.door_claimed lasts id still placed

/-- R68: a door that a request has queued has its claim placed, and is on its way. -/
theorem Work.queueDoor_endEvent {w : Work} {d : Nat} {m : Bool} (bound : d < 64)
    (manual : (w.door d).manual = m) :
    ((w.queueDoor d).endEvent.door d).OnRelease m ∧ (w.queueDoor d).endEvent.lbu.has (.door d) = true := by
  have enters := w.setDoorState_enters d .releasePending bound
  have record : ((w.queueDoor d).door d).OnRelease m :=
    ⟨enters.manual.trans manual, by
      rw [show ((w.queueDoor d).door d).state = .releasePending from enters.state]; decide⟩
  have queued : d ∈ (w.queueDoor d).toPlace := List.mem_append_right _ (List.mem_singleton.mpr rfl)
  have still : ∀ o : Door, o.OnRelease m → o.state = .relocking → o.reRequest = false :=
    fun o h state => absurd state h.not_relocking
  have settled := Work.settle_claims bound (Door.lasts_onRelease m) still record (.inr queued)
  have rest : Runs {} (w.queueDoor d).settle (w.queueDoor d).endEvent :=
    (Runs.refl _).postDoors.postPrograms.postCars.settled trivial
  exact rest.door_claimed (Door.lasts_onRelease m) id still settled

theorem Runs.door_lasts {n : Reaching} {a w : Work} {P : Door → Prop} {d : Nat} (h : Runs n a w) (lasts : Door.Lasts P)
    (closed : ¬ n.doors) (still : ∀ o, P o → o.state = .relocking → o.reRequest = false) (ha : P (a.door d)) :
    P (w.door d) :=
  h.keeps (P := fun u => P (u.door d)) (fun _ _ m hu => m.door_lasts lasts closed hu fun _ => still _ hu) ha

theorem Door.Shut.not_relocking {m : Bool} {o : Door} (h : o.Shut m) : o.state ≠ .relocking := by
  rw [h.2]; decide

theorem Work.tryQueue_queues {w : Work} {d : Nat} (locked : (w.door d).state = .locked) (demand : w.doorDemand d ≠ none)
    (heard : w.nodeLost (.floor (d / 2)) = false) (present : doorPresent w.map d = true) : w.tryQueue d = w.queueDoor d :=
  if_pos (by simp [locked, Option.isSome_iff_ne_none.mpr demand, heard, present])

theorem Work.tryQueue_stays {w : Work} {d : Nat} (h : w.doorDemand d = none ∨ w.nodeLost (.floor (d / 2)) = true) :
    w.tryQueue d = w := by
  refine if_neg fun queues => ?_
  simp only [Bool.and_eq_true, Bool.not_eq_true'] at queues
  obtain ⟨⟨⟨-, demand⟩, heard⟩, -⟩ := queues
  obtain none | lost := h
  · simp [none] at demand
  · simp [lost] at heard

/-! ## DOOR_RELEASE (R76) -/

section
variable {w : Work} {d : Nat}

theorem doorReleaseRule_running (h : w.rgc.state ≠ .quiet) : doorReleaseRule w d = ⟨w, .refusedState, []⟩ := if_pos h

theorem doorReleaseRule_released (quiet : w.rgc.state = .quiet) (manual : (w.door d).manual = true) :
    doorReleaseRule w d = ⟨w, .ok, []⟩ := by
  rw [doorReleaseRule, if_neg (not_not_intro quiet), Work.releaseDoor, if_pos manual]

theorem doorReleaseRule_releases (quiet : w.rgc.state = .quiet) :
    doorReleaseRule w d = ⟨w.releaseDoor d, .ok, []⟩ := if_neg (not_not_intro quiet)

/-- R76: a door's manual release set. -/
def Work.setManual (w : Work) (d : Nat) : Work := w.setDoor d { w.door d with manual := true }

theorem Work.door_setManual (bound : d < 64) : (w.setManual d).door d = { w.door d with manual := true } :=
  w.setDoor_door_self d _ bound

theorem Work.doorDemand_setManual (bound : d < 64) : (w.setManual d).doorDemand d ≠ none := fun none => by
  have manual := ((State.doorDemand_eq_none _ d).mp none).2
  rw [Work.door_setManual bound] at manual
  cases manual

theorem Work.releaseDoor_locked (bound : d < 64) (manual : (w.door d).manual = false) (state : (w.door d).state = .locked) :
    w.releaseDoor d = ((w.setManual d).tryQueue d).endEvent := by
  have record : ((w.setDoor d { w.door d with manual := true }).door d).state = .locked := by
    rw [w.setDoor_door_self d _ bound]; exact state
  unfold Work.releaseDoor
  rw [if_neg (by simp [manual])]
  dsimp only
  split
  next => rfl
  next relocking => rw [record] at relocking; cases relocking
  next other _ => exact absurd record other

theorem Work.releaseDoor_relocking (bound : d < 64) (manual : (w.door d).manual = false)
    (state : (w.door d).state = .relocking) :
    w.releaseDoor d = ((w.setManual d).setDoor d { (w.setManual d).door d with reRequest := true }).endEvent := by
  have record : ((w.setDoor d { w.door d with manual := true }).door d).state = .relocking := by
    rw [w.setDoor_door_self d _ bound]; exact state
  unfold Work.releaseDoor
  rw [if_neg (by simp [manual])]
  dsimp only
  split
  next locked => rw [record] at locked; cases locked
  next => rfl
  next _ other => exact absurd record other

theorem Work.releaseDoor_other (bound : d < 64) (manual : (w.door d).manual = false)
    (state : (w.door d).state ∉ [.locked, .relocking]) : w.releaseDoor d = w.setManual d := by
  have record : ((w.setDoor d { w.door d with manual := true }).door d).state = (w.door d).state := by
    rw [w.setDoor_door_self d _ bound]
  unfold Work.releaseDoor
  rw [if_neg (by simp [manual])]
  dsimp only
  rw [record]
  split
  next locked => simp [locked] at state
  next relocking => simp [relocking] at state
  next => rfl

/-! ## DOOR_DISABLE (R78) -/

theorem Work.resting_of_disable (idle : w.idle) (bound : d < 64) (state : (w.door d).state ≠ .disabled) :
    let t := w.disableDoor d
    (t.door d).OutOfService (w.door d).manual ∧ t.lbu.has (.door d) = false := by
  intro t
  obtain ⟨-, -, unqueued, -⟩ := idle
  have dropped : (w.dropClaim (.door d)).lbu.has (.door d) = false := by
    rw [show (w.dropClaim (.door d)).lbu = _ from congrArg View.lbu (w.view_dropClaim (.door d))]
    show (w.lbu.drop (.door d)).has _ = false
    rw [Lbu.has_drop]; simp
  have same : (w.dropClaim (.door d)).door d = w.door d ∧ (w.dropClaim (.door d)).toPlace = [] := by
    have view := w.view_dropClaim (.door d)
    exact ⟨congrArg (fun t : View => vget t.doors d Door.reset) view, (congrArg View.toPlace view :).trans unqueued⟩
  have returning : Runs { settles := False } (w.dropClaim (.door d)) (w.returnClaim (.door d)) := (Runs.refl _).runDuePass
  obtain ⟨manual, unclaimed, apart⟩ := returning.door_unclaimed (Door.lasts_manual (w.door d).manual) id
    (fun h => h.elim) ⟨congrArg Door.manual same.1, dropped, by rw [same.2]; exact List.not_mem_nil⟩
  obtain ⟨r, hr⟩ : ∃ r, r = w.returnClaim (.door d) := ⟨_, rfl⟩
  rw [← hr] at manual unclaimed apart
  have ends : t = ((((r.setDoor d { r.door d with reRequest := false, mismatch := 0, faulted := false }).reportChange
      .strikeMismatch d (r.door d).faulted false).setDoorState d .disabled).report .doorDisabled d true).endEvent := by
    show w.disableDoor d = _
    rw [Work.disableDoor, if_neg state, ← hr]
  obtain ⟨q, hq⟩ : ∃ q, q = (r.setDoor d { r.door d with reRequest := false, mismatch := 0, faulted := false }).reportChange
      .strikeMismatch d (r.door d).faulted false := ⟨_, rfl⟩
  have cleared : q.door d = { r.door d with reRequest := false, mismatch := 0, faulted := false } := by
    rw [hq, Work.reportChange_toState]; exact r.setDoor_door_self d _ bound
  have account : q.lbu = r.lbu ∧ q.toPlace = r.toPlace := by
    rw [hq, Work.reportChange_toState, Work.reportChange_toPlace]; exact ⟨rfl, rfl⟩
  have enters := q.setDoorState_enters d .disabled bound
  obtain ⟨lbu, toPlace⟩ := q.setDoorState_rest d .disabled
  rw [cleared] at enters
  have event : Runs {} (q.setDoorState d .disabled) t := by
    rw [ends, ← hq]
    exact Runs.endEvent (n := {}) ((Runs.refl _).same rfl) trivial trivial
  obtain ⟨record, none, -⟩ := event.door_unclaimed (Door.lasts_outOfService (w.door d).manual) id
    (fun _ o h relocking => by rw [h.1] at relocking; cases relocking)
    ⟨⟨enters.state, enters.manual.trans manual, (congrArg Door.reRequest enters :), (congrArg Door.mismatch enters :),
      (congrArg Door.faulted enters :)⟩, by rw [lbu, account.1]; exact unclaimed, by rw [toPlace, account.2]; exact apart⟩
  exact ⟨record, none⟩

/-! ## DOOR_ENABLE (R79) -/

/-- R79: a disabled door that is LOCKED again, before it is queued. -/
def Work.relocked (w : Work) (d : Nat) : Work := (w.setDoorState d .locked).report .doorDisabled d false

theorem Work.door_relocked (bound : d < 64) :
    ((w.relocked d).door d).state = .locked ∧ ((w.relocked d).door d).manual = (w.door d).manual := by
  have enters := w.setDoorState_enters d .locked bound
  exact ⟨enters.state, enters.manual⟩

end

end Sys2Proof.Machine

namespace Sys2Proof.Claims

open Sys2Proof Sys2Proof.Machine

theorem idle_begin (s : State) : (Work.begin s).idle := ⟨rfl, rfl, rfl, rfl, rfl, rfl, rfl, rfl, rfl, rfl⟩

/-- Settles O39: by the door's state; a LOCKED door that is heard of is queued, and its claim is placed in the event. -/
theorem doorReleaseSetsManual : Obligations.DoorReleaseSetsManual := by
  intro s req n hs body d
  have length : lengthIs 1 req.body = true := by rw [body]; rfl
  have index : byteAt req.body 0 = d := by rw [body]; rfl
  have admitted (present : doorPresent s.map d = true) :
      onDoor doorReleaseRule (Work.begin s) (byteAt req.body 0) = doorReleaseRule (Work.begin s) d := by
    rw [index]; exact onDoor_present present
  refine ⟨fun absent => ?_, fun present running => ?_, fun present quiet manual => ?_, fun present quiet manual => ?_⟩
  · exact congrArg Host.Outcome.next (serve_plain hs length (by rw [index]; exact onDoor_absent absent))
  · exact congrArg Host.Outcome.next
      (serve_plain hs length (by exact (admitted present).trans (doorReleaseRule_running running)))
  · exact congrArg Host.Outcome.next
      (serve_plain hs length (by exact (admitted present).trans (doorReleaseRule_released quiet manual)))
  · have bound : d < 64 := doorPresent_lt present
    have idle := idle_begin s
    obtain ⟨done, supply, doors, lbu⟩ := serve_supplyEvent (rule := fun w body => onDoor doorReleaseRule w (byteAt body 0))
      hs length ((admitted present).trans (doorReleaseRule_releases quiet)) (Leads.releaseDoor d)
    refine ⟨_, rfl, done, supply, ?_⟩
    have door : (s.serveByte 0x2C (onDoor doorReleaseRule)).door d = ((Work.begin s).releaseDoor d).door d :=
      congrArg (fun t => vget t d Door.reset) doors
    have claims : (s.serveByte 0x2C (onDoor doorReleaseRule)).lbu = ((Work.begin s).releaseDoor d).lbu := lbu
    rw [door, claims]
    have record : ((Work.begin s).setManual d).door d = { s.door d with manual := true } := Work.door_setManual bound
    by_cases locked : (s.door d).state = .locked
    · have releases := Work.releaseDoor_locked (w := Work.begin s) bound manual locked
      have shut : (((Work.begin s).setManual d).door d).state = .locked := by rw [record]; exact locked
      have none (st : DoorState) (h : st ≠ .locked) (h' : (s.door d).state = st) : False := h (h'.symm.trans locked)
      cases heard : s.nodeLost (.floor (d / 2)) with
      | false =>
        rw [releases, Work.tryQueue_queues shut (Work.doorDemand_setManual bound) (by exact heard) (by exact present)]
        obtain ⟨released, claimed⟩ := Work.queueDoor_endEvent (w := (Work.begin s).setManual d) (d := d) (m := true) bound
          (by rw [record])
        exact ⟨released.1, fun _ _ => ⟨claimed, released.2⟩, fun _ h => (by cases h), fun h => (none _ (by decide) h).elim,
          fun h => absurd (by rw [locked]; decide) h⟩
      | true =>
        rw [releases, Work.tryQueue_stays (.inr (by exact heard)), Work.endEvent_idle _ (by exact idle), record]
        exact ⟨rfl, fun _ h => (by cases h), fun _ _ => locked, fun h => (none _ (by decide) h).elim,
          fun h => absurd (by rw [locked]; decide) h⟩
    · by_cases relocking : (s.door d).state = .relocking
      · rw [Work.releaseDoor_relocking bound (by exact manual) (by exact relocking),
          Work.endEvent_idle _ (by exact idle), Work.setDoor_door_self _ _ _ bound, record]
        exact ⟨rfl, fun h => absurd h locked, fun h => absurd h locked, fun _ => rfl,
          fun h => absurd (by rw [relocking]; decide) h⟩
      · rw [Work.releaseDoor_other bound (by exact manual) (by
          show (s.door d).state ∉ _
          simp [locked, relocking]), record]
        exact ⟨rfl, fun h => absurd h locked, fun h => absurd h locked, fun h => absurd h relocking, fun _ => rfl⟩

/-- Settles O41. -/
theorem doorDisableAndEnable : Obligations.DoorDisableAndEnable := by
  intro s req n body d
  have length : lengthIs 1 req.body = true := by rw [body]; rfl
  have index : byteAt req.body 0 = d := by rw [body]; rfl
  have admitted (rule : Work → Nat → Answer) (present : doorPresent s.map d = true) :
      onDoor rule (Work.begin s) (byteAt req.body 0) = rule (Work.begin s) d := by
    rw [index]; exact onDoor_present present
  refine ⟨fun hs => ⟨fun absent => ?_, fun present disabled => ?_, fun present enabled => ?_⟩,
    fun hs => ⟨fun absent => ?_, fun present enabled => ?_, fun present disabled => ?_⟩⟩
  · exact congrArg Host.Outcome.next (serve_plain (rule := fun w body => onDoor doorDisableRule w (byteAt body 0)) hs length
      (by rw [index]; exact onDoor_absent absent))
  · refine congrArg Host.Outcome.next (serve_plain (rule := fun w body => onDoor doorDisableRule w (byteAt body 0)) hs length ?_)
    rw [admitted _ present, doorDisableRule, Work.disableDoor, if_pos (by exact disabled)]
  · have bound : d < 64 := doorPresent_lt present
    obtain ⟨done, supply, doors, lbu⟩ := serve_supplyEvent (rule := fun w body => onDoor doorDisableRule w (byteAt body 0))
      hs length (admitted _ present) (doorDisable_leads d)
    obtain ⟨⟨state, manual, again, mismatch, faulted⟩, unclaimed⟩ :=
      Work.resting_of_disable (w := Work.begin s) (idle_begin s) bound enabled
    refine ⟨_, rfl, done, supply, ?_⟩
    have door : (s.serveByte 0x2E (onDoor doorDisableRule)).door d = ((Work.begin s).disableDoor d).door d :=
      congrArg (fun t => vget t d Door.reset) doors
    rw [door]
    exact ⟨state, manual, again, mismatch, faulted, (congrArg (fun l : Lbu => l.has (.door d)) lbu).trans unclaimed⟩
  · exact congrArg Host.Outcome.next (serve_plain (rule := fun w body => onDoor doorEnableRule w (byteAt body 0)) hs length
      (by rw [index]; exact onDoor_absent absent))
  · refine congrArg Host.Outcome.next (serve_plain (rule := fun w body => onDoor doorEnableRule w (byteAt body 0)) hs length ?_)
    rw [admitted _ present, doorEnableRule, Work.enableDoor, if_neg (by exact enabled)]
  · have bound : d < 64 := doorPresent_lt present
    obtain ⟨done, supply, doors, lbu⟩ := serve_supplyEvent (rule := fun w body => onDoor doorEnableRule w (byteAt body 0))
      hs length (admitted _ present) (doorEnable_leads d)
    have enables : (Work.begin s).enableDoor d = (((Work.begin s).relocked d).tryQueue d).endEvent :=
      if_pos (by exact disabled)
    obtain ⟨locked, manual⟩ := Work.door_relocked (w := Work.begin s) bound
    have kept : ((Work.begin s).relocked d).rgc = s.rgc ∧ ((Work.begin s).relocked d).rbm = s.rbm ∧
        ((Work.begin s).relocked d).map = s.map := by
      obtain ⟨-, same⟩ | ⟨r, -, -, same, -⟩ := Work.setDoorState_cases (Work.begin s) d .locked
      · rw [Work.relocked, same]; exact ⟨rfl, rfl, rfl⟩
      · exact ⟨(congrArg State.rgc same :), (congrArg State.rbm same :), (congrArg State.map same :)⟩
    obtain ⟨rgc, rbm, map⟩ := kept
    have demand : ((Work.begin s).relocked d).doorDemand d = s.doorDemand d := by
      unfold State.doorDemand State.floor
      rw [rgc, manual]
      rfl
    have heard : ((Work.begin s).relocked d).nodeLost (.floor (d / 2)) = s.nodeLost (.floor (d / 2)) := by
      unfold State.nodeLost State.entryOf
      rw [rbm]
    refine ⟨_, rfl, done, supply, ?_⟩
    have door : (s.serveByte 0x2F (onDoor doorEnableRule)).door d = ((Work.begin s).enableDoor d).door d :=
      congrArg (fun t => vget t d Door.reset) doors
    have claims : (s.serveByte 0x2F (onDoor doorEnableRule)).lbu = ((Work.begin s).enableDoor d).lbu := lbu
    rw [door, claims, enables]
    by_cases queues : s.doorDemand d ≠ none ∧ s.nodeLost (.floor (d / 2)) = false
    · obtain ⟨demanded, present'⟩ := queues
      rw [Work.tryQueue_queues locked (by rwa [demand]) (by rwa [heard]) (by rwa [map])]
      obtain ⟨released, claimed⟩ := Work.queueDoor_endEvent (w := (Work.begin s).relocked d) bound manual
      refine ⟨released.1, fun stays => ?_, fun _ _ => ⟨claimed, released.2⟩⟩
      obtain none | lost := stays
      · exact absurd none demanded
      · rw [present'] at lost; cases lost
    · have stays : s.doorDemand d = none ∨ s.nodeLost (.floor (d / 2)) = true := by
        by_cases none : s.doorDemand d = none
        · exact .inl none
        · exact .inr (by simpa using fun h => queues ⟨none, h⟩)
      rw [Work.tryQueue_stays (by rwa [demand, heard])]
      have event : Runs { } ((Work.begin s).relocked d) ((Work.begin s).relocked d).endEvent :=
        (Runs.refl _).endEvent trivial trivial
      obtain ⟨manual', state'⟩ := event.door_lasts (Door.lasts_shut (s.door d).manual) id
        (fun o h relocking => absurd relocking h.not_relocking) ⟨manual, locked⟩
      exact ⟨manual', fun _ => state', fun demanded present' => absurd ⟨demanded, present'⟩ queues⟩

end Sys2Proof.Claims
end

section
/-! PROOFS. Chapter 6: the recomputation of the floor sets (R110) and the arbiter (R113, R114) as runs of small steps. -/

namespace Sys2Proof.Machine

variable {n : Reaching} {a w : Work}

/-! ## The recomputation (R110) -/

theorem Runs.releaseReservation (h : Runs n a w) (k) : Runs n a (w.releaseReservation k) := by
  unfold Work.releaseReservation
  split
  next c reserved =>
    have released : Runs n a ((w.setChannel c { w.channel c with reservedFor := none }).markProgram k) :=
      (h.step (.unreserved c rfl)).markProgram k
    dsimp only
    split
    · exact released.markProgram _
    · exact released
  next => exact h

theorem Runs.setProgram (h : Runs n a w) {k : ProgramKind} {r : Program}
    (step : ∀ v : Work, v.view = { w.view with programs := vset w.ans.programs k.priority r } → Micro n w v) :
    Runs n a (w.setProgram k r) := h.step (step _ (w.view_setProgram k r))

/-- R110: a program without floors gives its channel up. -/
theorem Work.view_free (w v : Work) (c : Nat) (channels : v.ans.channels = w.ans.channels) :
    (v.setChannel c (v.channel c).freed).view = { v.view with channels := vset w.ans.channels c (w.channel c).freed } := by
  rw [Work.view_setChannel, channels,
    show v.channel c = w.channel c from congrArg (fun t => vget t c Channel.reset) channels]

theorem Runs.emptyProgram (h : Runs n a w) {k : ProgramKind} (hn : n.recomputes k) (empty : (w.program k).floorSet = 0) :
    Runs n a (w.emptyProgram k (n.why k)) := by
  unfold Work.emptyProgram
  dsimp only
  split
  next => exact h
  next waits => exact (h.setProgram fun v view => .ended k hn waits empty view).releaseReservation k
  next waits =>
    refine Runs.returnProgram (h.step (.gaveUp k hn waits empty ?_)) k
    have ended := w.view_setProgram k ((w.program k).ended k (n.why k))
    obtain ⟨v, hv⟩ : ∃ v, v = w.setProgram k ((w.program k).ended k (n.why k)) := ⟨_, rfl⟩
    rw [← hv] at ended ⊢
    unfold Work.channelsFreed
    cases (w.program k).channel with
    | none => exact ended
    | some c => exact (w.view_free v c (congrArg View.channels ended :)).trans (by rw [ended])
  next playing => exact (h.step (.stopped k _ none playing (.emptied hn empty) rfl)).returnProgram k
  next => exact h

theorem Runs.recomputeProgram (h : Runs n a w) {k : ProgramKind} (hn : n.recomputes k) :
    Runs n a (w.recomputeProgram n.why k) := by
  unfold Work.recomputeProgram
  dsimp only
  have floors : Runs n a (w.setProgram k { w.program k with floorSet := w.floorSetOf k }) :=
    h.setProgram fun v view => .floors k hn view
  have record := w.setProgram_program_self k { w.program k with floorSet := w.floorSetOf k }
  generalize (decide ((w.program k).state = .playing)) = b
  obtain ⟨u, hu⟩ : ∃ u, u = (w.setProgram k { w.program k with floorSet := w.floorSetOf k }).oweJoins b := ⟨_, rfl⟩
  have floors : Runs n a u := by rw [hu]; exact floors.oweJoins b
  have record : u.program k = { w.program k with floorSet := w.floorSetOf k } := by rw [hu]; exact record
  rw [← hu]
  refine .ite h ?_
  split
  next empty => exact floors.emptyProgram hn (by rw [record]; exact empty)
  next some =>
    split
    next idle =>
      exact floors.setProgram fun v view => .started k hn (by rw [record]; exact idle) (by rw [record]; exact some) view
    next => exact floors

/-! ## The arbiter (R113, R114) -/

theorem Runs.takeChannel (h : Runs n a w) {k : ProgramKind} (hn : n.turn k)
    (waits : (w.program k).state = .waitingChannel) {c : Nat} (sound : (w.channel c).state ≠ .faulted) :
    Runs n a (w.takeChannel k c) := by
  refine Runs.placeProgram (h.step (.taken k c hn waits sound ?_)) k hn
  rw [Work.view_setProgram]
  rfl

theorem Channel.Move.sound {u : Work} {c : Nat} {r : Channel} (m : Channel.Move n u c r)
    (h : (u.channel c).state ≠ .faulted) : r.state ≠ .faulted := by
  cases m with
  | cued _ _ _ _ hr => rw [show r.state = _ from (congrArg Channel.state hr :)]; exact h
  | completed => exact ChannelState.noConfusion
  | stopped => exact ChannelState.noConfusion
  | freed => exact ChannelState.noConfusion
  | unreserved => exact h
  | taken => exact ChannelState.noConfusion

/-- No small step makes a channel FAULTED. -/
theorem Runs.sound (h : Runs n a w) {c : Nat} (sound : (a.channel c).state ≠ .faulted) :
    (w.channel c).state ≠ .faulted :=
  h.keeps (P := fun u => (u.channel c).state ≠ .faulted) (fun u v m hu => by
    obtain same | moved := m.channel c
    · rw [same]; exact hu
    · exact moved.sound hu) sound

/-- A program in another state than WAITING_BUDGET stays as it is through a pass. -/
theorem Runs.bystander {k : ProgramKind} (h : Runs {} a w) (other : (a.program k).state ≠ .waitingBudget) :
    w.program k = a.program k :=
  h.keeps (P := fun u => u.program k = a.program k) (fun u v m hu => by
    obtain same | moved := m.program k
    · exact same.trans hu
    · generalize v.program k = r at moved
      have other : (u.program k).state ≠ .waitingBudget := by rw [hu]; exact other
      cases moved with
      | onward waits => exact absurd waits other
      | completed waits => exact absurd waits other
      | stopped _ _ _ reason => cases reason with
        | emptied no => exact no.elim
        | preempted _ no => exact no.elim
        | shed no => exact no.elim
      | floors no => exact no.elim
      | started no => exact no.elim
      | ended no => exact no.elim
      | taken no => exact no.elim
      | displaced _ no => exact no.elim) rfl

theorem Runs.preempt (h : Runs n a w) {k j : ProgramKind} (hn : n.turn k) (lower : k.priority < j.priority)
    (waits : (w.program k).state = .waitingChannel) {c : Nat} (held : (w.channel c).state = .held)
    (holder : (w.channel c).holder = some j) : Runs n a (w.preempt k c j) := by
  unfold Work.preempt
  split
  next playing =>
    exact ((h.step (.stopped j _ (some k) playing (.preempted k hn lower c held holder) rfl)).markProgram k).returnProgram j
  next state =>
    have displaced : Runs n a (w.setProgram j ((w.program j).displaced j)) :=
      h.setProgram fun v view => .displaced k j hn lower state c held holder view
    have other : k ≠ j := fun same => by rw [same] at lower; exact lower.false
    obtain ⟨u, hu⟩ : ∃ u, u = w.setProgram j ((w.program j).displaced j) := ⟨_, rfl⟩
    rw [← hu] at displaced ⊢
    have record : u.program k = w.program k := by rw [hu]; exact w.setProgram_program_ne _ _ _ other.symm
    have channel : u.channel c = w.channel c := by rw [hu, State.channel, Work.setProgram_ans]; rfl
    have pass : Runs {} u (u.returnClaim (.program j)) := (Runs.refl u).returnProgram j
    refine Runs.takeChannel (displaced.returnProgram j) hn ?_ ?_
    · rw [pass.bystander (by rw [record, waits]; decide), record]; exact waits
    · exact pass.sound (by rw [channel, held]; decide)

theorem State.preemptible_holds {s : State} {k j : ProgramKind} {c : Nat} (h : s.preemptible k = some (c, j)) :
    k.priority < j.priority ∧ c < 6 ∧ (s.channel c).state = .held ∧ (s.channel c).holder = some j := by
  obtain ⟨i, listed, found⟩ := List.exists_of_findSome?_eq_some h
  obtain ⟨x, here, same⟩ := Option.map_eq_some_iff.mp found
  injection same with hc hj
  subst hc hj
  have lower := of_decide_eq_true (List.mem_filter.mp listed).2
  have holds := List.find?_some here
  simp only [Bool.and_eq_true, decide_eq_true_eq] at holds
  exact ⟨lower, List.mem_range.mp (List.mem_of_find?_eq_some here), holds⟩

theorem Runs.arbiterTurn (h : Runs n a w) {k : ProgramKind} (hn : n.turn k) : Runs n a (w.arbiterTurn k) := by
  unfold Work.arbiterTurn
  split
  next turn =>
    have waits : (w.program k).state = .waitingChannel := of_decide_eq_true (Bool.and_eq_true_iff.mp turn).1
    split
    next c free =>
      have state : (w.channel c).state = .free := by simpa using List.find?_some free
      exact h.takeChannel hn waits (by rw [state]; decide)
    next =>
      split
      next c j found =>
        obtain ⟨lower, -, held, holder⟩ := State.preemptible_holds found
        exact h.preempt hn lower waits held holder
      next => exact h
  next => exact h

theorem Runs.arbiterTurns (l : List ProgramKind) (hn : ∀ k ∈ l, n.turn k) (h : Runs n a w) :
    Runs n a (l.foldl Work.arbiterTurn w) :=
  List.foldlRecOn (motive := fun v : Work => Runs n a v) _ _ h fun _ hv k hk => hv.arbiterTurn (hn k hk)

theorem Runs.arbiter (h : Runs n a w) (hn : ∀ k, n.turn k) : Runs n a w.arbiter :=
  Runs.arbiterTurns _ (fun k _ => hn k) h

theorem Runs.recomputePrograms (l : List ProgramKind) (hn : ∀ k ∈ l, n.recomputes k) (h : Runs n a w) :
    Runs n a (l.foldl (Work.recomputeProgram n.why) w) :=
  List.foldlRecOn (motive := fun v : Work => Runs n a v) _ _ h fun _ hv k hk => hv.recomputeProgram (hn k hk)

theorem Runs.recompute (h : Runs n a w) (hr : ∀ k, n.recomputes k) (ht : ∀ k, n.turn k) :
    Runs n a (w.recompute n.why) :=
  (Runs.recomputePrograms _ (fun k _ => hr k) h).arbiter ht

end Sys2Proof.Machine
end

section
/-! PROOFS. Chapter 6: what a request on a program makes of that program, through the recomputation of the floor sets, the
arbiter and the rest of the event (R110, R113 to R115, R127 to R129). -/

namespace Sys2Proof.Machine

variable {n : Reaching} {a w v : Work} {k : ProgramKind}

/-! ## A program that no step displaces -/

/-- What a step can make of a program that no program of a higher priority displaces: it takes a channel, and plays. -/
inductive Program.Forward (w : Work) (k : ProgramKind) : Program → Prop
  | onward (waits : (w.program k).state = .waitingBudget) (q) (hq : (w.program k).playing.Onward q)
      (grant : (w.programGranted k).program k = q) : Forward w k q
  | completed (waits : (w.program k).state = .waitingBudget) (other : k ≠ .live) (q) (hq : (w.program k).playing.Onward q)
      (grant : (w.programGranted k).program k = (q.stopped k .completed).emptied) :
      Forward w k (q.stopped k .completed).emptied
  | taken (waits : (w.program k).state = .waitingChannel) (c : Nat) :
      Forward w k { w.program k with state := .waitingBudget, channel := some c }

theorem Micro.forward (m : Micro n w v) (unheard : ¬ n.recomputes k) (unshed : ¬ n.sheds)
    (turns : ∀ j, n.turn j → k.priority ≤ j.priority) :
    v.program k = w.program k ∨ Program.Forward w k (v.program k) := by
  obtain same | moved := m.program k
  · exact .inl same
  generalize v.program k = r at moved
  cases moved with
  | onward waits q hq grant => exact .inr (.onward waits _ hq grant)
  | completed waits _ other q hq grant => exact .inr (.completed waits other q hq grant)
  | taken _ waits c => exact .inr (.taken waits c)
  | stopped _ _ _ reason => cases reason with
    | emptied hn => exact absurd hn unheard
    | preempted j hn lower => exact absurd (turns j hn) (Nat.not_le.mpr lower)
    | shed hn => exact absurd hn unshed
  | floors hn => exact absurd hn unheard
  | started hn => exact absurd hn unheard
  | ended hn => exact absurd hn unheard
  | displaced j hn lower => exact absurd (turns j hn) (Nat.not_le.mpr lower)

/-- What the steps of `Program.Forward` keep of a program's record, a run keeps. -/
theorem Runs.forward (h : Runs n a w) (unheard : ¬ n.recomputes k) (unshed : ¬ n.sheds)
    (turns : ∀ j, n.turn j → k.priority ≤ j.priority) {P : Program → Prop}
    (step : ∀ u r, u.rgc = a.rgc → u.mst = a.mst → P (u.program k) → Program.Forward u k r → P r)
    (ha : P (a.program k)) : P (w.program k) := by
  refine (h.keeps (P := fun u => u.rgc = a.rgc ∧ u.mst = a.mst ∧ P (u.program k)) (fun u v m hu => ?_) ⟨rfl, rfl, ha⟩).2.2
  obtain ⟨rgc, mst, record⟩ := hu
  obtain ⟨-, rgc', mst', -⟩ := m.frame
  refine ⟨rgc'.trans rgc, mst'.trans mst, ?_⟩
  obtain same | forward := m.forward unheard unshed turns
  · rw [same]; exact record
  · exact step u _ rgc mst record forward

/-- A program that waits for nothing, or for a channel while no turn of its own comes, and that holds no channel, stays as
it is. -/
theorem Runs.parked (h : Runs n a w) (unheard : ¬ n.recomputes k) (unturned : ¬ n.turn k)
    (waits : (a.program k).state = .idle ∨ (a.program k).state = .waitingChannel)
    (holders : ∀ c, (a.channel c).holder ≠ some k) :
    w.program k = a.program k ∧ ∀ c, (w.channel c).holder ≠ some k := by
  refine h.keeps (P := fun u => u.program k = a.program k ∧ ∀ c, (u.channel c).holder ≠ some k) (fun u v m hu => ?_)
    ⟨rfl, holders⟩
  obtain ⟨record, holders⟩ := hu
  rw [← record] at waits
  have unplayed : (u.program k).state ≠ .playing := by obtain h | h := waits <;> rw [h] <;> decide
  have unclaimed : (u.program k).state ≠ .waitingBudget := by obtain h | h := waits <;> rw [h] <;> decide
  constructor
  · rw [← record]
    obtain same | moved := m.program k
    · exact same
    generalize v.program k = r at moved
    cases moved with
    | onward waits => exact absurd waits unclaimed
    | completed waits => exact absurd waits unclaimed
    | stopped playing => exact absurd playing unplayed
    | floors hn => exact absurd hn unheard
    | started hn => exact absurd hn unheard
    | ended hn => exact absurd hn unheard
    | taken hn => exact absurd hn unturned
    | displaced _ _ _ _ c _ holder => exact absurd holder (holders c)
  · intro c
    obtain same | moved := m.channel c
    · rw [same]; exact holders c
    generalize v.channel c = r at moved
    have other {j : ProgramKind} (different : j ≠ k) : some j ≠ some k := fun same => different (Option.some.inj same)
    cases moved with
    | cued _ _ _ _ hr => rw [show r.holder = _ from (congrArg Channel.holder hr :)]; exact holders c
    | completed j waits => exact other fun same => unclaimed (same ▸ waits)
    | stopped j playing => exact other fun same => unplayed (same ▸ playing)
    | freed => exact fun same => by cases same
    | unreserved => exact holders c
    | taken j hn => exact other fun same => unturned (same ▸ hn)

/-! ## The recomputation around one program (R110) -/

/-- The programs recomputed before one, the program itself, and those after it. -/
theorem ProgramKind.all_eq (k : ProgramKind) :
    ProgramKind.all = ProgramKind.all.filter (fun j => decide (j.priority < k.priority)) ++
      k :: ProgramKind.all.filter (fun j => decide (k.priority < j.priority)) := by
  cases k <;> rfl

theorem Work.recompute_around (w : Work) (reason : ProgramKind → StopReason) (k : ProgramKind) :
    ∃ u v x, Runs { recomputes := fun j => j.priority < k.priority, why := reason } w u ∧
      Runs { recomputes := fun j => k.priority < j.priority, why := reason } (u.recomputeProgram reason k) v ∧
      Runs { turn := fun j => j.priority < k.priority } v x ∧
      Runs { turn := fun j => k.priority ≤ j.priority } x (w.recompute reason) := by
  have split (f : Work → ProgramKind → Work) (w : Work) := congrArg (fun l => l.foldl f w) (ProgramKind.all_eq k)
  simp only [List.foldl_append, List.foldl_cons] at split
  have lower : ∀ j ∈ ProgramKind.all.filter (fun j => decide (j.priority < k.priority)), j.priority < k.priority :=
    fun j hj => of_decide_eq_true (List.mem_filter.mp hj).2
  have higher : ∀ j ∈ ProgramKind.all.filter (fun j => decide (k.priority < j.priority)), k.priority < j.priority :=
    fun j hj => of_decide_eq_true (List.mem_filter.mp hj).2
  refine ⟨_, _, _, .recomputePrograms (n := { recomputes := _, why := reason }) _ lower (.refl _),
    .recomputePrograms (n := { recomputes := _, why := reason }) _ higher (.refl _), .arbiterTurns _ lower (.refl _), ?_⟩
  unfold Work.recompute Work.arbiter
  rw [split, split]
  exact .arbiterTurns _ (fun j hj => (higher j hj).le) ((Runs.refl _).arbiterTurn (Nat.le_refl _))

/-- R110: a program's record when its floor set has become empty. -/
def Program.whenEmptied (p : Program) (k : ProgramKind) (why : StopReason) : Program :=
  match p.state with
  | .idle => p
  | .waitingChannel => p.ended k why
  | .waitingBudget => p.ended k why
  | .playing => p.stopped k why
  | .stopping => p

theorem Work.program_stopProgram (w : Work) (k : ProgramKind) (why : StopReason) (for_ : Option ProgramKind) :
    (w.stopProgram k why for_).program k = (w.program k).stopped k why :=
  Work.program_of_view_self (congrArg View.programs (w.view_stopProgram k why for_) :)

theorem Program.ended_state (p : Program) (k : ProgramKind) (why : StopReason) : (p.ended k why).state = .idle := by
  unfold Program.ended; dsimp only; split <;> rfl

theorem Program.stopped_state (p : Program) (k : ProgramKind) (why : StopReason) : (p.stopped k why).state = .stopping := by
  unfold Program.stopped; dsimp only; split <;> rfl

theorem Program.ended_stopReason (p : Program) (k : ProgramKind) (why : StopReason) :
    (p.ended k why).stopReason = some why := by
  unfold Program.ended; dsimp only; split <;> rfl

theorem Program.stopped_stopReason (p : Program) (k : ProgramKind) (why : StopReason) :
    (p.stopped k why).stopReason = some why := by
  unfold Program.stopped; dsimp only; split <;> rfl

theorem Work.program_releaseReservation (w : Work) (k j : ProgramKind) :
    (w.releaseReservation k).program j = w.program j := by
  unfold Work.releaseReservation
  split
  · dsimp only
    split <;> rfl
  · rfl

section
variable {p : Program} {why : StopReason}

theorem Program.whenEmptied_of_ended (h : p.state = .waitingChannel ∨ p.state = .waitingBudget) :
    p.whenEmptied k why = p.ended k why := by
  unfold Program.whenEmptied
  obtain h | h := h <;> rw [h]

theorem Program.whenEmptied_of_stopped (h : p.state = .playing) : p.whenEmptied k why = p.stopped k why := by
  unfold Program.whenEmptied; rw [h]

theorem Program.whenEmptied_of_still (h : p.state = .idle ∨ p.state = .stopping) : p.whenEmptied k why = p := by
  unfold Program.whenEmptied
  obtain h | h := h <;> rw [h]

end

theorem Work.program_emptyProgram (w : Work) (k : ProgramKind) (why : StopReason) :
    (w.emptyProgram k why).program k = (w.program k).whenEmptied k why := by
  have ended : (w.setProgram k ((w.program k).ended k why)).program k = (w.program k).ended k why :=
    Work.setProgram_program_self _ _ _
  unfold Work.emptyProgram
  dsimp only
  split
  next state => rw [Program.whenEmptied_of_still (.inl state)]
  next state => rw [Program.whenEmptied_of_ended (.inl state), Work.program_releaseReservation, ended]
  next state =>
    rw [Program.whenEmptied_of_ended (.inr state)]
    obtain ⟨v, hv⟩ : ∃ v, v = w.setProgram k ((w.program k).ended k why) := ⟨_, rfl⟩
    rw [← hv] at ended ⊢
    have returned (u : Work) (same : u.program k = (w.program k).ended k why) :
        (u.returnClaim (.program k)).program k = (w.program k).ended k why :=
      (((Runs.refl u).returnProgram k).bystander (by rw [same, Program.ended_state]; decide)).trans same
    split
    · exact returned _ ended
    · exact returned _ ended
  next state =>
    have stopped := w.program_stopProgram k why none
    rw [Program.whenEmptied_of_stopped state, ← stopped]
    exact ((Runs.refl _).returnProgram k).bystander (by rw [stopped, Program.stopped_state]; decide)
  next state => rw [Program.whenEmptied_of_still (.inr state)]

/-- R110: a program's record after the recomputation of its floor set. -/
def Program.recomputed (p : Program) (k : ProgramKind) (why : StopReason) (floors : FloorSet) : Program :=
  let q : Program := { p with floorSet := floors }
  if floors = p.floorSet then p
  else if floors = 0 then q.whenEmptied k why
  else if p.state = .idle then
    { q with state := .waitingChannel, slot := 0, repeatsLeft := startRepeats k p, played := false, stopReason := none }
  else q

theorem Work.program_recomputeProgram (w : Work) (reason : ProgramKind → StopReason) (k : ProgramKind) :
    (w.recomputeProgram reason k).program k = (w.program k).recomputed k (reason k) (w.floorSetOf k) := by
  unfold Work.recomputeProgram Program.recomputed
  dsimp only
  have record := w.setProgram_program_self k { w.program k with floorSet := w.floorSetOf k }
  generalize (decide ((w.program k).state = .playing)) = b
  obtain ⟨u, hu⟩ : ∃ u, u = (w.setProgram k { w.program k with floorSet := w.floorSetOf k }).oweJoins b := ⟨_, rfl⟩
  have record : u.program k = { w.program k with floorSet := w.floorSetOf k } := by rw [hu]; exact record
  rw [← hu]
  split
  next => rfl
  next =>
    split
    next => rw [u.program_emptyProgram, record]
    next =>
      split
      next =>
        rw [Work.startProgram, u.setProgram_program_self, record]
        cases k <;> rfl
      next => exact record

/-- What the recomputation of a program that starts leaves of the channels. -/
theorem Work.channels_recomputeProgram {w : Work} {reason : ProgramKind → StopReason} (idle : (w.program k).state = .idle)
    (some : w.floorSetOf k ≠ 0) : (w.recomputeProgram reason k).ans.channels = w.ans.channels := by
  unfold Work.recomputeProgram
  dsimp only
  rw [if_neg some]
  split
  · rfl
  · rw [Work.startProgram, Work.setProgram_ans]
    show (w.setProgram k _).ans.channels = _
    rw [Work.setProgram_ans]

/-- R108: a program's floor set is a matter of its given set, the map and the regime. -/
theorem State.floorSetOf_congr {s t : State} (record : t.program k = s.program k) (rgc : t.rgc = s.rgc) (mst : t.mst = s.mst) :
    t.floorSetOf k = s.floorSetOf k := by
  unfold State.floorSetOf State.floor State.map
  rw [record, rgc, mst]

/-! ## A program that starts (R110, R115, R117) -/

theorem Work.program_playPhrase (w : Work) (k : ProgramKind) (x : Nat) :
    (w.playPhrase k x).program k = { w.program k with phraseStarted := some w.uptime, played := true } := by
  have record := w.setProgram_program_self k { w.program k with phraseStarted := some w.uptime, played := true }
  unfold Work.playPhrase
  dsimp only
  split <;> exact record

/-- R117: whether a template's first slot plays or pauses at once. -/
def State.PlaysAtOnce (s : State) (template : Nat) : Prop :=
  ∃ x, templateSlot s.map template 0 = some x ∧ (x = .originFloor → s.rgc.latestOrigin ≠ none)

theorem Work.repeatsLeft_beginSlot_first {u : Work} (m : Nat) (first : u.PlaysAtOnce (u.templateOf k)) :
    ((u.beginSlot (m + 1) k 0).program k).repeatsLeft = (u.program k).repeatsLeft := by
  obtain ⟨x, slot, origin⟩ := first
  have entered : (u.enterSlot k 0).program k = { u.program k with slot := 0 } := u.setProgram_program_self _ _
  have phrase (x : Nat) : (((u.enterSlot k 0).playPhrase k x).program k).repeatsLeft = (u.program k).repeatsLeft := by
    rw [Work.program_playPhrase, entered]
  unfold Work.beginSlot
  rw [slot]
  cases x with
  | phrase x => exact phrase x
  | tone x => exact phrase x
  | originFloor =>
    dsimp only
    split
    · exact phrase _
    next none => exact absurd none (origin rfl)
  | pause t => exact (congrArg Program.repeatsLeft (u.setProgram_program_self _ _) :)

/-- R115: a program granted plays from its first slot with all its repetitions, when that slot is not passed over. -/
theorem Work.repeatsLeft_programGranted {w : Work} (waits : (w.program k).state = .waitingBudget) (other : k ≠ .live)
    (first : w.PlaysAtOnce (w.templateOf k)) :
    ((w.programGranted k).program k).repeatsLeft = (w.program k).repeatsLeft := by
  unfold Work.programGranted
  dsimp only
  rw [if_pos waits, if_neg other]
  have record := w.setProgram_program_self k { w.program k with state := .playing, slot := 0, played := false }
  have rgc := w.setProgram_rgc k { w.program k with state := .playing, slot := 0, played := false }
  have mst := w.setProgram_mst k { w.program k with state := .playing, slot := 0, played := false }
  obtain ⟨u, hu⟩ : ∃ u, u = (w.setProgram k { w.program k with state := .playing, slot := 0, played := false }).oweJoins
    true := ⟨_, rfl⟩
  rw [← hu]
  have record : u.program k = { w.program k with state := .playing, slot := 0, played := false } := by rw [hu]; exact record
  have rgc : u.rgc = w.rgc := by rw [hu]; exact rgc
  have mst : u.mst = w.mst := by rw [hu]; exact mst
  refine (Work.repeatsLeft_beginSlot_first 31 ?_).trans (congrArg Program.repeatsLeft record :)
  unfold State.PlaysAtOnce State.templateOf State.map
  rw [record, rgc, mst]
  exact first

/-- R108, R115: the record of a program that was started with a template and a count. -/
structure Program.Begun (p : Program) (given : FloorSet) (template repeats : Nat) (plays : Prop) : Prop where
  template : p.template = some template
  state : p.state ≠ .idle
  given : p.state ≠ .stopping → p.givenSet = given
  repeats : p.state = .waitingChannel ∨ p.state = .waitingBudget ∨ plays → p.repeatsLeft = repeats

theorem Program.Begun.forward {u : Work} {r : Program} {given : FloorSet} {template repeats : Nat}
    (other : endsWhenStopped k = true) (h : (u.program k).Begun given template repeats (u.PlaysAtOnce template))
    (step : Program.Forward u k r) : r.Begun given template repeats (u.PlaysAtOnce template) := by
  have own : u.templateOf k = template := by rw [State.templateOf, if_pos other, h.template]; rfl
  have later : k ≠ .live := by rintro rfl; cases other
  cases step with
  | onward waits q hq grant =>
    have state : r.state = .playing := (congrArg Program.state hq :)
    refine ⟨(congrArg Program.template hq :).trans h.template, by rw [state]; decide, fun _ => ?_, fun waiting => ?_⟩
    · exact (congrArg Program.givenSet hq :).trans (h.given (by rw [waits]; decide))
    · rw [state] at waiting
      rw [← grant, Work.repeatsLeft_programGranted waits later (by rw [own]; simpa using waiting)]
      exact h.repeats (.inr (.inl waits))
  | completed waits _ q hq grant =>
    have state : ((q.stopped k .completed).emptied).state = .stopping := q.stopped_state k .completed
    refine ⟨?_, by rw [state]; decide, fun going => absurd state going, fun waiting => ?_⟩
    · have kept : ((q.stopped k .completed).emptied).template = q.template := by
        unfold Program.stopped; dsimp only; split <;> rfl
      exact kept.trans ((congrArg Program.template hq :).trans h.template)
    · rw [state] at waiting
      rw [← grant, Work.repeatsLeft_programGranted waits later (by rw [own]; simpa using waiting)]
      exact h.repeats (.inr (.inl waits))
  | taken waits c =>
    exact ⟨h.template, ProgramState.noConfusion, fun _ => h.given (by rw [waits]; decide),
      fun _ => h.repeats (.inl waits)⟩

/-- R110, R128, R129: a program started by a request. -/
theorem Work.programRequest_begun {w : Work} {template : Nat} (other : endsWhenStopped k = true)
    (idle : (w.program k).state = .idle) (empty : (w.program k).floorSet = 0)
    (own : (w.program k).template = some template) (holders : ∀ c, (w.channel c).holder ≠ some k)
    (some : w.floorSetOf k ≠ 0) :
    ((w.programRequest k).program k).Begun (w.program k).givenSet template (startRepeats k (w.program k))
      (w.PlaysAtOnce template) := by
  obtain ⟨u, v, x, before, after, turns, rest⟩ := w.recompute_around (becauseFor k .host) k
  obtain ⟨record, holders⟩ := before.parked (Nat.lt_irrefl _) id (.inl idle) holders
  have frame {n : Reaching} {a w : Work} (h : Runs n a w) : w.rgc = a.rgc ∧ w.mst = a.mst :=
    h.keeps (P := fun u => u.rgc = a.rgc ∧ u.mst = a.mst) (fun u v m hu => by
      obtain ⟨-, rgc, mst, -⟩ := m.frame
      exact ⟨rgc.trans hu.1, mst.trans hu.2⟩) ⟨rfl, rfl⟩
  obtain ⟨rgc, mst⟩ := frame before
  have floors : u.floorSetOf k = w.floorSetOf k := State.floorSetOf_congr record rgc mst
  have started := u.program_recomputeProgram (becauseFor k .host) k
  rw [floors, record, Program.recomputed, empty, if_neg some, if_neg some, if_pos idle] at started
  have channels := Work.channels_recomputeProgram (w := u) (k := k) (reason := becauseFor k .host) (by rw [record]; exact idle)
    (by rw [floors]; exact some)
  obtain ⟨r, hr⟩ : ∃ r, r = u.recomputeProgram (becauseFor k .host) k := ⟨_, rfl⟩
  rw [← hr] at after started channels
  have framed : r.rgc = w.rgc ∧ r.mst = w.mst := by
    have own : Runs { recomputes := fun _ => True, why := becauseFor k .host } u r := by
      rw [hr]; exact Runs.recomputeProgram (n := { recomputes := fun _ => True, why := _ }) (.refl u) trivial
    exact ⟨(frame own).1.trans rgc, (frame own).2.trans mst⟩
  have waits : (r.program k).state = .waitingChannel := by rw [started]
  obtain ⟨record', holders⟩ := after.parked (Nat.lt_irrefl _) id (.inr waits) fun c => by
    rw [State.channel, channels]; exact holders c
  obtain ⟨record'', holders⟩ := turns.parked id (Nat.lt_irrefl _) (.inr (by rw [record']; exact waits)) holders
  have record : x.program k = r.program k := record''.trans record'
  have event : Runs { turn := fun j => k.priority ≤ j.priority } x (w.programRequest k) := rest.endEvent trivial trivial
  obtain ⟨xrgc, xmst⟩ : x.rgc = w.rgc ∧ x.mst = w.mst :=
    ⟨(frame turns).1.trans ((frame after).1.trans framed.1), (frame turns).2.trans ((frame after).2.trans framed.2)⟩
  have plays {u : Work} (rgc : u.rgc = w.rgc) (mst : u.mst = w.mst) : u.PlaysAtOnce template = w.PlaysAtOnce template := by
    unfold State.PlaysAtOnce State.map
    rw [rgc, mst]
  refine event.forward (P := fun p => p.Begun (w.program k).givenSet template (startRepeats k (w.program k))
    (w.PlaysAtOnce template)) id id (fun _ h => h) (fun u r rgc mst begun step => ?_) ?_
  · have same := plays (rgc.trans xrgc) (mst.trans xmst)
    rw [← same] at begun ⊢
    exact begun.forward other step
  · rw [record, started]
    exact ⟨own, ProgramState.noConfusion, fun _ => rfl, fun _ => rfl⟩

end Sys2Proof.Machine
end

section
/-! PROOFS. Chapter 6: LIVE, TENANT and TEST on request (R127 to R129). -/

namespace Sys2Proof.Machine

/-! ## LIVE (R127) -/

/-- What the steps of `Program.Forward` keep of LIVE's record after the recomputation of its floor set, a request keeps. -/
theorem Work.programRequest_live {w : Work} {P : Program → Prop}
    (step : ∀ u r, P (u.program .live) → Program.Forward u .live r → P r)
    (h : P ((w.program .live).recomputed .live .host (w.floorSetOf .live))) :
    P ((w.programRequest .live).program .live) := by
  have own := w.program_recomputeProgram (becauseFor .live .host) .live
  have first : w.recompute (becauseFor .live .host) =
      ([.evacuate, .alert, .allClear, .tenant, .test].foldl (Work.recomputeProgram (becauseFor .live .host))
        (w.recomputeProgram (becauseFor .live .host) .live)).arbiter := by
    unfold Work.recompute ProgramKind.all
    rw [List.foldl_cons]
  obtain ⟨r, hr⟩ : ∃ r, r = w.recomputeProgram (becauseFor .live .host) .live := ⟨_, rfl⟩
  rw [← hr] at own first
  have others := Runs.recomputePrograms
    (n := { recomputes := fun j => j ≠ .live, why := becauseFor .live .host, turn := fun _ => True })
    [.evacuate, .alert, .allClear, .tenant, .test] (by simp) (.refl r)
  have event := (others.arbiter fun _ => trivial).endEvent trivial trivial
  have same : w.programRequest .live = (w.recompute (becauseFor .live .host)).endEvent := rfl
  rw [same, first]
  refine event.forward (k := .live) (fun h => h rfl) id (fun j _ => Nat.zero_le _) (fun u r _ _ => step u r) ?_
  rw [own]
  exact h

/-- R127: LIVE's record after LIVE_START: its sets, and whether it is under way. -/
def Program.Live (given floors : FloorSet) (starts : Prop) (p : Program) : Prop :=
  p.givenSet = given ∧ p.floorSet = floors ∧ (starts → p.state ∈ [.waitingChannel, .waitingBudget, .playing])

theorem Program.Live.forward {u : Work} {r : Program} {given floors : FloorSet} {starts : Prop}
    (h : (u.program .live).Live given floors starts) (step : Program.Forward u .live r) : r.Live given floors starts := by
  obtain ⟨hg, hf, -⟩ := h
  cases step with
  | onward _ q hq =>
    refine ⟨(congrArg Program.givenSet hq :).trans hg, (congrArg Program.floorSet hq :).trans hf, fun _ => ?_⟩
    rw [show r.state = .playing from congrArg Program.state hq]; decide
  | completed _ other => exact absurd rfl other
  | taken => exact ⟨hg, hf, fun _ => by simp⟩

/-- R127: LIVE's record after LIVE_STOP: without floors, and ended or stopped by the host. -/
def Program.Silenced (ends stops : Prop) (p : Program) : Prop :=
  p.givenSet = 0 ∧ p.floorSet = 0 ∧ (ends → p.state = .idle ∧ p.stopReason = some .host) ∧
    (stops → p.state = .stopping ∧ p.stopReason = some .host)

theorem Program.Silenced.forward {u : Work} {r : Program} {ends stops : Prop}
    (h : (u.program .live).Silenced ends stops) (step : Program.Forward u .live r) : r.Silenced ends stops := by
  obtain ⟨hg, hf, he, hs⟩ := h
  have going (moves : (u.program .live).state = .waitingBudget ∨ (u.program .live).state = .waitingChannel) :
      ¬ ends ∧ ¬ stops := by
    constructor
    · intro e
      rw [(he e).1] at moves
      simp at moves
    · intro e
      rw [(hs e).1] at moves
      simp at moves
  cases step with
  | onward waits q hq =>
    obtain ⟨ne, ns⟩ := going (.inl waits)
    exact ⟨(congrArg Program.givenSet hq :).trans hg, (congrArg Program.floorSet hq :).trans hf, fun e => absurd e ne,
      fun e => absurd e ns⟩
  | completed _ other => exact absurd rfl other
  | taken waits =>
    obtain ⟨ne, ns⟩ := going (.inr waits)
    exact ⟨hg, hf, fun e => absurd e ne, fun e => absurd e ns⟩

theorem Work.program_setGiven (w : Work) (k : ProgramKind) (given : FloorSet) :
    (w.setGiven k given).program k = { w.program k with givenSet := given } := w.setProgram_program_self _ _

theorem Work.floorSetOf_setGiven_live (w : Work) (given : FloorSet) :
    (w.setGiven .live given).floorSetOf .live = given &&& presentSet w.map := by
  show ((w.setGiven .live given).program .live).givenSet &&& presentSet (w.setGiven .live given).map = _
  rw [Work.program_setGiven]
  have map : (w.setGiven .live given).map = w.map := congrArg Mst.map (w.setProgram_mst .live _)
  rw [map]

theorem Program.recomputed_live (p : Program) (floors : FloorSet) :
    (p.recomputed .live .host floors).Live p.givenSet floors (p.state = .idle ∧ p.floorSet = 0 ∧ floors ≠ 0) := by
  unfold Program.recomputed
  split
  next same => exact ⟨rfl, same.symm, fun ⟨_, empty, floored⟩ => absurd (same.trans empty) floored⟩
  next =>
    split
    next none =>
      have sets : ∀ q : Program, (q.whenEmptied .live .host).givenSet = q.givenSet ∧
          (q.whenEmptied .live .host).floorSet = q.floorSet := by
        intro q
        unfold Program.whenEmptied
        split <;> exact ⟨rfl, rfl⟩
      obtain ⟨given, floors⟩ := sets { p with floorSet := floors }
      exact ⟨given, floors, fun ⟨_, _, floored⟩ => absurd none floored⟩
    next =>
      split
      next => exact ⟨rfl, rfl, fun _ => by simp⟩
      next busy => exact ⟨rfl, rfl, fun ⟨idle, _⟩ => absurd idle busy⟩

theorem Program.recomputed_silenced (p : Program) (given : p.givenSet = 0) :
    (p.recomputed .live .host 0).Silenced (p.floorSet ≠ 0 ∧ p.state ∈ [.waitingChannel, .waitingBudget])
      (p.floorSet ≠ 0 ∧ p.state = .playing) := by
  unfold Program.recomputed
  dsimp only
  split
  next empty => exact ⟨given, empty.symm, fun h => absurd empty.symm h.1, fun h => absurd empty.symm h.1⟩
  next =>
    rw [if_pos rfl]
    obtain ⟨q, hq⟩ : ∃ q : Program, q = { p with floorSet := 0 } := ⟨_, rfl⟩
    have state : q.state = p.state := by rw [hq]
    have sets : q.givenSet = 0 ∧ q.floorSet = 0 := by rw [hq]; exact ⟨given, rfl⟩
    rw [← hq, ← state]
    unfold Program.whenEmptied
    split
    next idle => exact ⟨sets.1, sets.2, fun ⟨_, h⟩ => by simp [idle] at h, fun ⟨_, h⟩ => by simp [idle] at h⟩
    next waits => exact ⟨sets.1, sets.2, fun _ => ⟨rfl, rfl⟩, fun ⟨_, h⟩ => by simp [waits] at h⟩
    next waits => exact ⟨sets.1, sets.2, fun _ => ⟨rfl, rfl⟩, fun ⟨_, h⟩ => by simp [waits] at h⟩
    next playing => exact ⟨sets.1, sets.2, fun ⟨_, h⟩ => by simp [playing] at h, fun _ => ⟨rfl, rfl⟩⟩
    next stopping => exact ⟨sets.1, sets.2, fun ⟨_, h⟩ => by simp [stopping] at h, fun ⟨_, h⟩ => by simp [stopping] at h⟩

/-- R127: LIVE's record after LIVE_START. -/
theorem Work.live_started (w : Work) (given : FloorSet) :
    (((w.setGiven .live given).programRequest .live).program .live).Live given (given &&& presentSet w.map)
      ((w.program .live).state = .idle ∧ (w.program .live).floorSet = 0 ∧ given &&& presentSet w.map ≠ 0) := by
  have start := Program.recomputed_live ((w.setGiven .live given).program .live) (given &&& presentSet w.map)
  rw [w.program_setGiven] at start
  refine Work.programRequest_live (P := Program.Live _ _ _) (fun u r h step => h.forward step) ?_
  rw [w.floorSetOf_setGiven_live, w.program_setGiven]
  exact start

/-- R127: LIVE's record after LIVE_STOP. -/
theorem Work.live_stopped (w : Work) :
    (((w.setGiven .live 0).programRequest .live).program .live).Silenced
      ((w.program .live).floorSet ≠ 0 ∧ (w.program .live).state ∈ [.waitingChannel, .waitingBudget])
      ((w.program .live).floorSet ≠ 0 ∧ (w.program .live).state = .playing) := by
  have start := Program.recomputed_silenced { w.program .live with givenSet := 0 } rfl
  refine Work.programRequest_live (P := Program.Silenced _ _) (fun u r h step => h.forward step) ?_
  rw [w.floorSetOf_setGiven_live, w.program_setGiven, show (0 : FloorSet) &&& presentSet w.map = 0 from BitVec.zero_and]
  exact start

/-! ## A set given up (R108, R128) -/

section
variable {n : Reaching} {w v : Work} {k : ProgramKind}

/-- R108: the given set of a program that ends when it is stopped stays empty, and its floor set is empty once it was. -/
theorem Program.Move.givenUp {r : Program} (other : endsWhenStopped k = true) (h : (w.program k).givenSet = 0)
    (m : Program.Move n w k r) :
    r.givenSet = 0 ∧ (w.floorSetOf k = 0 → (w.program k).floorSet = 0 → r.floorSet = 0) := by
  cases m with
  | onward _ q hq =>
    exact ⟨(congrArg Program.givenSet hq :).trans h, fun _ empty => (congrArg Program.floorSet hq :).trans empty⟩
  | completed => exact ⟨rfl, fun _ _ => rfl⟩
  | stopped => rw [Program.stopped, if_pos other]; exact ⟨rfl, fun _ _ => rfl⟩
  | floors => exact ⟨h, fun none _ => none⟩
  | started => exact ⟨h, fun _ empty => empty⟩
  | ended => rw [Program.ended, if_pos other]; exact ⟨rfl, fun _ _ => rfl⟩
  | taken => exact ⟨h, fun _ empty => empty⟩
  | displaced => rw [Program.displaced, if_pos other, Program.ended, if_pos other]; exact ⟨rfl, fun _ _ => rfl⟩

end

theorem Runs.givenUp {n : Reaching} {a w : Work} {k : ProgramKind} (h : Runs n a w) (other : endsWhenStopped k = true)
    (given : (a.program k).givenSet = 0) : (w.program k).givenSet = 0 :=
  h.keeps (P := fun u => (u.program k).givenSet = 0) (fun u v m hu => by
    obtain same | moved := m.program k
    · rw [same]; exact hu
    · exact (moved.givenUp other hu).1) given

theorem floorSetWhere_eq_zero {p : Nat → Bool} (h : ∀ f, p f = false) : floorSetWhere p = 0 :=
  List.foldlRecOn (motive := fun acc : FloorSet => acc = 0) _ _ rfl fun acc hacc f _ => by simp [h f, hacc]

theorem floorSetOf_tenant_of_none {s : State} (given : (s.program .tenant).givenSet = 0) : s.floorSetOf .tenant = 0 :=
  floorSetWhere_eq_zero fun f => by simp [given]

theorem Runs.givenUp_tenant {n : Reaching} {a w : Work} (h : Runs n a w) (given : (a.program .tenant).givenSet = 0)
    (empty : (a.program .tenant).floorSet = 0) :
    (w.program .tenant).givenSet = 0 ∧ (w.program .tenant).floorSet = 0 :=
  h.keeps (P := fun u => (u.program .tenant).givenSet = 0 ∧ (u.program .tenant).floorSet = 0) (fun u v m hu => by
    obtain ⟨given, empty⟩ := hu
    obtain same | moved := m.program .tenant
    · rw [same]; exact ⟨given, empty⟩
    · obtain ⟨given', empty'⟩ := moved.givenUp rfl given
      exact ⟨given', empty' (floorSetOf_tenant_of_none given) empty⟩) ⟨given, empty⟩

/-- R108, R128: TENANT given no floors is left with none by the recomputation. -/
theorem Work.programRequest_givenUp {w : Work} (given : (w.program .tenant).givenSet = 0) :
    ((w.programRequest .tenant).program .tenant).givenSet = 0 ∧
      ((w.programRequest .tenant).program .tenant).floorSet = 0 := by
  obtain ⟨u, v, x, before, after, turns, rest⟩ := w.recompute_around (becauseFor .tenant .host) .tenant
  have given' := before.givenUp rfl given
  have own := u.program_recomputeProgram (becauseFor .tenant .host) .tenant
  have emptied : ∀ q : Program, q.givenSet = 0 → (q.recomputed .tenant .host 0).givenSet = 0 ∧
      (q.recomputed .tenant .host 0).floorSet = 0 := by
    intro q none
    unfold Program.recomputed
    split
    next same => exact ⟨none, same.symm⟩
    next =>
      rw [if_pos rfl]
      unfold Program.whenEmptied
      split
      next => exact ⟨none, rfl⟩
      next => exact ⟨rfl, rfl⟩
      next => exact ⟨rfl, rfl⟩
      next => exact ⟨rfl, rfl⟩
      next => exact ⟨none, rfl⟩
  rw [floorSetOf_tenant_of_none given'] at own
  obtain ⟨g, f⟩ := emptied (u.program .tenant) given'
  have start : ((u.recomputeProgram (becauseFor .tenant .host) .tenant).program .tenant).givenSet = 0 ∧
      ((u.recomputeProgram (becauseFor .tenant .host) .tenant).program .tenant).floorSet = 0 := by
    rw [own]; exact ⟨g, f⟩
  obtain ⟨g, f⟩ := after.givenUp_tenant start.1 start.2
  obtain ⟨g, f⟩ := turns.givenUp_tenant g f
  exact (rest.endEvent trivial trivial).givenUp_tenant g f

/-! ## Sets of floors -/

theorem floorSetWhere_ne_zero {p : Nat → Bool} {f : Nat} (bound : f < 32) (h : p f = true) : floorSetWhere p ≠ 0 := by
  have member : f ∈ floorIndices := List.mem_range.mpr bound
  have set : ∀ (l : List Nat) (acc : FloorSet), f ∈ l ∨ acc.getLsbD f = true →
      (l.foldl (fun acc f => if p f then acc ||| BitVec.ofNat 32 (2 ^ f) else acc) acc).getLsbD f = true := by
    intro l
    induction l with
    | nil => exact fun acc h => h.resolve_left List.not_mem_nil
    | cons x l ih =>
      intro acc here
      refine ih _ ?_
      by_cases now : x = f
      · subst now
        right
        show (if p x then _ else acc).getLsbD x = true
        rw [if_pos h, BitVec.getLsbD_or, BitVec.getLsbD_ofNat, Nat.testBit_two_pow_self, decide_eq_true bound]
        simp
      · obtain listed | kept := here
        · exact .inl ((List.mem_cons.mp listed).resolve_left (Ne.symm now))
        · right
          show (if p x then _ else acc).getLsbD f = true
          split
          · rw [BitVec.getLsbD_or, kept]; rfl
          · exact kept
  intro none
  have now := set floorIndices 0 (.inl member)
  rw [show floorIndices.foldl _ 0 = floorSetWhere p from rfl, none] at now
  simp at now

theorem someFree_iff {s : State} {given : FloorSet} : s.someFree given = true ↔
    ∃ f < 32, given.getLsbD f = true ∧ floorPresent s.map f = true ∧ (s.floor f).phase = .none := by
  unfold State.someFree
  rw [List.any_eq_true]
  constructor
  · rintro ⟨f, member, here⟩
    simp only [Bool.and_eq_true, decide_eq_true_eq] at here
    exact ⟨f, List.mem_range.mp member, here.1.1, here.1.2, here.2⟩
  · rintro ⟨f, bound, given, present, free⟩
    exact ⟨f, List.mem_range.mpr bound, by simp [given, present, free]⟩

end Sys2Proof.Machine
end

section
/-! PROOFS. Chapter 6: the requests on LIVE, TENANT and TEST settled. -/

namespace Sys2Proof.Claims

open Sys2Proof Sys2Proof.Machine

/-- A served request of its own length in HOSTED whose rule is an event of the supply: answered, with the programs as the
event leaves them. -/
theorem serve_voice {s : State} {req : Request} {code : Nat} {ok : List Byte → Bool}
    {rule : Work → List Byte → Answer} {w : Work} {result : Result} {fields : List Byte} (hs : Serves s code req)
    (hl : ok req.body = true) (hr : rule (Work.begin s) req.body = ⟨w, result, fields⟩)
    (leads : Leads {} (Work.begin s) w) :
    Done s (s.serve code ok rule) req result fields ∧ SupplyOnly s (s.serve code ok rule) ∧
      ∀ k, (s.serve code ok rule).program k = w.program k := by
  obtain ⟨done, supply, -⟩ := serve_supplyEvent hs hl hr leads
  obtain ⟨-, others, -⟩ := serve_event hs hl hr leads rfl
  exact ⟨done, supply, fun k => (congrArg (fun t : State => t.program k) others :)⟩

theorem lengthIs_of {n : Nat} {body : List Byte} (h : body.length = n) : lengthIs n body = true := decide_eq_true h

/-- Settles O46. -/
theorem liveSetsItsFloors : Obligations.LiveSetsItsFloors := by
  intro s req
  refine ⟨fun hs length => ?_, fun hs body => ⟨fun idle => ?_, fun busy => ?_⟩⟩
  · obtain ⟨done, supply, programs⟩ := serve_voice (rule := liveStartRule) hs (lengthIs_of length) (by exact rfl)
      (liveStart_leads req.body)
    have record : (s.serve 0x34 (lengthIs 4) liveStartRule).program .live = _ := programs .live
    refine ⟨_, rfl, done, supply, ?_⟩
    rw [record]
    obtain ⟨given, floored, starts⟩ := (Work.begin s).live_started (setAt req.body 0)
    exact ⟨given, floored, fun idle empty some => starts ⟨idle, empty, by rwa [liveStartRule, floored] at some⟩⟩
  · refine congrArg Host.Outcome.next (serve_plain (rule := fun w _ => liveStopRule w) hs (by rw [body]; rfl) ?_)
    rw [liveStopRule, if_pos (by exact idle)]
  · have rule : liveStopRule (Work.begin s) = ⟨((Work.begin s).setGiven .live 0).programRequest .live, .ok, []⟩ := by
      rw [liveStopRule, if_neg (by exact busy)]
    obtain ⟨done, supply, programs⟩ := serve_voice (code := 0x35) (ok := lengthIs 0) (rule := fun w _ => liveStopRule w) hs
      (by rw [body]; rfl) rule (((Leads.refl _).setGiven _ _).programRequest _)
    have record : (s.serveEmpty 0x35 liveStopRule).program .live = _ := programs .live
    refine ⟨_, rfl, done, supply, ?_⟩
    rw [record]
    obtain ⟨given, empty, ends, stops⟩ := (Work.begin s).live_stopped
    exact ⟨given, empty, fun some waits => ends ⟨some, waits⟩, fun some playing => stops ⟨some, playing⟩⟩

/-! ## TENANT and TEST (R128, R129) -/

/-- R109: no channel is held by a program when none of the six is. -/
theorem holders_of {s : State} {k : ProgramKind} (h : ∀ c < 6, (s.channel c).holder ≠ some k) (c : Nat) :
    (s.channel c).holder ≠ some k := by
  by_cases bound : c < 6
  · exact h c bound
  · rw [State.channel, vget_of_le _ _ _ (Nat.not_lt.mp bound)]
    exact fun same => by cases same

theorem tenantRangeOk_iff {m : Memory} {given : FloorSet} {template repeats : Nat} :
    tenantRangeOk m given template repeats = true ↔
      template ≤ 15 ∧ 1 ≤ repeats ∧ repeats ≤ 20 ∧ given &&& presentSet m ≠ 0 := by
  simp [tenantRangeOk, and_assoc]

section
variable {s : State} {req : Request}

/-- R128, R129: what a request leaves of a program it starts. -/
structure Starts (s t : State) (req : Request) (k : ProgramKind) (template repeats : Nat) : Prop where
  done : Done s t req .ok []
  supply : SupplyOnly s t
  own : (t.program k).template = some template
  state : (t.program k).state ≠ .idle
  given : (t.program k).state ≠ .stopping → (t.program k).givenSet = setAt req.body 0
  repeats : (t.program k).state ∈ [.waitingChannel, .waitingBudget] ∨ s.PlaysAtOnce template →
    (t.program k).repeatsLeft = repeats

/-- R110: a request on a program that is IDLE without floors and holds no channel starts it. -/
theorem serve_starts {code : Nat} {ok : List Byte → Bool} {rule : Work → List Byte → Answer} {k : ProgramKind}
    {template repeats : Nat} (hs : Serves s code req) (hl : ok req.body = true)
    (hr : rule (Work.begin s) req.body = ⟨((Work.begin s).setProgram k { s.program k with
      givenSet := setAt req.body 0, template := some template, repeatsLeft := repeats }).programRequest k, .ok, []⟩)
    (other : endsWhenStopped k = true) (idle : (s.program k).state = .idle) (empty : (s.program k).floorSet = 0)
    (holders : ∀ c < 6, (s.channel c).holder ≠ some k)
    (floors : ((Work.begin s).setProgram k { s.program k with
      givenSet := setAt req.body 0, template := some template, repeatsLeft := repeats }).floorSetOf k ≠ 0)
    (count : startRepeats k { s.program k with
      givenSet := setAt req.body 0, template := some template, repeatsLeft := repeats } = repeats) :
    Starts s (s.serve code ok rule) req k template repeats := by
  obtain ⟨done, supply, programs⟩ := serve_voice hs hl hr (((Leads.refl _).setProgram _ _).programRequest _)
  obtain ⟨w, hw⟩ : ∃ w, w = (Work.begin s).setProgram k { s.program k with
    givenSet := setAt req.body 0, template := some template, repeatsLeft := repeats } := ⟨_, rfl⟩
  have record : w.program k = { s.program k with
      givenSet := setAt req.body 0, template := some template, repeatsLeft := repeats } := by
    rw [hw]; exact Work.setProgram_program_self _ _ _
  have rgc : w.rgc = s.rgc := by rw [hw]; exact Work.setProgram_rgc _ _ _
  have mst : w.mst = s.mst := by rw [hw]; exact Work.setProgram_mst _ _ _
  have channels : ∀ c, w.channel c = s.channel c := fun c => by
    rw [State.channel, hw, Work.setProgram_ans]; rfl
  rw [← hw] at programs floors
  have begun := Work.programRequest_begun (w := w) (k := k) (template := template) other (by rw [record]; exact idle)
    (by rw [record]; exact empty) (by rw [record]) (fun c => by rw [channels]; exact holders_of holders c) floors
  rw [← programs k, record, count] at begun
  refine ⟨done, supply, begun.template, begun.state, begun.given, fun h => begun.repeats ?_⟩
  have plays : w.PlaysAtOnce template = s.PlaysAtOnce template := by
    unfold State.PlaysAtOnce State.map
    rw [rgc, mst]
  rw [plays]
  simpa [or_assoc] using h

theorem tenantStart_starts (hs : Serves s 0x36 req) (length : req.body.length = 6)
    (range : tenantRangeOk s.map (setAt req.body 0) (byteAt req.body 4) (byteAt req.body 5) = true)
    (idle : (s.program .tenant).state = .idle) (free : s.someFree (setAt req.body 0) = true)
    (empty : (s.program .tenant).floorSet = 0) (holders : ∀ c < 6, (s.channel c).holder ≠ some .tenant) :
    Starts s (s.serve 0x36 (lengthIs 6) tenantStartRule) req .tenant (byteAt req.body 4) (byteAt req.body 5) := by
  refine serve_starts hs (lengthIs_of length) ?_ rfl idle empty holders ?_ rfl
  · unfold tenantStartRule
    dsimp only
    have hosted : s.hlc.mode ≠ .autonomous := by rw [hs.2.2]; decide
    rw [if_neg (by rw [show tenantRangeOk (Work.begin s).map _ _ _ = true from range]; decide),
      if_neg (by
        rintro (busy | silent | none)
        · exact busy idle
        · exact hosted silent
        · exact Bool.eq_false_iff.mp none free)]
    rfl
  · obtain ⟨f, bound, given, present, phase⟩ := someFree_iff.mp free
    refine floorSetWhere_ne_zero bound ?_
    simp only [Work.setProgram_program_self, given, Bool.true_and, Bool.and_eq_true, decide_eq_true_eq]
    have rgc := (Work.begin s).setProgram_rgc .tenant { s.program .tenant with
      givenSet := setAt req.body 0, template := some (byteAt req.body 4), repeatsLeft := byteAt req.body 5 }
    have mst := (Work.begin s).setProgram_mst .tenant { s.program .tenant with
      givenSet := setAt req.body 0, template := some (byteAt req.body 4), repeatsLeft := byteAt req.body 5 }
    unfold State.map State.floor
    rw [rgc, mst]
    exact ⟨present, phase⟩

theorem testStart_starts (hs : Serves s 0x38 req) (length : req.body.length = 5) (range : byteAt req.body 4 ≤ 15)
    (floored : setAt req.body 0 &&& presentSet s.map ≠ 0) (quiet : s.rgc.state = .quiet)
    (idle : (s.program .test).state = .idle) (empty : (s.program .test).floorSet = 0)
    (holders : ∀ c < 6, (s.channel c).holder ≠ some .test) :
    Starts s (s.serve 0x38 (lengthIs 5) testStartRule) req .test (byteAt req.body 4) 1 := by
  refine serve_starts hs (lengthIs_of length) ?_ rfl idle empty holders ?_ rfl
  · unfold testStartRule
    dsimp only
    rw [if_neg (by
        rintro (out | none)
        · exact Nat.not_lt.mpr range out
        · exact floored none),
      if_neg (by
        rintro (busy | busy)
        · exact busy quiet
        · exact busy idle)]
    rfl
  · have mst := (Work.begin s).setProgram_mst .test { s.program .test with
      givenSet := setAt req.body 0, template := some (byteAt req.body 4), repeatsLeft := 1 }
    show ((Work.setProgram _ _ _).program .test).givenSet &&& presentSet (Work.setProgram _ _ _).map ≠ 0
    rw [Work.setProgram_program_self, State.map, mst]
    exact floored

theorem tenantStart_out (hs : Serves s 0x36 req) (length : req.body.length = 6)
    (range : tenantRangeOk s.map (setAt req.body 0) (byteAt req.body 4) (byteAt req.body 5) = false) :
    s.serve 0x36 (lengthIs 6) tenantStartRule = answered s req .refusedRange [] := by
  refine serve_plain hs (lengthIs_of length) (if_pos ?_)
  rw [show tenantRangeOk (Work.begin s).map _ _ _ = false from range]
  rfl

/-- R128: TENANT_START refused, in either link mode. -/
theorem tenantStart_refused (range : tenantRangeOk s.map (setAt req.body 0) (byteAt req.body 4) (byteAt req.body 5) = true)
    (out : (s.program .tenant).state ≠ .idle ∨ s.hlc.mode = .autonomous ∨ s.someFree (setAt req.body 0) = false) :
    tenantStartRule (Work.begin s) req.body = ⟨Work.begin s, .refusedState, []⟩ := by
  unfold tenantStartRule
  dsimp only
  rw [if_neg (by rw [show tenantRangeOk (Work.begin s).map _ _ _ = true from range]; decide), if_pos (by exact out)]
  rfl

theorem testStart_out (hs : Serves s 0x38 req) (length : req.body.length = 5)
    (out : 15 < byteAt req.body 4 ∨ setAt req.body 0 &&& presentSet s.map = 0) :
    s.serve 0x38 (lengthIs 5) testStartRule = answered s req .refusedRange [] :=
  serve_plain hs (lengthIs_of length) (if_pos (by exact out))

theorem testStart_refused (hs : Serves s 0x38 req) (length : req.body.length = 5)
    (within : ¬ (15 < byteAt req.body 4 ∨ setAt req.body 0 &&& presentSet s.map = 0))
    (out : s.rgc.state ≠ .quiet ∨ (s.program .test).state ≠ .idle) :
    s.serve 0x38 (lengthIs 5) testStartRule = answered s req .refusedState [] := by
  refine serve_plain hs (lengthIs_of length) ?_
  unfold testStartRule
  dsimp only
  rw [if_neg (by exact within), if_pos (by exact out)]
  rfl

theorem tenantStop_idle (hs : Serves s 0x37 req) (body : req.body = []) (idle : (s.program .tenant).state = .idle) :
    s.serveEmpty 0x37 tenantStopRule = answered s req .ok [] := by
  refine serve_plain (rule := fun w _ => tenantStopRule w) hs (by rw [body]; rfl) ?_
  rw [tenantStopRule, if_pos (by exact idle)]

theorem tenantStop_stops (hs : Serves s 0x37 req) (body : req.body = []) (busy : (s.program .tenant).state ≠ .idle) :
    Done s (s.serveEmpty 0x37 tenantStopRule) req .ok [] ∧ SupplyOnly s (s.serveEmpty 0x37 tenantStopRule) ∧
      ((s.serveEmpty 0x37 tenantStopRule).program .tenant).givenSet = 0 ∧
      ((s.serveEmpty 0x37 tenantStopRule).program .tenant).floorSet = 0 := by
  have rule : tenantStopRule (Work.begin s) = ⟨((Work.begin s).setGiven .tenant 0).programRequest .tenant, .ok, []⟩ := by
    rw [tenantStopRule, if_neg (by exact busy)]
  obtain ⟨done, supply, programs⟩ := serve_voice (code := 0x37) (ok := lengthIs 0) (rule := fun w _ => tenantStopRule w) hs
    (by rw [body]; rfl) rule (((Leads.refl _).setGiven _ _).programRequest _)
  have record : (s.serveEmpty 0x37 tenantStopRule).program .tenant = _ := programs .tenant
  refine ⟨done, supply, ?_⟩
  rw [record]
  exact Work.programRequest_givenUp (by rw [Work.program_setGiven])

/-- R128: TENANT_START in AUTONOMOUS is refused, and the mode returns to HOSTED. -/
theorem tenantStart_autonomous (servable : s.servable = some req) (code : req.code = 0x36)
    (autonomous : s.hlc.mode = .autonomous) (length : req.body.length = 6)
    (range : tenantRangeOk s.map (setAt req.body 0) (byteAt req.body 4) (byteAt req.body 5) = true) :
    let t := s.serve 0x36 (lengthIs 6) tenantStartRule
    Responds s t req .refusedState [] ∧ t.hlc.mode = .hosted ∧ t.ans.programs = s.ans.programs := by
  intro t
  have rule : checked (lengthIs 6) tenantStartRule (Work.begin s) req.body = ⟨Work.begin s, .refusedState, []⟩ := by
    rw [checked, if_pos (lengthIs_of length), tenantStart_refused range (.inr (.inl autonomous))]
  have ht : t = s.answer req (checked (lengthIs 6) tenantStartRule) := serve_served servable code
  obtain ⟨responds, others, -, hosted, -⟩ := answer_reads (s := s) (req := req)
    (rule := checked (lengthIs 6) tenantStartRule) (by rw [rule])
  rw [rule] at responds
  rw [ht]
  exact ⟨responds, hosted, (congrArg (fun u : State => u.ans.programs) others :)⟩

end

/-- Settles O47: a program that is started stands in WAITING_CHANNEL with its template and count until its own turn; what
follows can make it play, never displace it. -/
theorem tenantAndTestStart : Obligations.TenantAndTestStart := by
  intro s req plays
  have state : ∀ {t : State} {k : ProgramKind} {template repeats : Nat}, Starts s t req k template repeats →
      Done s t req .ok [] ∧ SupplyOnly s t ∧ (t.program k).template = some template ∧ (t.program k).state ≠ .idle ∧
        ((t.program k).state ≠ .stopping → (t.program k).givenSet = setAt req.body 0) ∧
        ((t.program k).state ∈ [.waitingChannel, .waitingBudget] ∨ plays template → (t.program k).repeatsLeft = repeats) :=
    fun h => ⟨h.done, h.supply, h.own, h.state, h.given, h.repeats⟩
  refine ⟨?_, ?_, ?_, ?_⟩
  · intro hs length given inRange may
    refine ⟨fun out => ?_, fun within out => ?_, fun within free empty holders => ?_⟩
    · exact congrArg Host.Outcome.next (tenantStart_out hs length
        (Bool.not_eq_true _ ▸ fun range => out (tenantRangeOk_iff.mp range)))
    · refine congrArg Host.Outcome.next (serve_plain hs (lengthIs_of length)
        (tenantStart_refused (tenantRangeOk_iff.mpr within) ?_))
      by_cases idle : (s.program .tenant).state = .idle
      · exact .inr (.inr (Bool.not_eq_true _ ▸ fun free => out ⟨idle, someFree_iff.mp free⟩))
      · exact .inl idle
    · exact ⟨_, rfl, state (tenantStart_starts hs length (tenantRangeOk_iff.mpr within) free.1 (someFree_iff.mpr free.2)
        empty holders)⟩
  · intro hs body
    exact ⟨fun idle => congrArg Host.Outcome.next (tenantStop_idle hs body idle),
      fun busy => ⟨_, rfl, tenantStop_stops hs body busy⟩⟩
  · intro servable code autonomous length template least most floored
    exact ⟨_, rfl, tenantStart_autonomous servable code autonomous length
      (tenantRangeOk_iff.mpr ⟨template, least, most, floored⟩)⟩
  · intro hs length given inRange may
    refine ⟨fun out => ?_, fun within out => ?_, fun within free empty holders => ?_⟩
    · refine congrArg Host.Outcome.next (testStart_out hs length ?_)
      by_contra within
      exact out ⟨Nat.not_lt.mp fun h => within (.inl h), fun h => within (.inr h)⟩
    · refine congrArg Host.Outcome.next (testStart_refused hs length ?_ ?_)
      · rintro (high | none)
        · exact Nat.not_lt.mpr within.1 high
        · exact within.2 none
      · by_contra free
        exact out ⟨by_contra fun h => free (.inl h), by_contra fun h => free (.inr h)⟩
    · exact ⟨_, rfl, state (testStart_starts hs length within.1 within.2 free.1 free.2 empty holders)⟩

end Sys2Proof.Claims
end

section
/-! PROOFS. Chapter 9: the short and the long expiry of host silence (R42, R128, R170, R171). -/

namespace Sys2Proof.Machine

variable {w : Work} {s : State}

/-- R170: HOST_SILENT becomes active; a part silent already has nothing to report. -/
theorem Work.conds_becomeSilent (h : w.conds = []) :
    w.becomeSilent.conds = if w.hlc.hostSilent = true then [] else [⟨.hostSilent, 0, true⟩] := by
  unfold Work.becomeSilent Work.reportChange
  split
  next => exact h
  next =>
    show w.conds ++ _ = _
    rw [h]; rfl

theorem silentFor_iff {t : Nat} : s.silentFor t = true ↔ s.hlc.lastValidAt + t ≤ s.uptime := decide_eq_true_iff

theorem longDue_iff : (s.hlc.mode = .hosted && s.silentFor (longSilence s.map)) = true ↔
    s.hlc.mode = .hosted ∧ s.hlc.lastValidAt + longSilence s.map ≤ s.uptime := by
  rw [Bool.and_eq_true, decide_eq_true_iff, silentFor_iff]

/-- R171: the part as RGC finds it at the entry to AUTONOMOUS. -/
def State.silenced (s : State) : State := { s with hlc := { s.hlc with mode := .autonomous } }

def Work.autonomous (w : Work) : Work := (w.post .link (linkBody w.toState .silence)).modeToRgc

theorem Work.becomeAutonomous_eq (s : State) :
    (Work.begin s).becomeAutonomous = (Work.begin s.silenced).autonomous.endTenant := rfl

theorem Leads.autonomous : Leads { cru := true, rgc := true } w w.autonomous := ((Leads.refl w).post _ _).modeToRgc rfl rfl

/-- R42: what the entry to AUTONOMOUS makes of the regime. -/
theorem Work.rgc_autonomous (s : State) : (Work.begin s.silenced).autonomous.rgc =
    if escalates s.map = true ∧ s.rgc.state = .active then s.rgc.entryGeneral s.map else s.rgc := by
  refine (Work.rgcEvent_rgc _ _ _).trans ?_
  have escalating : State.escalating ((Work.begin s.silenced).post .link
      (linkBody (Work.begin s.silenced).toState .silence)).toState = escalates s.map := by
    have mode := Hlc.unposted.mode (((Leads.refl (n := {}) (Work.begin s.silenced)).post .link
      (linkBody (Work.begin s.silenced).toState .silence)).untouched.link rfl)
    unfold State.escalating
    rw [mode]
    exact Bool.true_and _
  rw [escalating]
  simp only [Bool.and_eq_true, decide_eq_true_eq]
  rfl

theorem Work.tenant_endTenant (w : Work) : (w.endTenant.program .tenant).givenSet = 0 := by
  have recomputed := Runs.recompute
    (n := { recomputes := fun _ => True, turn := fun _ => True, why := becauseFor .tenant .autonomy })
    (.refl (w.setGiven .tenant 0)) (fun _ => trivial) fun _ => trivial
  exact (recomputed.endEvent trivial trivial).givenUp (k := .tenant) rfl (by rw [Work.program_setGiven])

theorem Leads.endTenant {n : Reach} {a : Work} (h : Leads n a w) : Leads n a w.endTenant :=
  ((h.setGiven _ _).recompute _).endEvent

end Sys2Proof.Machine

namespace Sys2Proof.Claims

open Sys2Proof Sys2Proof.Machine

/-- Settles O17. -/
theorem silenceExpiries : Obligations.SilenceExpiries := by
  intro s
  refine ⟨fun started due => ?_, fun early => ?_, fun started hosted due => ?_, fun early => ?_⟩
  · have occurs : exec .shortExpiry s = .next (Work.begin s).becomeSilent.finish :=
      congrArg Host.Outcome.next (onEvent_occurs started (silentFor_iff.mpr due) Work.becomeSilent)
    have state := Work.reportChange_toState ((Work.begin s).setHlc { s.hlc with hostSilent := true }) .hostSilent 0
      s.hlc.hostSilent true
    refine ⟨_, occurs, linkKept_finish ?_, ?_, Work.finish_frame ?_⟩
    · have link : (Work.begin s).becomeSilent.hlc = { s.hlc with hostSilent := true } := (congrArg State.hlc state :)
      rw [link]; rfl
    · have trc : (Work.begin s).becomeSilent.trc = s.trc := (congrArg State.trc state :)
      have uptime : (Work.begin s).becomeSilent.uptime = s.uptime := (congrArg State.uptime state :)
      rw [Work.finish_trc, Work.conds_becomeSilent rfl, trc, uptime]
      show List.foldl _ _ (if s.hlc.hostSilent = true then _ else _) = _
      split <;> rfl
    · exact (congrArg (fun t : State => { t with trc := s.trc, hlc := s.hlc }) state :)
  · exact congrArg Host.Outcome.next (onEvent_not (Bool.not_eq_true _ ▸ fun due =>
      Nat.not_lt.mpr (silentFor_iff.mp due) early) Work.becomeSilent)
  · have occurs : exec .longExpiry s = .next (Work.begin s).becomeAutonomous.finish :=
      congrArg Host.Outcome.next (onEvent_occurs started (longDue_iff.mpr ⟨hosted, due⟩) Work.becomeAutonomous)
    rw [Work.becomeAutonomous_eq] at occurs
    refine ⟨_, occurs, ?_⟩
    have leads := (Leads.autonomous (w := Work.begin s.silenced)).endTenant
    obtain ⟨v, hv⟩ : ∃ v, v = (Work.begin s.silenced).autonomous := ⟨_, rfl⟩
    have regime := Work.rgc_autonomous s
    rw [← hv] at leads regime ⊢
    have kept : v.endTenant.rgc = v.rgc := ((Leads.refl (n := {}) v).endTenant).untouched.rgc rfl
    have others := v.endTenant.finish_others
    have only := regimeOnly_of_leads leads others
    have tenant := v.tenant_endTenant
    have unposted : v.endTenant.hlc.unposted (Work.begin s.silenced).hlc := leads.untouched.link rfl
    have link : LinkKept s.silenced v.endTenant.finish := linkKept_finish unposted
    generalize v.endTenant.finish = t at others only link ⊢
    have rgc : t.rgc = v.rgc := Eq.trans (congrArg State.rgc others :) kept
    have program : t.program .tenant = v.endTenant.program .tenant := by
      have ans : t.ans = v.endTenant.ans := (congrArg State.ans others :)
      rw [State.program, ans]; rfl
    rw [rgc, regime, program]
    exact ⟨link, tenant, (congrArg (fun t : State => { t with hlc := s.hlc }) only :), fun escalating active => by
      rw [if_pos ⟨escalating, active⟩]; rfl, fun h => if_neg fun ⟨escalating, active⟩ => by
      obtain calm | other := h
      · rw [calm] at escalating; cases escalating
      · exact other active⟩
  · refine congrArg Host.Outcome.next (onEvent_not (Bool.not_eq_true _ ▸ fun due => ?_) Work.becomeAutonomous)
    obtain ⟨hosted, due⟩ := longDue_iff.mp due
    obtain autonomous | early := early
    · rw [autonomous] at hosted; cases hosted
    · exact Nat.not_lt.mpr due early

end Sys2Proof.Claims
end

section
/-! PROOFS. Chapter 6: the speaker joins (R121). -/

namespace Sys2Proof.Machine

/-! ## The desired channel -/

theorem ProgramKind.mem_all (k : ProgramKind) : k ∈ ProgramKind.all := by cases k <;> decide

/-- The first program that satisfies a condition is the one of the highest priority. -/
theorem ProgramKind.find?_all {p : ProgramKind → Bool} {k : ProgramKind} (h : p k = true)
    (first : ∀ j, j.priority < k.priority → p j = false) : ProgramKind.all.find? p = some k := by
  rw [ProgramKind.all_eq k, List.find?_append, List.find?_eq_none.mpr, List.find?_cons_of_pos h]
  · rfl
  · intro j hj
    rw [first j (of_decide_eq_true (List.mem_filter.mp hj).2)]
    decide

section
variable (w : Work) (f : Nat)

theorem Work.giveFloor_ans : (w.giveFloor f).ans = w.ans := by
  unfold Work.giveFloor
  split <;> rfl

theorem Work.join_giveFloor (g : Nat) : (w.giveFloor f).join g = w.join g := by
  rw [State.join, Work.giveFloor_ans]; rfl

theorem updateOwner_of_none {nodes : List NodeEntry} {o : NodeOwner} (h : nodes.find? (fun e => decide (e.owner = o)) = none)
    (g : NodeEntry → NodeEntry) : updateOwner nodes o g = nodes := by
  refine (List.map_congr_left fun e he => ?_).trans (List.map_id nodes)
  have other := List.find?_eq_none.mp h e he
  simp only [decide_eq_true_eq] at other
  exact if_neg other

theorem Work.giveFloor_rbm_of_none {w : Work} {f : Nat} (h : w.entryOf (.floor f) = none) : (w.giveFloor f).rbm = w.rbm := by
  unfold Work.giveFloor
  split
  · rfl
  · show ({ w.rbm with nodes := updateOwner w.rbm.nodes (.floor f) .give } : Rbm) = w.rbm
    rw [updateOwner_of_none h]

end

/-! ## The comparison of a join -/

section
variable {w : Work} {f : Nat}

theorem Work.compareJoin_met (h : w.selectorFor f = (w.join f).sent) :
    w.compareJoin f = w.setJoin f { w.join f with desired := w.selectorFor f, pending := none } := if_pos h

theorem Work.compareJoin_holds (h : w.selectorFor f ≠ (w.join f).sent) (holds : w.floorHolds f = true) :
    w.compareJoin f =
      w.setJoin f { w.join f with desired := w.selectorFor f, pending := some (w.selectorFor f) } := by
  unfold Work.compareJoin
  exact (if_neg h).trans (if_pos holds)

theorem Work.compareJoin_sends (h : w.selectorFor f ≠ (w.join f).sent) (holds : w.floorHolds f = false) :
    w.compareJoin f = (w.setJoin f { w.join f with
      desired := w.selectorFor f, sent := w.selectorFor f, confirmed := false, pending := none }).giveFloor f := by
  unfold Work.compareJoin
  exact (if_neg h).trans (if_neg (by simp [holds]))

theorem Work.floorHolds_of (ungiven : f ∉ w.given) : w.floorHolds f = w.nodeInFlight (.floor f) := by
  simp [Work.floorHolds, ungiven]

end

end Sys2Proof.Machine

namespace Sys2Proof.Claims

open Sys2Proof Sys2Proof.Machine

/-- Settles O48. -/
theorem speakersFollowPriority : Obligations.SpeakersFollowPriority := by
  refine ⟨fun s k c f playing channel covers first => ?_, fun s f none => ?_, fun w f bound ungiven => ?_⟩
  · have found : ProgramKind.all.find? (fun k => (s.program k).state = .playing && (s.program k).floorSet.getLsbD f) =
        some k := ProgramKind.find?_all (by simp [playing, covers]) fun j lower => by
      obtain silent | apart := first j lower
      · simp [silent]
      · simp [apart]
    rw [State.selectorFor, found]
    dsimp only
    rw [channel]
  · have found : ProgramKind.all.find? (fun k => (s.program k).state = .playing && (s.program k).floorSet.getLsbD f) =
        Option.none := List.find?_eq_none.mpr fun k _ => by
      obtain silent | apart := none k
      · simp [silent]
      · simp [apart]
    rw [State.selectorFor, found]
  · intro j d
    have holds := Work.floorHolds_of ungiven
    have sends (other : d ≠ j.sent) (free : w.nodeInFlight (.floor f) = false) :
        (w.compareJoin f).join f = { j with desired := d, sent := d, pending := none, confirmed := false } := by
      rw [Work.compareJoin_sends other (holds.trans free), Work.join_giveFloor]
      exact w.setJoin_join_self f _ bound
    have unheld (none : w.entryOf (.floor f) = none) : w.nodeInFlight (.floor f) = false := by
      rw [State.nodeInFlight, none]
    refine ⟨fun met => ?_, fun other busy => ?_, sends, fun other none => ⟨sends other (unheld none), ?_⟩,
      fun g apart => ?_⟩
    · rw [Work.compareJoin_met met]; exact w.setJoin_join_self f _ bound
    · rw [Work.compareJoin_holds other (holds.trans busy)]; exact w.setJoin_join_self f _ bound
    · rw [Work.compareJoin_sends other (holds.trans (unheld none))]
      exact Work.giveFloor_rbm_of_none none
    · unfold Work.compareJoin
      dsimp only
      split
      · exact w.setJoin_join_ne f g _ (Ne.symm apart)
      · split
        · exact w.setJoin_join_ne f g _ (Ne.symm apart)
        · rw [Work.join_giveFloor]; exact w.setJoin_join_ne f g _ (Ne.symm apart)

end Sys2Proof.Claims
end

section
/-! PROOFS. Chapter 6: the STATUS reply (R123, R124, R186). -/

namespace Sys2Proof.Machine

variable {n : Reaching} {w u v : Work}

/-! ## The flags of the channels and of the player -/

/-- R124: the flags that a reply records are as they were. -/
def Work.SameFlags (w v : Work) : Prop :=
  v.ans.playerLost = w.ans.playerLost ∧
    ∀ c, (v.channel c).busy = (w.channel c).busy ∧ (v.channel c).fault = (w.channel c).fault

theorem Work.SameFlags.refl (w : Work) : w.SameFlags w := ⟨rfl, fun _ => ⟨rfl, rfl⟩⟩

theorem Work.SameFlags.trans (h : w.SameFlags u) (k : u.SameFlags v) : w.SameFlags v :=
  ⟨k.1.trans h.1, fun c => ⟨(k.2 c).1.trans (h.2 c).1, (k.2 c).2.trans (h.2 c).2⟩⟩

theorem Work.SameFlags.of_ans (h : v.ans.channels = w.ans.channels) (k : v.ans.playerLost = w.ans.playerLost) :
    w.SameFlags v := ⟨k, fun c => by unfold State.channel; rw [h]; exact ⟨rfl, rfl⟩⟩

theorem Channel.Move.flags {c : Nat} {r : Channel} (m : Channel.Move n w c r) :
    r.busy = (w.channel c).busy ∧ r.fault = (w.channel c).fault := by
  cases m with
  | cued _ _ _ _ hr => exact ⟨(congrArg Channel.busy hr :), (congrArg Channel.fault hr :)⟩
  | completed => exact ⟨rfl, rfl⟩
  | stopped => exact ⟨rfl, rfl⟩
  | freed => exact ⟨rfl, rfl⟩
  | unreserved => exact ⟨rfl, rfl⟩
  | taken => exact ⟨rfl, rfl⟩

theorem Runs.flags (h : Runs n w v) : w.SameFlags v :=
  h.keeps (P := fun u => w.SameFlags u) (fun u v m hu => hu.trans ⟨m.frame.1, fun c => by
    obtain same | moved := m.channel c
    · rw [same]; exact ⟨rfl, rfl⟩
    · exact moved.flags⟩) (.refl w)

theorem Work.SameFlags.setChannel (h : w.SameFlags u) (c : Nat) {r : Channel}
    (flags : r.busy = (u.channel c).busy ∧ r.fault = (u.channel c).fault) : w.SameFlags (u.setChannel c r) := by
  refine h.trans ⟨rfl, fun i => ?_⟩
  obtain same | ⟨rfl, same⟩ := Work.channel_of_view (w := u) (v := u.setChannel c r) (c := i) (i := c) (r := r) rfl
  · rw [same]; exact ⟨rfl, rfl⟩
  · rw [same]; exact flags

theorem Work.SameFlags.setProgram (h : w.SameFlags u) (k r) : w.SameFlags (u.setProgram k r) :=
  h.trans (.of_ans (by rw [Work.setProgram_ans]) (by rw [Work.setProgram_ans]))

theorem Work.SameFlags.reportChange (h : w.SameFlags u) (k m x y) : w.SameFlags (u.reportChange k m x y) :=
  h.trans (by unfold Work.reportChange; split <;> exact .refl _)

theorem Work.SameFlags.runs (h : w.SameFlags u) (k : Runs n u v) : w.SameFlags v := h.trans k.flags

theorem Work.Played.flags {k : ProgramKind} (h : w.Played k v) : w.SameFlags v := by
  cases h with
  | onward q hq view => exact .of_ans (congrArg View.channels view :) (congrArg View.playerLost view :)
  | cued q hq c hc r hr cmd view =>
    refine ⟨(congrArg View.playerLost view :), fun i => ?_⟩
    obtain same | ⟨rfl, same⟩ := Work.channel_of_view (c := i) (congrArg View.channels view :)
    · rw [same]; exact ⟨rfl, rfl⟩
    · rw [same]; exact ⟨(congrArg Channel.busy hr :), (congrArg Channel.fault hr :)⟩
  | completed finite q hq view =>
    refine ⟨(congrArg View.playerLost view :), fun i => ?_⟩
    obtain same | ⟨-, same⟩ := Work.channelsStopped_cases w k none i (congrArg View.channels view :)
    · rw [same]; exact ⟨rfl, rfl⟩
    · rw [same]; exact ⟨rfl, rfl⟩

theorem Work.SameFlags.slotComplete (h : w.SameFlags u) (k) : w.SameFlags (u.slotComplete k) :=
  h.trans (Work.MovedOn.beginSlot _ _ ((Work.MovedOn.refl u k).setProgram
    (r := { u.program k with phraseStarted := none, pauseUntil := none }) rfl)).flags

theorem Work.SameFlags.takeChannel (h : w.SameFlags u) (k c) : w.SameFlags (u.takeChannel k c) := by
  unfold Work.takeChannel
  dsimp only
  refine Work.SameFlags.runs (n := { turn := fun _ => True }) (Work.SameFlags.setProgram (Work.SameFlags.setChannel h c ?_)
    _ _) (Runs.placeProgram (.refl _) k trivial)
  exact ⟨rfl, rfl⟩

theorem Work.SameFlags.stopCompletion (h : w.SameFlags u) (c) : w.SameFlags (u.stopCompletion c) := by
  unfold Work.stopCompletion
  dsimp only
  have ended : w.SameFlags (u.endHolder (u.channel c).holder) ∧
      (u.endHolder (u.channel c).holder).channel c = u.channel c := by
    unfold Work.endHolder
    split
    · exact ⟨h.setProgram _ _, by rw [State.channel, Work.endStop, Work.setProgram_ans]; rfl⟩
    · exact ⟨h, rfl⟩
  have freed := ended.1.setChannel c (r := (u.channel c).freed) (by rw [ended.2]; exact ⟨rfl, rfl⟩)
  split
  · exact freed.takeChannel _ _
  · exact freed

theorem Work.SameFlags.faultChannel (h : w.SameFlags u) (c condition) : w.SameFlags (u.faultChannel c condition) := by
  unfold Work.faultChannel
  dsimp only
  split
  · exact h
  have faulted : w.SameFlags ((u.setChannel c ((u.channel c).becomeFaulted condition)).reportChange .channelFault c
      (u.channel c).faultCondition ((u.channel c).becomeFaulted condition).faultCondition) := by
    refine Work.SameFlags.reportChange (Work.SameFlags.setChannel h c ?_) _ _ _ _
    exact ⟨rfl, rfl⟩
  split
  · refine Work.SameFlags.runs (n := {}) (Work.SameFlags.setProgram (Work.SameFlags.trans ?_ (.of_ans rfl rfl)) _ _)
      ((Runs.refl _).returnProgram _)
    split
    · exact faulted.trans (.of_ans rfl rfl)
    · exact faulted
  · split
    · exact (faulted.setProgram _ _).trans (.of_ans rfl rfl)
    · exact faulted.setProgram _ _
  · exact faulted

theorem Work.SameFlags.judgeChannel (h : w.SameFlags u) (c) : w.SameFlags (u.judgeChannel c) := by
  unfold Work.judgeChannel
  dsimp only
  have faults := h.faultChannel c true
  split
  · unfold Work.updateFault
    dsimp only
    split
    · refine Work.SameFlags.reportChange (Work.SameFlags.setChannel h c ?_) _ _ _ _
      exact ⟨rfl, rfl⟩
    · exact h
  · split
    · exact faults
    · exact h
  · split
    · exact faults
    · split
      · split
        · split
          · exact faults
          · exact h
        · split
          · have judged : w.SameFlags (u.setChannel c { u.channel c with awaiting := .nothing, issuedAt := none }) :=
              h.setChannel c ⟨rfl, rfl⟩
            split
            · exact (judged.slotComplete _).runs (Runs.runDuePass (n := {}) (.refl _))
            · exact judged
          · exact h
      · exact h
  · split
    · exact faults
    · split
      · split
        · exact faults
        · exact h
      · split
        · exact h.stopCompletion c
        · exact h

theorem Work.SameFlags.foldl {α : Type} {f : Work → α → Work} (l : List α) (h : w.SameFlags u)
    (step : ∀ u x, w.SameFlags u → w.SameFlags (f u x)) : w.SameFlags (l.foldl f u) :=
  List.foldlRecOn (motive := fun v : Work => w.SameFlags v) _ _ h fun v hv x _ => step v x hv

/-- R113, R124: the arbiter and the end of the event that follow a reply. -/
theorem Work.runs_afterReply (w : Work) : Runs { turn := fun _ => True } w w.arbiter.endEvent :=
  Runs.endEvent ((Runs.refl w).arbiter fun _ => trivial) trivial trivial

/-! ## A reply recorded (R124) -/

theorem Work.setPlayerLost_ans (w : Work) (x : Bool) : (w.setPlayerLost x).ans = { w.ans with playerLost := x } := by
  unfold Work.setPlayerLost
  exact congrArg State.ans (Work.reportChange_toState _ _ _ _ _)

theorem Work.takeStatus_bad {r : StatusReply} (bad : badStatus r = true) :
    (w.setPlayerLost true).SameFlags (w.takeStatus r) := by
  unfold Work.takeStatus
  rw [if_pos bad]
  exact ((Work.SameFlags.refl _).foldl channelIndices fun u c h => h.faultChannel c false).runs (Work.runs_afterReply _)

theorem Work.takeStatus_good {r : StatusReply} (good : badStatus r = false) :
    ((w.setPlayerLost false).recordStatus r).SameFlags (w.takeStatus r) := by
  unfold Work.takeStatus
  rw [if_neg (by simp [good])]
  exact ((Work.SameFlags.refl _).foldl channelIndices fun u c h => h.judgeChannel c).runs (Work.runs_afterReply _)

theorem badStatus_iff {r : StatusReply} : badStatus r = true ↔
    r.ready.getLsbD 0 = false ∨ (r.busy = 0xFF ∧ r.fault = 0xFF ∧ r.ready = 0xFF ∧ r.spare = 0xFF) := by
  simp [badStatus, and_assoc]

end Sys2Proof.Machine
end

section
/-! PROOFS. Chapter 6: the STATUS reply settled. -/

namespace Sys2Proof.Machine

theorem statusBegins_iff {p : Plp} : p.statusBegins = true ↔ p.commands = [] ∨ p.drained = true := by
  rw [Plp.statusBegins, Bool.or_eq_true, List.isEmpty_iff, or_comm]

/-- R123, R186: the transaction recorded, before its reply is taken. -/
def Work.asked (w : Work) : Work := w.setPlp { w.plp with lastSent := some statusBytes }

/-- R123: whether the list is empty, recorded at the end of the transaction. -/
def Work.noted (w : Work) : Work := w.setPlp { w.plp with drained := w.plp.commands.isEmpty }

theorem Work.statusTransaction_eq (w : Work) (r : StatusReply) :
    w.statusTransaction r = (w.asked.takeStatus r).noted := by
  unfold Work.statusTransaction Work.noted Work.asked
  dsimp only

/-- R123, R124: what a STATUS transaction records of itself. -/
theorem Work.plp_statusTransaction (w : Work) (r : StatusReply) :
    (w.statusTransaction r).plp.lastSent = some statusBytes ∧
      (w.statusTransaction r).plp.drained = (w.statusTransaction r).plp.commands.isEmpty := by
  have kept : (w.asked.takeStatus r).plp.lastSent = some statusBytes :=
    ((Leads.refl (n := {}) w.asked).takeStatus r).untouched.lastSent rfl
  rw [Work.statusTransaction_eq]
  generalize w.asked.takeStatus r = v at kept ⊢
  exact ⟨kept, rfl⟩

/-- R124: the flags after a STATUS reply. -/
theorem Work.flags_statusTransaction (w : Work) (r : StatusReply) :
    (badStatus r = true → (w.statusTransaction r).ans.playerLost = true ∧
      ∀ c < 6, ((w.statusTransaction r).channel c).busy = (w.channel c).busy ∧
        ((w.statusTransaction r).channel c).fault = (w.channel c).fault) ∧
    (badStatus r = false → (w.statusTransaction r).ans.playerLost = false ∧
      ∀ c < 6, ((w.statusTransaction r).channel c).busy = r.busy.getLsbD c ∧
        ((w.statusTransaction r).channel c).fault = r.fault.getLsbD c) := by
  have bad := w.asked.takeStatus_bad (r := r)
  have good := w.asked.takeStatus_good (r := r)
  have asked (c : Nat) : w.asked.channel c = w.channel c := rfl
  rw [Work.statusTransaction_eq]
  generalize w.asked.takeStatus r = v at bad good ⊢
  have noted (c : Nat) : v.noted.channel c = v.channel c := rfl
  constructor
  · intro h
    obtain ⟨lost, flags⟩ := bad h
    have before := w.asked.setPlayerLost_ans true
    refine ⟨lost.trans (by rw [before]), fun c _ => ?_⟩
    have same : (w.asked.setPlayerLost true).channel c = w.channel c := by rw [State.channel, before]; rfl
    rw [noted, ← same]
    exact flags c
  · intro h
    obtain ⟨lost, flags⟩ := good h
    have before := w.asked.setPlayerLost_ans false
    refine ⟨lost.trans ?_, fun c bound => ?_⟩
    · show (w.asked.setPlayerLost false).ans.playerLost = false
      rw [before]
    · have recorded : ((w.asked.setPlayerLost false).recordStatus r).channel c =
          recordFlags r c ((w.asked.setPlayerLost false).channel c) := vget_vmapIdx _ _ _ _ bound
      have now := flags c
      rw [recorded] at now
      rw [noted]
      exact now

end Sys2Proof.Machine

namespace Sys2Proof.Claims

open Sys2Proof Sys2Proof.Machine

/-- A STATUS transaction that has begun is an event of the supply. -/
theorem finish_statusTransaction (s : State) (r : StatusReply) :
    SupplyOnly s ((Work.begin s).statusTransaction r).finish ∧ LinkKept s ((Work.begin s).statusTransaction r).finish ∧
      ((Work.begin s).statusTransaction r).finish.plp = ((Work.begin s).statusTransaction r).plp ∧
      ((Work.begin s).statusTransaction r).finish.ans = ((Work.begin s).statusTransaction r).ans := by
  have leads : Leads { player := true } (Work.begin s) ((Work.begin s).statusTransaction r) :=
    Leads.statusTransaction rfl r
  generalize (Work.begin s).statusTransaction r = w at leads ⊢
  have others := w.finish_others
  have unposted : w.hlc.unposted s.hlc := leads.untouched.link rfl
  exact ⟨supplyOnly_of_reach leads ⟨rfl, rfl, rfl, rfl, rfl⟩ others, linkKept_finish unposted,
    (congrArg State.plp others :), (congrArg State.ans others :)⟩

/-- Settles O51. -/
theorem statusRecordsTheFlags : Obligations.StatusRecordsTheFlags := by
  intro s r started bad
  refine ⟨fun waiting undrained => ?_, fun begins => ?_⟩
  · have idle : s.plp.statusBegins = false := Bool.not_eq_true _ ▸ fun begins => by
      obtain empty | drained := statusBegins_iff.mp begins
      · exact waiting empty
      · rw [undrained] at drained; cases drained
    exact ⟨congrArg Host.Outcome.next (onEvent_not idle fun w => w.statusTransaction r),
      congrArg Host.Outcome.next (onEvent_not (by rw [idle, Bool.false_and]) fun w => w.statusTransaction r)⟩
  · have occurs : exec (.status r) s = .next ((Work.begin s).statusTransaction r).finish :=
      congrArg Host.Outcome.next (onEvent_occurs started (statusBegins_iff.mpr begins) fun w => w.statusTransaction r)
    obtain ⟨supply, link, plp, ans⟩ := finish_statusTransaction s r
    obtain ⟨sent, drained⟩ := (Work.begin s).plp_statusTransaction r
    obtain ⟨lost, heard⟩ := (Work.begin s).flags_statusTransaction r
    refine ⟨_, occurs, supply, link, ?_⟩
    obtain ⟨t, ht⟩ : ∃ t, t = ((Work.begin s).statusTransaction r).finish := ⟨_, rfl⟩
    obtain ⟨w, hw⟩ : ∃ w, w = (Work.begin s).statusTransaction r := ⟨_, rfl⟩
    rw [← ht] at plp ans ⊢
    rw [← hw] at plp ans sent drained lost heard
    have channel (c : Nat) : t.channel c = w.channel c := by rw [State.channel, ans]; rfl
    refine ⟨by rw [plp]; exact sent, by rw [plp]; exact drained, fun h => ?_, fun h => ?_⟩
    · obtain ⟨lost, flags⟩ := lost (badStatus_iff.mpr h)
      exact ⟨by rw [ans]; exact lost, fun c bound => by rw [channel]; exact flags c bound⟩
    · obtain ⟨found, flags⟩ := heard (Bool.not_eq_true _ ▸ fun bad => h (badStatus_iff.mp bad))
      exact ⟨by rw [ans]; exact found, fun c bound => by rw [channel]; exact flags c bound⟩

end Sys2Proof.Claims
end

section
/-! PROOFS. Chapter 6: the slots that one event begins (R117, R118). -/

namespace Sys2Proof.Machine

variable {w : Work} {k : ProgramKind}

/-! ## A program's record put in place -/

/-- A program's record replaced, its state and channel kept. -/
def Work.putProgram (w : Work) (k : ProgramKind) (r : Program) : Work :=
  w.setAns { w.ans with programs := vset w.ans.programs k.priority r }

theorem Work.program_putProgram (w : Work) (k : ProgramKind) (r : Program) : (w.putProgram k r).program k = r :=
  vget_vset_self _ _ _ _ (ProgramKind.priority_lt k)

theorem Work.program_putProgram_ne (w : Work) {k j : ProgramKind} (r : Program) (h : j ≠ k) :
    (w.putProgram k r).program j = w.program j :=
  vget_vset_ne _ _ _ _ _ fun same => h (ProgramKind.priority_injective same).symm

theorem Work.setProgram_putProgram {r q : Program} (h : r.Onward q) :
    (w.putProgram k r).setProgram k q = w.putProgram k q := by
  have state : q.state = r.state := (congrArg Program.state h :)
  have channel : q.channel = r.channel := (congrArg Program.channel h :)
  unfold Work.setProgram
  rw [Work.program_putProgram, if_pos ⟨state.symm, channel.symm⟩]
  unfold Work.putProgram
  show w.setAns { w.ans with programs := vset (vset w.ans.programs k.priority r) k.priority q } = _
  rw [vset_vset]

theorem Work.putProgram_self (w : Work) (k : ProgramKind) : w.putProgram k (w.program k) = w := by
  unfold Work.putProgram
  rw [State.program, vset_vget]
  rfl

/-- R111: a program that moves on in its template reads the same template. -/
theorem Work.templateOf_putProgram {r : Program} (h : (w.program k).Onward r) :
    (w.putProgram k r).templateOf k = w.templateOf k := by
  have template : r.template = (w.program k).template := (congrArg Program.template h :)
  unfold State.templateOf
  rw [Work.program_putProgram, template]
  rfl

/-! ## One slot (R117) -/

/-- R117: slot `i` of the template that a program reads. -/
def State.slotAt (s : State) (k : ProgramKind) (i : Nat) : Option Slot := templateSlot s.map (s.templateOf k) i

/-- R117: whether a slot is passed over. -/
def State.skips (s : State) (k : ProgramKind) (i : Nat) : Prop :=
  s.slotAt k i = some .originFloor ∧ s.rgc.latestOrigin = none

/-- R117: whether a slot plays a phrase. -/
def State.sounds (s : State) (k : ProgramKind) (i n : Nat) : Prop :=
  s.slotAt k i = some (.phrase n) ∨ s.slotAt k i = some (.tone n) ∨
    (s.slotAt k i = some .originFloor ∧ ∃ o, s.rgc.latestOrigin = some o ∧ n = labelPhrase s.map o)

/-- R117: a phrase issued on a channel. -/
def Work.sounding (w : Work) (k : ProgramKind) (r : Program) (c n : Nat) : Work :=
  ((w.putProgram k r).issue (.play c n)).setChannel c
    { w.channel c with awaiting := .phrase, issuedAt := some w.uptime }

section
variable {r : Program} (h : (w.program k).Onward r) (m i : Nat)
include h

theorem Work.beginSlot_skips (skips : w.skips k i) :
    (w.putProgram k r).beginSlot (m + 1) k i = (w.putProgram k { r with slot := i }).beginSlot m k (i + 1) := by
  obtain ⟨slot, none⟩ := skips
  conv_lhs => unfold Work.beginSlot
  rw [w.templateOf_putProgram h, show templateSlot (w.putProgram k r).map _ _ = _ from slot]
  dsimp only
  rw [show (w.putProgram k r).rgc.latestOrigin = _ from none]
  dsimp only
  rw [Work.enterSlot, Work.program_putProgram, Work.setProgram_putProgram (by exact rfl)]

theorem Work.playPhrase_putProgram {c : Nat} (channel : (w.program k).channel = some c) (n : Nat) :
    ((w.putProgram k r).enterSlot k i).playPhrase k n =
      w.sounding k { r with slot := i, phraseStarted := some w.uptime, played := true } c n := by
  have own : r.channel = some c := (congrArg Program.channel h :).trans channel
  rw [Work.enterSlot, Work.program_putProgram, Work.setProgram_putProgram (by exact rfl)]
  unfold Work.playPhrase
  dsimp only
  rw [Work.program_putProgram, Work.setProgram_putProgram (by exact rfl), own]
  rfl

theorem Work.beginSlot_sounds {c n : Nat} (channel : (w.program k).channel = some c) (sounds : w.sounds k i n) :
    (w.putProgram k r).beginSlot (m + 1) k i =
      w.sounding k { r with slot := i, phraseStarted := some w.uptime, played := true } c n := by
  unfold Work.beginSlot
  rw [w.templateOf_putProgram h]
  obtain slot | slot | ⟨slot, o, origin, label⟩ := sounds
  · rw [show templateSlot (w.putProgram k r).map _ _ = _ from slot]
    exact Work.playPhrase_putProgram h i channel n
  · rw [show templateSlot (w.putProgram k r).map _ _ = _ from slot]
    exact Work.playPhrase_putProgram h i channel n
  · rw [show templateSlot (w.putProgram k r).map _ _ = _ from slot]
    dsimp only
    rw [show (w.putProgram k r).rgc.latestOrigin = _ from origin, label]
    exact Work.playPhrase_putProgram h i channel _

theorem Work.beginSlot_pauses {t : Nat} (slot : w.slotAt k i = some (.pause t)) :
    (w.putProgram k r).beginSlot (m + 1) k i =
      w.putProgram k { r with slot := i, pauseUntil := some (w.uptime + t), played := true } := by
  unfold Work.beginSlot
  rw [w.templateOf_putProgram h, show templateSlot (w.putProgram k r).map _ _ = _ from slot]
  dsimp only
  rw [Work.program_putProgram, Work.setProgram_putProgram (by exact rfl)]
  rfl

end

theorem Program.repeated_onward (p : Program) (k : ProgramKind) : p.Onward (p.repeated k) := by
  unfold Program.repeated
  split <;> rfl

section
variable {r : Program} (h : (w.program k).Onward r) (m i : Nat) (slot : w.slotAt k i = none)
include h slot

theorem Work.beginSlot_completes (finite : endless k = false) (last : r.repeatsLeft ≤ 1) :
    (w.putProgram k r).beginSlot (m + 1) k i = (w.putProgram k { r with repeatsLeft := 0 }).completeProgram k := by
  have repeated : r.repeated k = { r with repeatsLeft := 0 } := by
    rw [Program.repeated, finite, if_neg (by decide), Nat.sub_eq_zero_of_le last]
  unfold Work.beginSlot
  rw [w.templateOf_putProgram h, show templateSlot (w.putProgram k r).map _ _ = _ from slot]
  dsimp only
  rw [Work.program_putProgram, repeated, if_pos ⟨finite, rfl⟩, Work.setProgram_putProgram (by exact rfl)]

/-- R118: what is left of the repetitions when one ends. -/
def leftAfter (k : ProgramKind) (n : Nat) : Nat := if endless k then n else n - 1

omit h slot in
theorem Program.repeated_eq (r : Program) (k : ProgramKind) :
    r.repeated k = { r with repeatsLeft := leftAfter k r.repeatsLeft } := by
  unfold Program.repeated leftAfter
  split <;> rfl

omit h slot in
theorem not_last {n : Nat} (more : endless k = true ∨ 1 < n) : ¬ (endless k = false ∧ leftAfter k n = 0) := by
  rintro ⟨finite, none⟩
  rw [leftAfter, finite, if_neg (by decide)] at none
  obtain forever | more := more
  · rw [finite] at forever; cases forever
  · omega

theorem Work.beginSlot_repeats (more : endless k = true ∨ 1 < r.repeatsLeft) (played : r.played = true) :
    (w.putProgram k r).beginSlot (m + 1) k i =
      (w.putProgram k { r with repeatsLeft := leftAfter k r.repeatsLeft, played := false }).beginSlot m k 0 := by
  conv_lhs => unfold Work.beginSlot
  rw [w.templateOf_putProgram h, show templateSlot (w.putProgram k r).map _ _ = _ from slot]
  dsimp only
  rw [Work.program_putProgram, Program.repeated_eq]
  dsimp only
  rw [if_neg (not_last more), if_pos played, Work.setProgram_putProgram (by exact rfl)]

theorem Work.beginSlot_silent (more : endless k = true ∨ 1 < r.repeatsLeft) (unplayed : r.played = false) :
    (w.putProgram k r).beginSlot (m + 1) k i =
      w.putProgram k { r with
        repeatsLeft := leftAfter k r.repeatsLeft, slot := 0, pauseUntil := some (w.uptime + 1) } := by
  unfold Work.beginSlot
  rw [w.templateOf_putProgram h, show templateSlot (w.putProgram k r).map _ _ = _ from slot]
  dsimp only
  rw [Work.program_putProgram, Program.repeated_eq]
  dsimp only
  rw [if_neg (not_last more), if_neg (by rw [unplayed]; decide), Work.setProgram_putProgram (by exact rfl)]
  rfl

end

/-! ## The slots passed over (R117) -/

/-- R117: the step that stands when slots from `i` to before `j` have been passed over. -/
def standing (slot i j : Nat) : Nat := if j = i then slot else j - 1

theorem Work.beginSlot_run {m j : Nat} : ∀ {i : Nat} {r : Program}, (w.program k).Onward r → i ≤ j → j ≤ i + m →
    (∀ x, i ≤ x → x < j → w.skips k x) →
    (w.putProgram k r).beginSlot m k i =
      (w.putProgram k { r with slot := standing r.slot i j }).beginSlot (i + m - j) k j := by
  induction m with
  | zero =>
    intro i r h low high skips
    obtain rfl : i = j := by omega
    rw [standing, if_pos rfl, Nat.add_zero, Nat.sub_self]
  | succ m ih =>
    intro i r h low high skips
    by_cases here : j = i
    · subst here
      rw [standing, if_pos rfl, show j + (m + 1) - j = m + 1 by omega]
    · have onward : (w.program k).Onward { r with slot := i } := h.trans rfl
      rw [w.beginSlot_skips h m i (skips i (Nat.le_refl i) (by omega)),
        ih onward (by omega) (by omega) fun x hx => skips x (by omega)]
      have slot : standing i (i + 1) j = standing r.slot i j := by
        rw [standing, standing, if_neg here]
        split <;> omega
      rw [slot, show i + 1 + m - j = i + (m + 1) - j by omega]

end Sys2Proof.Machine
end

section
/-! PROOFS. Chapter 6: the end of a pause (R117, R118). -/

namespace Sys2Proof.Machine

variable {w : Work} {k : ProgramKind}

/-! ## The slot that a pause ends in -/

/-- R117: the slot that follows a pause: slot 0 after a silent second. -/
def State.firstSlot (s : State) (k : ProgramKind) : Nat := if (s.program k).played then (s.program k).slot + 1 else 0

/-- R117: the slots that are reached by passing over those before them. -/
def State.reaches (s : State) (k : ProgramKind) (i : Nat) : Prop :=
  s.firstSlot k ≤ i ∧ i ≤ s.firstSlot k + 12 ∧ ∀ j, s.firstSlot k ≤ j → j < i → s.skips k j

/-- R117: a program's record at the end of a pause. -/
def Program.resumed (x : Program) : Program :=
  { x with pauseUntil := none, phraseStarted := if x.played then none else x.phraseStarted }

def Work.resumeSlots (w : Work) (k : ProgramKind) : Work :=
  (w.putProgram k (w.program k).resumed).beginSlot slotBound k (w.firstSlot k)

theorem Work.pauseEnds_eq (w : Work) (k : ProgramKind) : w.pauseEnds k = (w.resumeSlots k).runDuePass.endEvent := by
  have put {q : Program} (h : (w.program k).Onward q) : w.setProgram k q = w.putProgram k q := by
    conv_lhs => rw [← w.putProgram_self k]
    exact Work.setProgram_putProgram h
  have resumes : (if (w.program k).played then w.slotComplete k
      else (w.setProgram k { w.program k with pauseUntil := none }).beginSlot slotBound k 0) = w.resumeSlots k := by
    unfold Work.resumeSlots Program.resumed State.firstSlot
    split
    next => rw [Work.slotComplete, put (by exact rfl)]
    next => rw [put (by exact rfl)]
  rw [← resumes]
  rfl

/-- R117: the program stands before slot `i` with record `r`, and slot `i` begins in the same event. -/
def Work.arrives (w : Work) (k : ProgramKind) (i : Nat) (r : Program) : Prop :=
  (w.program k).Onward r ∧ ∃ m, w.resumeSlots k = (w.putProgram k r).beginSlot (m + 1) k i

theorem Program.resumed_onward (x : Program) : x.Onward x.resumed := rfl

theorem Work.arrives_first {i : Nat} (h : w.reaches k i) :
    w.arrives k i { (w.program k).resumed with slot := standing (w.program k).slot (w.firstSlot k) i } := by
  obtain ⟨low, high, skips⟩ := h
  refine ⟨rfl, 31 + w.firstSlot k - i, ?_⟩
  rw [Work.resumeSlots, Work.beginSlot_run (Program.resumed_onward _) low (by unfold slotBound; omega) skips,
    show w.firstSlot k + slotBound - i = 31 + w.firstSlot k - i + 1 by unfold slotBound; omega]
  rfl

theorem Work.arrives_again {e i : Nat} (played : (w.program k).played = true) (h : w.reaches k e)
    (last : w.slotAt k e = none) (more : endless k = true ∨ 1 < (w.program k).repeatsLeft) (high : i ≤ 12)
    (skips : ∀ j < i, w.skips k j) :
    w.arrives k i { (w.program k).resumed with
      slot := standing (standing (w.program k).slot (w.firstSlot k) e) 0 i,
      repeatsLeft := leftAfter k (w.program k).repeatsLeft, played := false } := by
  obtain ⟨low, far, over_⟩ := h
  refine ⟨rfl, 30 + w.firstSlot k - e - i, ?_⟩
  have ends := Work.beginSlot_run (m := slotBound) (Program.resumed_onward _) low (by unfold slotBound; omega) over_
  rw [show w.firstSlot k + slotBound - e = 31 + w.firstSlot k - e + 1 by unfold slotBound; omega] at ends
  have repeats := Work.beginSlot_repeats
    (r := { (w.program k).resumed with slot := standing (w.program k).resumed.slot (w.firstSlot k) e }) rfl (31 + w.firstSlot k - e) e last more played
  have run := Work.beginSlot_run (m := 31 + w.firstSlot k - e) (i := 0) (j := i) (r := { (w.program k).resumed with
    slot := standing (w.program k).resumed.slot (w.firstSlot k) e,
    repeatsLeft := leftAfter k (w.program k).repeatsLeft, played := false }) rfl (Nat.zero_le i) (by omega)
    fun x _ => skips x
  rw [show 0 + (31 + w.firstSlot k - e) - i = 30 + w.firstSlot k - e - i + 1 by omega] at run
  exact ends.trans (repeats.trans run)

/-! ## What the slot does -/

/-- R117: the record of the repetition in which slot `i` begins, as the program had it before. -/
def Program.begun (x : Program) : Program :=
  if x.played then { x with phraseStarted := none } else { x with played := true }

/-- R117, R118: slot `i` begins, in this repetition or the next. -/
def State.begins (s : State) (k : ProgramKind) (i : Nat) (y : Program) : Prop :=
  (s.reaches k i ∧ y = (s.program k).begun) ∨
    ((s.program k).played = true ∧ (∃ e, s.reaches k e ∧ s.slotAt k e = none) ∧
      (endless k = true ∨ 1 < (s.program k).repeatsLeft) ∧ i ≤ 12 ∧ (∀ j < i, s.skips k j) ∧
      y = { (s.program k).begun with repeatsLeft := leftAfter k (s.program k).repeatsLeft })

theorem State.begins.arrives {i : Nat} {y : Program} (h : w.begins k i y) :
    ∃ r, w.arrives k i r ∧ { r with slot := i, played := true } = { y with slot := i, pauseUntil := none } := by
  obtain ⟨reached, begun⟩ | ⟨played, ⟨e, reached, last⟩, more, high, skips, begun⟩ := h
  · refine ⟨_, Work.arrives_first reached, ?_⟩
    subst begun
    unfold Program.begun Program.resumed
    cases (w.program k).played <;> simp
  · refine ⟨_, Work.arrives_again played reached last more high skips, ?_⟩
    subst begun
    unfold Program.begun Program.resumed
    simp [played]

/-- R118: a repetition that has played nothing ends at `i`, with `n` of repeats_left before it is counted and `b` the
step before it began. -/
def State.barren (s : State) (k : ProgramKind) (i n b : Nat) : Prop :=
  s.slotAt k i = none ∧
    (((s.program k).played = false ∧ s.reaches k i ∧ n = (s.program k).repeatsLeft ∧ b = (s.program k).slot) ∨
      ((s.program k).played = true ∧ s.reaches k (b + 1) ∧ s.slotAt k (b + 1) = none ∧
        (endless k = true ∨ 1 < (s.program k).repeatsLeft) ∧ i ≤ 12 ∧ (∀ j < i, s.skips k j) ∧
        n = leftAfter k (s.program k).repeatsLeft))

theorem State.barren.arrives {i n b : Nat} (h : w.barren k i n b) :
    w.arrives k i { (w.program k).resumed with
      slot := if i = 0 then b else i - 1, repeatsLeft := n, played := false } := by
  obtain ⟨-, ⟨played, reached, rfl, rfl⟩ | ⟨played, reached, last, more, high, skips, rfl⟩⟩ := h
  · have arrives := Work.arrives_first reached
    have first : w.firstSlot k = 0 := by rw [State.firstSlot, played, if_neg (by decide)]
    rw [first, standing] at arrives
    have record : ({ (w.program k).resumed with
        slot := if i = 0 then (w.program k).slot else i - 1, repeatsLeft := (w.program k).repeatsLeft, played := false } :
        Program) = { (w.program k).resumed with slot := if i = 0 then (w.program k).slot else i - 1 } := by
      unfold Program.resumed
      simp [played]
    rw [record]
    exact arrives
  · have arrives := Work.arrives_again played reached last more high skips
    have first : w.firstSlot k = (w.program k).slot + 1 := by rw [State.firstSlot, played, if_pos rfl]
    have before : standing (w.program k).slot (w.firstSlot k) (b + 1) = b := by
      rw [standing, first]
      split <;> omega
    rw [before, standing] at arrives
    exact arrives

/-- R118: a repetition ends at `i`, having played or not. -/
def State.finished (s : State) (k : ProgramKind) (i n b : Nat) : Prop :=
  s.barren k i n b ∨
    ((s.program k).played = true ∧ s.reaches k i ∧ s.slotAt k i = none ∧ n = (s.program k).repeatsLeft ∧
      b = (s.program k).slot)

theorem State.finished.arrives {i n b : Nat} (h : w.finished k i n b) :
    w.slotAt k i = none ∧ ∃ r, w.arrives k i r ∧ r.slot = (if i = 0 then b else i - 1) ∧ r.repeatsLeft = n := by
  obtain barren | ⟨played, reached, last, rfl, rfl⟩ := h
  · exact ⟨barren.1, _, barren.arrives, rfl, rfl⟩
  · have first : w.firstSlot k = (w.program k).slot + 1 := by rw [State.firstSlot, played, if_pos rfl]
    refine ⟨last, _, Work.arrives_first reached, ?_, rfl⟩
    show standing _ _ _ = _
    rw [standing, first]
    have low := reached.1
    rw [first] at low
    split <;> split <;> omega

end Sys2Proof.Machine
end

section
/-! PROOFS. Chapter 6: the end of a pause settled (R117, R118). -/

namespace Sys2Proof.Machine

variable {n : Reaching} {a w : Work} {k : ProgramKind} {c : Nat}

/-! ## A stopped program through the rest of its event -/

/-- R112, R118: a program that has been stopped, and its channel, stay so while no other program stands on the channel. -/
theorem Runs.stopped_stays (h : Runs {} a w) (state : (a.program k).state = .stopping)
    (alone : ∀ j, j ≠ k → (a.program j).channel ≠ some c)
    (ends : (a.channel c).state = .stopping ∧ (a.channel c).awaiting = .stop) :
    w.program k = a.program k ∧ (w.channel c).state = .stopping ∧ (w.channel c).awaiting = .stop := by
  have still := h.bystander (k := k) (by rw [state]; decide)
  refine ⟨still, ?_⟩
  refine (h.keeps (P := fun u => u.program k = a.program k ∧ (∀ j, j ≠ k → (u.program j).channel ≠ some c) ∧
    (u.channel c).state = .stopping ∧ (u.channel c).awaiting = .stop) (fun u v m hu => ?_) ⟨rfl, alone, ends⟩).2.2
  obtain ⟨record, alone, ends⟩ := hu
  have stopping : (u.program k).state = .stopping := by rw [record]; exact state
  refine ⟨?_, fun j other => ?_, ?_⟩
  · exact (((Runs.refl u).step m).bystander (by rw [stopping]; decide)).trans record
  · obtain same | moved := m.program j
    · rw [same]; exact alone j other
    generalize v.program j = r at moved
    have kept (q : Program) (hq : (u.program j).playing.Onward q) : q.channel = (u.program j).channel :=
      (congrArg Program.channel hq :)
    cases moved with
    | onward _ _ hq => rw [kept _ hq]; exact alone j other
    | completed _ _ _ q hq =>
      have channel : ((q.stopped j .completed).emptied).channel = q.channel := by
        unfold Program.stopped; dsimp only; split <;> rfl
      rw [channel, kept q hq]; exact alone j other
    | stopped _ _ _ reason => cases reason with
      | emptied no => exact no.elim
      | preempted _ no => exact no.elim
      | shed no => exact no.elim
    | floors no => exact no.elim
    | started no => exact no.elim
    | ended no => exact no.elim
    | taken no => exact no.elim
    | displaced _ no => exact no.elim
  · obtain same | moved := m.channel c
    · rw [same]; exact ends
    have unheld {j : ProgramKind} (waits : (u.program j).state = .waitingBudget) (hc : (u.program j).channel = some c) :
        False := by
      by_cases other : j = k
      · subst other; rw [stopping] at waits; cases waits
      · exact alone j other hc
    generalize v.channel c = r at moved
    cases moved with
    | cued j waits hc => exact (unheld waits hc).elim
    | completed j waits hc => exact (unheld waits hc).elim
    | stopped _ _ _ _ _ reason => cases reason with
      | emptied no => exact no.elim
      | preempted _ no => exact no.elim
      | shed no => exact no.elim
    | freed _ no => exact no.elim
    | unreserved => exact ends
    | taken _ no => exact no.elim

/-- A program that has no claim, and takes no turn, gets none. -/
theorem Runs.program_unclaimed (h : Runs n a w) (closed : ¬ n.doors) (unturned : ¬ n.turn k)
    (unclaimed : a.lbu.has (.program k) = false) : w.lbu.has (.program k) = false := by
  refine h.keeps (P := fun u => u.lbu.has (.program k) = false) (fun u v m hu => ?_) unclaimed
  cases m.claims closed with
  | same _ has => exact (has _).trans hu
  | requeued _ _ _ _ _ lbu => rw [lbu]; exact hu
  | placed _ lbu => rw [lbu, placing_has_ne _ fun d _ => by rintro ⟨⟩]; exact hu
  | cleared _ _ lbu => rw [lbu]; exact hu
  | dropped j _ lbu => rw [lbu, Lbu.has_drop, hu, Bool.and_false]
  | claimed j hn _ lbu =>
    rw [lbu, Lbu.has_place_ne _ fun same => unturned (by injection same with same; exact same ▸ hn)]
    exact hu

/-- A command once issued stays in the list. -/
theorem Runs.commands (h : Runs n a w) {x : PlayerCommand} (here : x ∈ a.plp.commands) : x ∈ w.plp.commands :=
  h.keeps (P := fun u => x ∈ u.plp.commands) (fun u v m hu => by
    obtain ⟨-, -, -, -, more, commands⟩ := m.frame
    rw [commands]; exact List.mem_append_left _ hu) here

/-! ## An event that only plays -/

theorem Program.completed_eq (p : Program) (k : ProgramKind) : (p.stopped k .completed).emptied =
    { p with
      state := .stopping, stopReason := some .completed, pauseUntil := none, phraseStarted := none, givenSet := 0,
      floorSet := 0 } := by
  unfold Program.stopped
  dsimp only
  split <;> rfl

/-- R118: a program that completes gives its floors up and its claim back, and its channel awaits the stop. -/
theorem Work.completeProgram_completes {u : Work} (channel : (u.program k).channel = some c) (bound : c < 6)
    (alone : ∀ j, j ≠ k → (u.program j).channel ≠ some c) :
    let t := (u.completeProgram k).runDuePass.endEvent
    t.program k = { u.program k with
      state := .stopping, stopReason := some .completed, pauseUntil := none, phraseStarted := none, givenSet := 0,
      floorSet := 0 } ∧
    .stop c ∈ t.plp.commands ∧ (t.channel c).state = .stopping ∧ (t.channel c).awaiting = .stop ∧
      t.lbu.has (.program k) = false := by
  intro t
  have view := u.view_completeProgram k
  obtain ⟨v, hv⟩ : ∃ v, v = u.completeProgram k := ⟨_, rfl⟩
  rw [← hv] at view
  have rest : Runs {} v t := by
    show Runs {} v (u.completeProgram k).runDuePass.endEvent
    rw [← hv]
    exact (Runs.refl v).runDuePass.endEvent trivial trivial
  have rows : v.ans.programs = _ := (congrArg View.programs view :)
  have record : v.program k = _ := Work.program_of_view_self rows
  rw [Program.completed_eq] at record
  have others : ∀ j, j ≠ k → v.program j = u.program j := fun j other => by
    rw [State.program, rows]
    exact vget_vset_ne _ _ _ _ _ fun same => other (ProgramKind.priority_injective same).symm
  have stopped : v.ans.channels = vset u.ans.channels c ((u.channel c).stopped k none u.uptime) := by
    refine Eq.trans (congrArg View.channels view :) ?_
    show u.channelsStopped k none = _
    rw [Work.channelsStopped, channel]
  have ends : v.channel c = (u.channel c).stopped k none u.uptime := by
    rw [State.channel, stopped]; exact vget_vset_self _ _ _ _ bound
  have issued : PlayerCommand.stop c ∈ v.plp.commands := by
    have commands : v.plp.commands = u.plp.commands ++ (u.program k).stops := (congrArg View.commands view :)
    rw [commands, Program.stops, channel]
    exact List.mem_append_right _ (List.mem_singleton.mpr rfl)
  have dropped : v.lbu.has (.program k) = false := by
    have lbu : v.lbu = u.lbu.drop (.program k) := (congrArg View.lbu view :)
    rw [lbu, Lbu.has_drop, decide_eq_false (not_not_intro rfl), Bool.false_and]
  obtain ⟨same, state, awaiting⟩ := rest.stopped_stays (k := k) (c := c) (by rw [record])
    (fun j other => by rw [others j other]; exact alone j other) (by rw [ends]; exact ⟨rfl, rfl⟩)
  exact ⟨same.trans record, rest.commands issued, state, awaiting, rest.program_unclaimed id id dropped⟩

/-- An event that gathers nothing ends as it stands. -/
theorem Work.finish_quiet (w : Work) (h : w.idle) :
    w.runDuePass.endEvent.finish = { w.toState with hlc := w.hlc.arbitrate } := by
  obtain ⟨-, -, -, -, nothing, -, -, -, -, conds⟩ := id h
  rw [Work.runDuePass, if_neg (by rw [nothing]; decide), Work.endEvent_idle w h, Work.finish_plain w conds]

theorem pauseDue_iff {s : State} : s.pauseDue k = true ↔
    (s.program k).state = .playing ∧ ∃ e, (s.program k).pauseUntil = some e ∧ e ≤ s.uptime := by
  rw [State.pauseDue, Bool.and_eq_true, decide_eq_true_iff, Option.any_eq_true]
  simp

section
variable {s : State} {i : Nat} {y : Program}

theorem State.begins.played (h : s.begins k i y) : y.played = true := by
  have begun : (s.program k).begun.played = true := by
    unfold Program.begun
    split
    next played => exact played
    next => rfl
  obtain ⟨-, rfl⟩ | ⟨-, -, -, -, -, rfl⟩ := h
  · exact begun
  · exact begun

/-- R117: a phrase that a pause ends in. -/
theorem pauseEnds_sounds {x : Nat} (begins : s.begins k i y) (sounds : s.sounds k i x)
    (channel : (s.program k).channel = some c) :
    ((Work.begin s).pauseEnds k).finish =
      { ((Work.begin s).sounding k { y with
          slot := i, pauseUntil := none, phraseStarted := some s.uptime, played := true } c x).toState with
        hlc := s.hlc.arbitrate } := by
  obtain ⟨r, ⟨onward, m, arrives⟩, record⟩ := State.begins.arrives (w := Work.begin s) begins
  have slots := arrives.trans (Work.beginSlot_sounds onward m i (by exact channel) (by exact sounds))
  have same : ({ r with slot := i, phraseStarted := some s.uptime, played := true } : Program) =
      { y with slot := i, pauseUntil := none, phraseStarted := some s.uptime, played := true } := by
    have := congrArg (fun p : Program => { p with phraseStarted := some s.uptime, played := true }) record
    exact this
  rw [Work.pauseEnds_eq, slots, Work.finish_quiet _ ⟨rfl, rfl, rfl, rfl, rfl, rfl, rfl, rfl, rfl, rfl⟩]
  rw [show (Work.begin s).uptime = s.uptime from rfl, same]
  rfl

theorem pauseEnds_pauses {t : Nat} (begins : s.begins k i y) (slot : s.slotAt k i = some (.pause t)) :
    ((Work.begin s).pauseEnds k).finish =
      { ((Work.begin s).putProgram k { y with
          slot := i, pauseUntil := some (s.uptime + t), played := true }).toState with
        hlc := s.hlc.arbitrate } := by
  obtain ⟨r, ⟨onward, m, arrives⟩, record⟩ := State.begins.arrives (w := Work.begin s) begins
  have slots := arrives.trans (Work.beginSlot_pauses onward m i (by exact slot))
  have same : ({ r with slot := i, pauseUntil := some (s.uptime + t), played := true } : Program) =
      { y with slot := i, pauseUntil := some (s.uptime + t), played := true } := by
    have := congrArg (fun p : Program => { p with pauseUntil := some (s.uptime + t), played := true }) record
    exact this
  rw [Work.pauseEnds_eq, slots, Work.finish_quiet _ ⟨rfl, rfl, rfl, rfl, rfl, rfl, rfl, rfl, rfl, rfl⟩]
  rw [show (Work.begin s).uptime = s.uptime from rfl, same]
  rfl

theorem pauseEnds_silent {x b : Nat} (barren : s.barren k i x b) (more : endless k = true ∨ 1 < x) :
    ((Work.begin s).pauseEnds k).finish =
      { ((Work.begin s).putProgram k { (s.program k).resumed with
          slot := 0, pauseUntil := some (s.uptime + 1), played := false, repeatsLeft := leftAfter k x }).toState with
        hlc := s.hlc.arbitrate } := by
  obtain ⟨onward, m, arrives⟩ := State.barren.arrives (w := Work.begin s) barren
  have slots := arrives.trans (Work.beginSlot_silent onward m i (by exact barren.1) (by exact more) rfl)
  rw [Work.pauseEnds_eq, slots, Work.finish_quiet _ ⟨rfl, rfl, rfl, rfl, rfl, rfl, rfl, rfl, rfl, rfl⟩]
  rfl

end

end Sys2Proof.Machine

namespace Sys2Proof.Claims

open Sys2Proof Sys2Proof.Machine

section
variable {s : State} {k : ProgramKind} {c : Nat}

/-- R118: the completion that a pause ends in. -/
theorem pauseEnds_completes {i x b : Nat} (finished : s.finished k i x b) (finite : endless k = false) (last : x ≤ 1)
    (channel : (s.program k).channel = some c) (bound : c < 6) (alone : ∀ j, j ≠ k → (s.program j).channel ≠ some c) :
    let t := ((Work.begin s).pauseEnds k).finish
    (t.program k).state = .stopping ∧ (t.program k).stopReason = some .completed ∧
      (t.program k).slot = (if i = 0 then b else i - 1) ∧ (t.program k).repeatsLeft = 0 ∧
      (t.program k).givenSet = 0 ∧ (t.program k).floorSet = 0 ∧ (t.program k).channel = some c ∧
      .stop c ∈ t.plp.commands ∧ (t.channel c).state = .stopping ∧ (t.channel c).awaiting = .stop ∧
      t.lbu.has (.program k) = false ∧ SupplyOnly s t := by
  intro t
  have leads : Leads {} (Work.begin s) ((Work.begin s).pauseEnds k) := Leads.pauseEnds k
  obtain ⟨none, r, ⟨onward, m, arrives⟩, slot, count⟩ := State.finished.arrives (w := Work.begin s) finished
  have slots := arrives.trans (Work.beginSlot_completes onward m i (by exact none) finite (by rw [count]; exact last))
  have own : r.channel = some c := (congrArg Program.channel onward :).trans channel
  have record := Work.program_putProgram (Work.begin s) k { r with repeatsLeft := 0 }
  obtain ⟨program, issued, state, awaiting, unclaimed⟩ := Work.completeProgram_completes (k := k)
    (u := (Work.begin s).putProgram k { r with repeatsLeft := 0 }) (by rw [record]; exact own) bound
    fun j other => by rw [Work.program_putProgram_ne _ _ other]; exact alone j other
  rw [← slots, ← Work.pauseEnds_eq] at program issued state awaiting unclaimed
  rw [record] at program
  have others := ((Work.begin s).pauseEnds k).finish_others
  have supply := supplyOnly_of_leads leads others
  change SupplyOnly s t at supply
  change { t with trc := _, hlc := _ } = _ at others
  generalize t = t at others supply ⊢
  generalize (Work.begin s).pauseEnds k = u at others program issued state awaiting unclaimed
  have ans : t.ans = u.ans := (congrArg State.ans others :)
  have plp : t.plp = u.plp := (congrArg State.plp others :)
  have lbu : t.lbu = u.lbu := (congrArg State.lbu others :)
  have now : t.program k = u.program k := by rw [State.program, ans]; rfl
  have there : t.channel c = u.channel c := by rw [State.channel, ans]; rfl
  rw [now, program, there, plp, lbu]
  exact ⟨rfl, rfl, slot, rfl, rfl, rfl, own, issued, state, awaiting, unclaimed, supply⟩

end

/-- Settles O49: the slot that the event ends in is reached over the slots it passes, and what it does there is the
program's record put in place, a phrase issued, or the completion. -/
theorem pauseEndsInTheNextSlot : Obligations.PauseEndsInTheNextSlot := by
  intro s k x slot skipped plays first reached left begun begins barren finished
  refine ⟨fun e c started playing until_ due channel bound => ?_, fun stays => ?_⟩
  · have occurs : exec (.pauseExpiry k) s = .next ((Work.begin s).pauseEnds k).finish :=
      congrArg Host.Outcome.next (onEvent_occurs started (pauseDue_iff.mpr ⟨playing, e, until_, due⟩) fun w => w.pauseEnds k)
    have link : LinkKept s ((Work.begin s).pauseEnds k).finish :=
      linkKept_finish ((Leads.pauseEnds (n := {}) (w := Work.begin s) k).untouched.link rfl)
    refine ⟨_, occurs, link, fun i n y hb hp => ?_, fun i n y hb hs => ?_, fun i n b hb more => ?_,
      fun i n b hf finite last alone => ?_⟩
    · rw [pauseEnds_sounds (s := s) (y := y) hb hp channel]
      have played : y.played = true := State.begins.played (s := s) (k := k) (i := i) hb
      refine ⟨(Work.program_putProgram _ _ _).trans ?_, rfl, vget_vset_self _ _ _ _ bound,
        fun j other => Work.program_putProgram_ne _ _ other, fun d other => vget_vset_ne _ _ _ _ _ (Ne.symm other), rfl, rfl⟩
      rw [← played]
    · rw [pauseEnds_pauses (s := s) (y := y) hb hs]
      have played : y.played = true := State.begins.played (s := s) (k := k) (i := i) hb
      refine ⟨(Work.program_putProgram _ _ _).trans ?_, fun j other => Work.program_putProgram_ne _ _ other, rfl, rfl, rfl⟩
      rw [← played]
    · rw [pauseEnds_silent (s := s) (x := n) (b := b) (i := i) hb more]
      exact ⟨Work.program_putProgram _ _ _, fun j other => Work.program_putProgram_ne _ _ other, rfl, rfl, rfl⟩
    · exact pauseEnds_completes (s := s) (i := i) (x := n) (b := b) hf finite last channel bound alone
  · refine congrArg Host.Outcome.next (onEvent_not (Bool.not_eq_true _ ▸ fun due => ?_) fun w => w.pauseEnds k)
    obtain ⟨playing, e, until_, due⟩ := pauseDue_iff.mp due
    obtain other | early := stays
    · exact other playing
    · exact Nat.not_lt.mpr due (early e until_)

end Sys2Proof.Claims
end

section
/-! PROOFS. Chapter 7: the end of a poll and the start of a cycle (R132, R135 to R137, R139, R146). -/

namespace Sys2Proof.Machine

variable {w v : Work} {s t : State}

/-! ## The node table -/

theorem NodeEntry.still_address (e : NodeEntry) : e.still.address = e.address := rfl

theorem addresses_of_still {l m : List NodeEntry} (h : l.map NodeEntry.still = m.map NodeEntry.still) :
    l.map NodeEntry.address = m.map NodeEntry.address := by
  have := congrArg (List.map NodeEntry.address) h
  simpa only [List.map_map, Function.comp_def, NodeEntry.still_address] using this

/-- An entry stands at an address when the table lists the address. -/
theorem State.entryAt_isSome (s : State) (a : Nat) :
    (s.entryAt a).isSome = decide (a ∈ s.rbm.nodes.map NodeEntry.address) := by
  rw [Bool.eq_iff_iff, decide_eq_true_iff, State.entryAt, List.find?_isSome, List.mem_map]
  simp only [decide_eq_true_eq]

theorem State.entryAt_isSome_congr (h : t.rbm.nodes.map NodeEntry.address = s.rbm.nodes.map NodeEntry.address) (a : Nat) :
    (t.entryAt a).isSome = (s.entryAt a).isSome := by
  rw [State.entryAt_isSome, State.entryAt_isSome, h]

/-- Payloads given to the nodes change the toggles and the payloads in flight alone. -/
theorem State.entryAt_still (h : t.rbm.nodes.map NodeEntry.still = s.rbm.nodes.map NodeEntry.still) {a : Nat}
    {e : NodeEntry} (here : s.entryAt a = some e) : ∃ e', t.entryAt a = some e' ∧ e'.still = e.still := by
  have find (l : List NodeEntry) : (l.map NodeEntry.still).find? (fun e => decide (e.address = a)) =
      (l.find? fun e => decide (e.address = a)).map NodeEntry.still := by
    rw [List.find?_map]; rfl
  have same := find t.rbm.nodes
  rw [h, find] at same
  rw [show s.rbm.nodes.find? _ = some e from here] at same
  obtain ⟨e', found, still⟩ := Option.map_eq_some_iff.mp same.symm
  exact ⟨e', found, still⟩

theorem Work.entryAt_setEntry {a : Nat} {e r : NodeEntry} (here : w.entryAt a = some e) (address : r.address = a) :
    (w.setEntry r).entryAt a = some r := by
  show (w.rbm.nodes.map fun x => if x.address = r.address then r else x).find? _ = some r
  have found : w.rbm.nodes.find? (fun x => decide (x.address = a)) = some e := here
  rw [List.find?_map, show (fun x : NodeEntry => decide (x.address = a)) ∘ (fun x => if x.address = r.address then r else x) =
    fun x => decide (x.address = a) from funext fun x => ?_, found]
  · have own : e.address = a := by simpa using List.find?_some found
    simp [own, address]
  · simp only [Function.comp_apply, address]
    split
    next same => simp [same, address]
    next => rfl

theorem Work.addresses_setEntry (w : Work) (r : NodeEntry) :
    (w.setEntry r).rbm.nodes.map NodeEntry.address = w.rbm.nodes.map NodeEntry.address := by
  show (w.rbm.nodes.map fun x => if x.address = r.address then r else x).map NodeEntry.address = _
  rw [List.map_map]
  refine List.map_congr_left fun x _ => ?_
  simp only [Function.comp_apply]
  split
  next same => exact same.symm
  next => rfl

/-! ## The next poll (R135) -/

theorem Work.nextPoll_only (w : Work) : { w.nextPoll with rbm := w.rbm } = w := by
  unfold Work.nextPoll Work.sendRequest
  split
  · split <;> rfl
  · rfl

/-- R135: what the end of a poll leaves of the bus. -/
theorem Work.nextPoll_rbm (w : Work) :
    w.nextPoll.rbm.polling.map Poll.address = (w.rbm.toPoll.head?.filter fun a => (w.entryAt a).isSome) ∧
      (∀ q, w.nextPoll.rbm.polling = some q → q.cycle = w.rbm.cycle) ∧ w.nextPoll.rbm.toPoll = w.rbm.toPoll.tail ∧
      w.nextPoll.rbm.cycle = (if w.rbm.toPoll = [] then (w.rbm.cycle + 1) % 65536 else w.rbm.cycle) ∧
      w.nextPoll.rbm.nodes = w.rbm.nodes := by
  unfold Work.nextPoll
  split
  next a rest toPoll =>
    rw [toPoll]
    have same : (w.setRbm { w.rbm with toPoll := rest }).entryAt a = w.entryAt a := rfl
    unfold Work.sendRequest
    rw [same]
    cases here : w.entryAt a with
    | none => exact ⟨by rw [List.head?_cons, Option.filter_some, here]; rfl, fun q hq => (by cases hq), rfl, rfl, rfl⟩
    | some e => exact ⟨by rw [List.head?_cons, Option.filter_some, here]; rfl, fun q hq => (by cases hq; rfl), rfl, rfl, rfl⟩
  next toPoll =>
    rw [toPoll]
    exact ⟨rfl, fun q hq => (by cases hq), toPoll, rfl, rfl⟩

/-! ## The rest of an event leaves the table to its entry (R140) -/

/-- What an event makes of the bus: one entry replaced, toggles and payloads in flight, and nothing else. -/
structure Work.Settles (w v : Work) (e : NodeEntry) : Prop where
  nodes : v.rbm.nodes.map NodeEntry.still = (w.setEntry e).rbm.nodes.map NodeEntry.still
  poll : { v.rbm with nodes := w.rbm.nodes } = w.rbm

theorem Leads.settles {n : Reach} {e : NodeEntry} (h : Leads n (w.setEntry e) v) (hn : n.poll = false) : w.Settles v e where
  nodes := h.untouched.nodes hn
  poll := by
    have kept := h.untouched.poll hn
    exact (congrArg (fun r : Rbm => { r with nodes := w.rbm.nodes }) kept :)

end Sys2Proof.Machine

namespace Sys2Proof.Claims

open Sys2Proof Sys2Proof.Machine

/-- R135, R137: a poll ended by an event that settles its entry. -/
theorem pollEnded_of_settles {s : State} {v : Work} {a : Nat} {e r : NodeEntry}
    (leads : Leads { cru := true, rgc := true, zev := true, poll := true } (Work.begin s) v.nextPoll)
    (settles : (Work.begin s).Settles v r) (here : s.entryAt a = some e) (address : r.address = a) :
    ∃ e', PollEnded s v.nextPoll.finish ∧ v.nextPoll.finish.entryAt a = some e' ∧ e'.still = r.still := by
  obtain ⟨polled, cycles, toPoll, cycle, nodes⟩ := v.nextPoll_rbm
  have others := v.nextPoll.finish_others
  have unposted : v.nextPoll.hlc.unposted s.hlc := leads.untouched.link rfl
  have link : LinkKept s v.nextPoll.finish := linkKept_finish unposted
  have mst := leads.untouched.mst rfl
  have uptime := leads.untouched.uptime rfl
  have found := Work.entryAt_setEntry (w := Work.begin s) (by exact here) address
  obtain ⟨e', entry, still⟩ := State.entryAt_still (t := v.toState) settles.nodes found
  have addresses : v.rbm.nodes.map NodeEntry.address = s.rbm.nodes.map NodeEntry.address :=
    (addresses_of_still settles.nodes).trans ((Work.begin s).addresses_setEntry r)
  have sameToPoll : v.rbm.toPoll = s.rbm.toPoll := (congrArg Rbm.toPoll settles.poll :)
  have sameCycle : v.rbm.cycle = s.rbm.cycle := (congrArg Rbm.cycle settles.poll :)
  have listed : (fun a => (v.entryAt a).isSome) = fun a => (s.entryAt a).isSome :=
    funext fun a => State.entryAt_isSome_congr addresses a
  rw [sameToPoll, sameCycle] at cycle
  rw [sameToPoll] at polled toPoll
  rw [sameCycle] at cycles
  rw [listed] at polled
  generalize v.nextPoll.finish = t at others link ⊢
  have rbm : t.rbm = v.nextPoll.rbm := (congrArg State.rbm others :)
  have mst' : t.mst = v.nextPoll.mst := (congrArg State.mst others :)
  have uptime' : t.uptime = v.nextPoll.uptime := (congrArg State.uptime others :)
  refine ⟨e', ⟨by rw [rbm]; exact polled, by rw [rbm]; exact cycles, by rw [rbm]; exact toPoll, by rw [rbm]; exact cycle,
    mst'.trans mst, uptime'.trans uptime, link⟩, ?_, still⟩
  rw [State.entryAt, rbm, nodes]
  exact entry

theorem address_entryFor (old : List NodeEntry) (c : NodeConfig) : (entryFor old c).address = c.address := by
  unfold entryFor
  cases h : old.find? fun e => e.isOf c with
  | none => rfl
  | some e =>
    have same := List.find?_some h
    simp only [NodeEntry.isOf, Bool.and_eq_true, decide_eq_true_eq] at same
    exact same.1.1

/-- Settles O55. -/
theorem cycleStartTakesTheNodeSet : Obligations.CycleStartTakesTheNodeSet := by
  intro s
  refine ⟨fun polling => ?_, fun started idle => ?_⟩
  · have busy : s.rbm.polling.isNone = false := by
      cases h : s.rbm.polling with
      | none => exact absurd h polling
      | some => rfl
    exact congrArg Host.Outcome.next (onEvent_not busy Work.startCycle)
  · have occurs : exec .cycleStart s = .next (Work.begin s).startCycle.finish :=
      congrArg Host.Outcome.next (onEvent_occurs started (by rw [idle]; rfl) Work.startCycle)
    have leads : Leads { cru := true, zev := true, poll := true } (Work.begin s) (Work.begin s).startCycle :=
      (Leads.refl _).startCycle rfl rfl rfl
    have rest : Leads { cru := true, zev := true } ((Work.begin s).setRbm { s.rbm with
        nodes := (sortedNodeSet s.map).map (entryFor s.rbm.nodes) }) (Work.begin s).takeNodeSet :=
      Leads.nodeSetRest (.refl _) rfl rfl
    have nodes := addresses_of_still (rest.untouched.nodes rfl)
    have cycle := (congrArg Rbm.cycle (rest.untouched.poll rfl) :)
    obtain ⟨v, hv⟩ : ∃ v, v = (Work.begin s).takeNodeSet := ⟨_, rfl⟩
    rw [← hv] at nodes cycle
    have starts : (Work.begin s).startCycle = (v.setRbm { v.rbm with toPoll := v.rbm.nodes.map NodeEntry.address }).nextPoll := by
      rw [hv]; rfl
    have taken : v.rbm.nodes.map NodeEntry.address = (sortedNodeSet s.map).map NodeConfig.address := by
      refine nodes.trans ?_
      show ((sortedNodeSet s.map).map (entryFor s.rbm.nodes)).map NodeEntry.address = _
      rw [List.map_map]
      exact List.map_congr_left fun c _ => address_entryFor _ c
    obtain ⟨u, hu⟩ : ∃ u, u = v.setRbm { v.rbm with toPoll := v.rbm.nodes.map NodeEntry.address } := ⟨_, rfl⟩
    obtain ⟨polled, cycles, toPoll, cycle', nodes'⟩ := u.nextPoll_rbm
    have unposted : (Work.begin s).startCycle.hlc.unposted s.hlc := leads.untouched.link rfl
    have link : LinkKept s (Work.begin s).startCycle.finish := linkKept_finish unposted
    have others := (Work.begin s).startCycle.finish_others
    have mst := leads.untouched.mst rfl
    have uptime := leads.untouched.uptime rfl
    have rgc := leads.untouched.rgc rfl
    refine ⟨_, occurs, ?_⟩
    rw [starts, ← hu] at others link mst uptime rgc ⊢
    have own : u.rbm.toPoll = (sortedNodeSet s.map).map NodeConfig.address := by rw [hu]; exact taken
    have table : u.rbm.nodes.map NodeEntry.address = (sortedNodeSet s.map).map NodeConfig.address := by rw [hu]; exact taken
    have number : u.rbm.cycle = s.rbm.cycle := by rw [hu]; exact cycle
    generalize u.nextPoll.finish = t at others link ⊢
    have rbm : t.rbm = u.nextPoll.rbm := (congrArg State.rbm others :)
    have mst' : t.mst = u.nextPoll.mst := (congrArg State.mst others :)
    have uptime' : t.uptime = u.nextPoll.uptime := (congrArg State.uptime others :)
    have rgc' : t.rgc = u.nextPoll.rgc := (congrArg State.rgc others :)
    refine ⟨by rw [rbm, nodes']; exact table, mst'.trans mst, uptime'.trans uptime, rgc'.trans rgc, link, ?_⟩
    rw [rbm]
    rw [own] at polled toPoll cycle'
    rw [number] at cycles cycle'
    cases set : (sortedNodeSet s.map).map NodeConfig.address with
    | nil =>
      rw [set] at polled cycle'
      exact ⟨Option.map_eq_none_iff.mp polled, cycle'⟩
    | cons a rest =>
      rw [set] at polled toPoll cycle'
      have listed : (u.entryAt a).isSome = true := by
        rw [State.entryAt_isSome, table, set]; simp
      rw [List.head?_cons, Option.filter_some, if_pos listed] at polled
      obtain ⟨q, hq, address⟩ := Option.map_eq_some_iff.mp polled
      rw [hq]
      exact ⟨congrArg some address, congrArg some (cycles q hq), toPoll, cycle'⟩

end Sys2Proof.Claims
end

section
/-! PROOFS. Chapter 7: a poll ended by a reply or by a miss, settled (R132, R135 to R139). -/

namespace Sys2Proof.Machine

variable {w v : Work}

theorem Work.setEntry_setEntry (w : Work) {e r : NodeEntry} (h : e.address = r.address) :
    (w.setEntry e).setEntry r = w.setEntry r := by
  have nodes : ((w.rbm.nodes.map fun x => if x.address = e.address then e else x).map fun x =>
      if x.address = r.address then r else x) = w.rbm.nodes.map fun x => if x.address = r.address then r else x := by
    rw [List.map_map]
    refine List.map_congr_left fun x _ => ?_
    simp only [Function.comp_apply, h]
    split <;> rfl
  show (w.setRbm _).setRbm { (w.setRbm _).rbm with nodes := _ } = _
  unfold Work.setEntry
  exact congrArg (fun l => w.setRbm { w.rbm with nodes := l }) nodes

/-! ## A good reply (R136) -/

theorem NodeEntry.toggled_rest (e : NodeEntry) (r : NodeReply) (k : ReplyKind) :
    ({ e.toggled r k with outToggle := e.outToggle, inFlight := e.inFlight, slips := e.slips } : NodeEntry) = e := by
  cases k <;> rfl

/-- R136, R139: what a good reply makes of its entry, but for the toggle and the slips. -/
theorem NodeEntry.answered_rest (e : NodeEntry) (m : Nat) (r : NodeReply) :
    ({ e.answered m r with outToggle := e.outToggle, inFlight := e.inFlight, slips := e.slips } : NodeEntry) =
      e.settled r m := by
  unfold NodeEntry.answered
  split
  · exact (e.settled r m).toggled_rest r _
  · exact (e.settled r m).toggled_rest r _
  · rfl
  · rfl

theorem Work.replyEvent_settles {e : NodeEntry} (cycle : Nat) (r : NodeReply) :
    w.Settles (w.replyEvent e cycle r) (e.answered cycle r) :=
  Leads.settles (n := { cru := true, rgc := true, zev := true }) ((Leads.refl _).replyRest rfl rfl rfl) rfl

/-! ## A miss (R137) -/

theorem Work.missEvent_settles (e : NodeEntry) : w.Settles (w.missEvent e) e.missed :=
  Leads.settles (n := { cru := true, zev := true }) ((Leads.refl _).missRest rfl rfl) rfl

/-- R132: the entry of a node of another type. -/
def NodeEntry.mistyped (e : NodeEntry) : NodeEntry := { e with typeActive := true }

theorem Work.typeWrongEvent_settles (e : NodeEntry) : w.Settles (w.typeWrongEvent e) e.mistyped.missed := by
  have rest := ((w.setEntry e.mistyped).reportChange .nodeType e.address e.typeActive true).missEvent_settles e.mistyped
  have state := Work.reportChange_toState (w.setEntry e.mistyped) .nodeType e.address e.typeActive true
  have again : (((w.setEntry e.mistyped).reportChange .nodeType e.address e.typeActive true).setEntry
      e.mistyped.missed).rbm = (w.setEntry e.mistyped.missed).rbm := by
    have rbm := congrArg State.rbm state
    show ({ (Work.reportChange _ _ _ _ _).rbm with nodes := _ } : Rbm) = _
    rw [rbm]
    exact congrArg (fun u : Work => u.rbm) (w.setEntry_setEntry (e := e.mistyped) (r := e.mistyped.missed) rfl)
  refine ⟨rest.nodes.trans (by rw [again]), ?_⟩
  have poll := rest.poll
  have rbm := congrArg State.rbm state
  exact (congrArg (fun r : Rbm => { r with nodes := w.rbm.nodes }) poll).trans
    (congrArg (fun r : Rbm => { r with nodes := w.rbm.nodes }) rbm)

/-- R137: an entry after a miss, as the statements say it. -/
structure NodeEntry.Missed (e r : NodeEntry) : Prop where
  misses : r.misses = min (e.misses + 1) 3
  total : r.totalMisses = min (e.totalMisses + 1) 65535
  first : e.misses < 2 → e.state = .ok → r.state = .missing
  third : e.misses = 2 → e.state = .missing ∨ e.state = .unknown → r.state = .lost ∧ r.stale = true
  lost : e.state = .lost → r.state = .lost
  reported : r.reported = e.reported

theorem NodeEntry.missed_missed (e : NodeEntry) : e.Missed e.missed where
  misses := rfl
  total := rfl
  first _ ok := by simp [NodeEntry.missed, ok]
  third two waits := by
    have three : satAdd 3 e.misses 1 = 3 := by rw [two]; rfl
    obtain h | h := waits <;> simp [NodeEntry.missed, h, three]
  lost h := by simp [NodeEntry.missed, h]
  reported := rfl

theorem NodeEntry.mistyped_missed (e : NodeEntry) : e.Missed e.mistyped.missed := by
  obtain ⟨misses, total, first, third, lost, reported⟩ := e.mistyped.missed_missed
  exact ⟨misses, total, first, third, lost, reported⟩

end Sys2Proof.Machine

namespace Sys2Proof.Claims

open Sys2Proof Sys2Proof.Machine

section
variable {s : State} {p : Poll} {e : NodeEntry}

theorem entryAt_address {a : Nat} (here : s.entryAt a = some e) : e.address = a := by
  simpa using List.find?_some (show s.rbm.nodes.find? (fun x => decide (x.address = a)) = some e from here)

/-- R137: a poll ended by an event that makes a miss of its entry. -/
theorem pollEnded_of_miss {v : Work} {r : NodeEntry}
    (leads : Leads { cru := true, rgc := true, zev := true, poll := true } (Work.begin s) v.nextPoll)
    (settles : (Work.begin s).Settles v r) (here : s.entryAt p.address = some e) (address : r.address = e.address)
    (missed : e.Missed r) : ∃ e', PollEnded s v.nextPoll.finish ∧ v.nextPoll.finish.entryAt p.address = some e' ∧
      e.Missed e' ∧ e'.typeActive = r.typeActive := by
  obtain ⟨e', ended, entry, still⟩ := pollEnded_of_settles leads settles here (address.trans (entryAt_address here))
  have field {α : Type} (f : NodeEntry → α) (hf : ∀ x : NodeEntry, f x.still = f x) : f e' = f r := by
    rw [← hf e', still, hf]
  have state := field NodeEntry.state fun _ => rfl
  refine ⟨e', ended, entry, ⟨(field NodeEntry.misses fun _ => rfl).trans missed.misses,
    (field NodeEntry.totalMisses fun _ => rfl).trans missed.total, fun few ok => state.trans (missed.first few ok),
    fun two waits => ?_, fun lost => state.trans (missed.lost lost),
    (field NodeEntry.reported fun _ => rfl).trans missed.reported⟩, field NodeEntry.typeActive fun _ => rfl⟩
  obtain ⟨lost, stale⟩ := missed.third two waits
  exact ⟨state.trans lost, (field NodeEntry.stale fun _ => rfl).trans stale⟩

end

section
variable {s : State} {p : Poll} {e : NodeEntry} {bytes : List Byte} (started : s.hlc.started = true)
  (polling : s.rbm.polling = some p) (here : s.entryAt p.address = some e)
include started polling here

theorem exec_goodReply {r : NodeReply} (good : checkReply p.address e.type bytes = .good r) :
    exec (.goodReply bytes) s = .next ((Work.begin s).replyEvent e p.cycle r).nextPoll.finish := by
  show execGoodReply bytes s = _
  simp only [execGoodReply, polling, here, good]
  rw [whenStarted_started started]

theorem exec_badReply_typeWrong (wrong : checkReply p.address e.type bytes = .typeWrong) :
    exec (.badReply bytes) s = .next ((Work.begin s).typeWrongEvent e).nextPoll.finish := by
  show execBadReply bytes s = _
  simp only [execBadReply, polling, here, wrong]
  rw [whenStarted_started started]

theorem exec_badReply_bad (bad : checkReply p.address e.type bytes = .bad) :
    exec (.badReply bytes) s = .next ((Work.begin s).missEvent e).nextPoll.finish := by
  show execBadReply bytes s = _
  simp only [execBadReply, polling, here, bad]
  rw [whenStarted_started started]

theorem onPoll_miss : s.onPoll (fun _ e w => w.missEvent e) = ((Work.begin s).missEvent e).nextPoll.finish := by
  simp only [State.onPoll, polling, here]
  rw [whenStarted_started started]

end

/-- Settles O56. -/
theorem pollsEndByReplyOrMiss : Obligations.PollsEndByReplyOrMiss := by
  intro s p e bytes started polling here
  have own := entryAt_address here
  refine ⟨fun r good => ?_, fun bad c hc => ?_⟩
  · have leads : Leads { cru := true, rgc := true, zev := true, poll := true } (Work.begin s)
        ((Work.begin s).replyEvent e p.cycle r).nextPoll :=
      (Leads.replyRest ((Leads.refl _).setEntry rfl _) rfl rfl rfl).nextPoll rfl
    have rest := e.answered_rest p.cycle r
    have address : (e.answered p.cycle r).address = p.address := (congrArg NodeEntry.address rest :).trans own
    obtain ⟨e', ended, entry, still⟩ := pollEnded_of_settles leads (Work.replyEvent_settles p.cycle r) here address
    have field {α : Type} (f : NodeEntry → α)
        (hf : ∀ (x : NodeEntry) a b c, f { x with outToggle := a, inFlight := b, slips := c } = f x)
        (hs : ∀ x : NodeEntry, f x.still = f x) : f e' = f (e.settled r p.cycle) := by
      rw [← hs e', still, hs, ← rest]
      exact (hf _ _ _ _).symm
    exact ⟨_, e', exec_goodReply started polling here good, ended, entry,
      field NodeEntry.owner (fun _ _ _ _ => rfl) fun _ => rfl, field NodeEntry.type (fun _ _ _ _ => rfl) fun _ => rfl,
      field NodeEntry.state (fun _ _ _ _ => rfl) fun _ => rfl, field NodeEntry.misses (fun _ _ _ _ => rfl) fun _ => rfl,
      field NodeEntry.lastGoodCycle (fun _ _ _ _ => rfl) fun _ => rfl,
      field NodeEntry.echo (fun _ _ _ _ => rfl) fun _ => rfl,
      field NodeEntry.freshMark (fun _ _ _ _ => rfl) fun _ => rfl,
      field NodeEntry.reported (fun _ _ _ _ => rfl) fun _ => rfl, field NodeEntry.stale (fun _ _ _ _ => rfl) fun _ => rfl,
      field NodeEntry.nodeFault (fun _ _ _ _ => rfl) fun _ => rfl,
      field NodeEntry.typeActive (fun _ _ _ _ => rfl) fun _ => rfl,
      field NodeEntry.totalMisses (fun _ _ _ _ => rfl) fun _ => rfl⟩
  · have settle {t : State} {e' r : NodeEntry} (occurs : exec c s = .next t) (ended : PollEnded s t)
        (entry : t.entryAt p.address = some e') (missed : e.Missed e') (type : e'.typeActive = r.typeActive)
        (wrong : c = .badReply bytes → checkReply p.address e.type bytes = .typeWrong → r.typeActive = true) :
        ∃ t e', exec c s = .next t ∧ PollEnded s t ∧ t.entryAt p.address = some e' ∧ e'.misses = min (e.misses + 1) 3 ∧
          e'.totalMisses = min (e.totalMisses + 1) 65535 ∧
          (e.misses < 2 → e.state = .ok → e'.state = .missing) ∧
          (e.misses = 2 → e.state = .missing ∨ e.state = .unknown → e'.state = .lost ∧ e'.stale = true) ∧
          (e.state = .lost → e'.state = .lost) ∧ e'.reported = e.reported ∧
          (c = .badReply bytes → checkReply p.address e.type bytes = .typeWrong → e'.typeActive = true) :=
      ⟨t, e', occurs, ended, entry, missed.misses, missed.total, missed.first, missed.third, missed.lost, missed.reported,
        fun hb hw => type.trans (wrong hb hw)⟩
    obtain ⟨e', ended, entry, missed, type⟩ := pollEnded_of_miss (p := p)
      (((Leads.refl (Work.begin s)).missEvent rfl rfl rfl e).nextPoll rfl) ((Work.begin s).missEvent_settles e) here rfl
      e.missed_missed
    have times_out (other : c ≠ .badReply bytes) : exec c s = .next ((Work.begin s).missEvent e).nextPoll.finish := by
      simp only [List.mem_cons, List.not_mem_nil, or_false] at hc
      obtain hc | rfl | rfl := hc
      · exact absurd hc other
      · exact congrArg Host.Outcome.next (onPoll_miss started polling here)
      · exact congrArg Host.Outcome.next (onPoll_miss started polling here)
    by_cases reply : c = .badReply bytes
    · by_cases wrong : checkReply p.address e.type bytes = .typeWrong
      · obtain ⟨e', ended, entry, missed, type⟩ := pollEnded_of_miss (p := p)
          ((Leads.typeWrongEvent (w := Work.begin s) rfl rfl rfl e).nextPoll rfl) ((Work.begin s).typeWrongEvent_settles e)
          here rfl e.mistyped_missed
        refine settle ?_ ended entry missed type fun _ _ => rfl
        rw [reply]; exact exec_badReply_typeWrong started polling here wrong
      · have check : checkReply p.address e.type bytes = .bad := by
          cases h : checkReply p.address e.type bytes with
          | good r => exact absurd h (bad r)
          | typeWrong => exact absurd h wrong
          | bad => rfl
        refine settle ?_ ended entry missed type fun _ h => absurd h wrong
        rw [reply]; exact exec_badReply_bad started polling here check
    · exact settle (times_out reply) ended entry missed type fun h => absurd h reply

end Sys2Proof.Claims
end

section
/-! PROOFS. What a good PANEL reply does to the zones (R4 to R8, R12). -/

namespace Sys2Proof.Machine

variable {w v : Work}

/-! ## The zones of a panel, one after the other -/

/-- An operation on each zone of a list, which reaches no other zone. -/
theorem zone_foldl {f : Work → Nat → Work} {g : Nat → Zone → Zone} {I : Work → Prop}
    (keeps : ∀ w z, I w → I (f w z)) (own : ∀ w z, I w → z < 128 → (f w z).zone z = g z (w.zone z))
    (other : ∀ (w : Work) z y, z ≠ y → (f w z).zone y = w.zone y) {l : List Nat} (nodup : l.Nodup) {z : Nat} (hz : z < 128)
    (w : Work) (hw : I w) : (l.foldl f w).zone z = if z ∈ l then g z (w.zone z) else w.zone z := by
  induction l generalizing w with
  | nil => rfl
  | cons a l ih =>
    obtain ⟨ha, nodup⟩ := List.nodup_cons.1 nodup
    rw [List.foldl_cons, ih nodup _ (keeps w a hw)]
    by_cases h : a = z
    · subst h
      rw [if_neg ha, if_pos List.mem_cons_self, own w a hw hz]
    · rw [other w a z h]
      simp only [List.mem_cons, Ne.symm h, false_or]

theorem mem_panelZones {n z : Nat} : z ∈ panelZones n ↔ z / 32 = n := by
  simp only [panelZones, List.mem_map, List.mem_range]
  constructor
  · rintro ⟨i, hi, rfl⟩; omega
  · intro h; exact ⟨z % 32, by omega, by omega⟩

theorem panelZones_nodup (n : Nat) : (panelZones n).Nodup :=
  List.Nodup.map (fun a b (h : 32 * n + a = 32 * n + b) => by omega) List.nodup_range

theorem zone_setPanelStale (w : Work) (n : Nat) (stale : Bool) {z : Nat} (hz : z < 128) :
    (w.setPanelStale n stale).zone z = if z / 32 = n then { w.zone z with stale := stale } else w.zone z := by
  unfold Work.setPanelStale
  rw [zone_foldl (g := fun _ x => { x with stale := stale }) (I := fun _ => True) (fun _ _ _ => trivial)
    (fun w z _ hz => Work.setZone_zone_self w z _ hz) (fun w z y h => Work.setZone_zone_ne w z y _ h)
    (panelZones_nodup n) hz w trivial]
  simp only [mem_panelZones]

/-! ## A report (R4, R6 to R8, R11, R12) -/

/-- R4: a zone's record after the report of a condition. -/
def State.zoneTold (s : State) (z : Nat) (c : Condition) (x : Zone) : Zone :=
  if x.condition = c then x else s.evaluate z x.condition { x with condition := c }

/-- The evaluation of a report turns on the map and the uptime alone. -/
theorem zoneTold_congr {s t : State} (map : t.map = s.map) (uptime : t.uptime = s.uptime) (z : Nat) (c : Condition)
    (x : Zone) : t.zoneTold z c x = s.zoneTold z c x := by
  unfold State.zoneTold State.evaluate State.edgeOnQuiet State.edgeOnVerifying
  rw [map, uptime]

theorem zoneDetails_toState (w : Work) (z : Nat) (before after : Condition) :
    (w.zoneDetails z before after).toState = w.toState :=
  (Work.reportChange_toState _ _ _ _ _).trans (Work.reportChange_toState w _ _ _ _)

theorem zone_zoneReport_self (w : Work) {z : Nat} (c : Condition) (hz : z < 128) :
    (w.zoneReport z c).zone z = w.zoneTold z c (w.zone z) := by
  unfold Work.zoneReport State.zoneTold
  dsimp only
  split
  · rfl
  · exact zone_zoneChanged_self _ _ _ hz

theorem zone_zoneReport_ne (w : Work) {z y : Nat} (c : Condition) (h : z ≠ y) : (w.zoneReport z c).zone y = w.zone y := by
  unfold Work.zoneReport
  dsimp only
  split
  · rfl
  · rw [zone_zoneChanged_ne _ _ _ h]
    exact congrArg (fun s : State => s.zone y) (zoneDetails_toState w z _ c)

theorem panelTrouble_zoneReport (w : Work) (z : Nat) (c : Condition) :
    (w.zoneReport z c).zev.panelTrouble = w.zev.panelTrouble := by
  unfold Work.zoneReport
  dsimp only
  split
  · rfl
  · rw [zev_zoneChanged]
    exact (congrArg (fun s : State => s.zev.panelTrouble) (zoneDetails_toState w z (w.zone z).condition c) :)

/-- R4: a good PANEL reply tells each zone of its panel its condition. -/
theorem zone_panelReport (w : Work) (n address : Nat) (cs : List Condition) (trouble : Bool) {z : Nat} (hz : z < 128) :
    (w.panelReport n address cs trouble).zone z =
      if z / 32 = n then w.zoneTold z (cs.getD (z % 32) .normal) { w.zone z with stale := false } else w.zone z := by
  have leads : Leads { cru := true, rgc := true, zev := true } w (w.setPanelStale n false) :=
    (Leads.refl _).setPanelStale rfl _ _
  have told : (w.panelReport n address cs trouble).zone z =
      ((panelZones n).foldl (fun w z => w.zoneReport z (cs.getD (z % 32) .normal)) (w.setPanelStale n false)).zone z := by
    unfold Work.panelReport Work.setPanelTrouble
    rw [State.zone, Work.reportChange_toState]
    rfl
  rw [told, zone_foldl (g := fun z x => w.zoneTold z (cs.getD (z % 32) .normal) x)
    (I := Leads { cru := true, rgc := true, zev := true } w) (fun _ z h => h.zoneReport rfl rfl rfl z _)
    (fun v z h hz => (zone_zoneReport_self v _ hz).trans
      (zoneTold_congr h.untouched.map (h.untouched.uptime rfl) z _ _))
    (fun v z y h => zone_zoneReport_ne v _ h) (panelZones_nodup n) hz _ leads]
  simp only [mem_panelZones, zone_setPanelStale w n false hz]
  split <;> rfl

theorem panelTrouble_panelReport (w : Work) {n : Nat} (hn : n < 4) (address : Nat) (cs : List Condition) (trouble : Bool) :
    vget (w.panelReport n address cs trouble).zev.panelTrouble n false = trouble := by
  unfold Work.panelReport Work.setPanelTrouble
  rw [Work.reportChange_toState]
  exact vget_vset_self _ n trouble false hn

theorem decodeConditions_getD (payload : List Byte) {i : Nat} (hi : i < 32) :
    (decodeConditions payload).getD i .normal = decodeCondition payload i := by
  simp [decodeConditions, List.getD, hi]

/-- The event of a reply behind its owner's part touches no zone. -/
theorem zev_replyRest (w : Work) : w.endEvent.nextPoll.finish.zev = w.zev := by
  have rest : Leads { poll := true } w w.endEvent.nextPoll := Leads.nextPoll (Leads.endEvent (Leads.refl w)) rfl
  exact (congrArg State.zev w.endEvent.nextPoll.finish_others :).trans (rest.untouched.zev rfl)

/-- R4, R6 to R8, R11, R12: a zone's record after a report, as the statements say it. -/
theorem zoneTold_cases (s : State) (z : Nat) (c : Condition) (x : Zone) :
    let y := { x with condition := c }
    let moved := c ≠ x.condition
    let left := fun v : Eval => { y with eval := v, count := 0, deadline := none }
    (moved → c = .alarm → x.eval = .quiet → s.zoneTold z c x =
      (if x.condition = .unknown ∨ zoneKind s.map z = .manual ∨ effectiveConfirm s.map z = 1 then left .confirmed
      else { y with eval := .verifying, count := 1, deadline := some (s.uptime + zoneWindow s.map z) })) ∧
    (moved → c = .alarm → x.eval = .verifying → s.zoneTold z c x =
      (if x.count + 1 = effectiveConfirm s.map z then left .confirmed else { y with count := x.count + 1 })) ∧
    (moved → c = .isolated → x.eval = .verifying → s.zoneTold z c x = left .quiet) ∧
    (¬ moved ∨ x.eval = .confirmed ∨ x.eval = .disabled ∨ c = .normal ∨ c = .trouble ∨ (c = .isolated ∧ x.eval = .quiet) →
      s.zoneTold z c x = y) := by
  have changed (moved : c ≠ x.condition) : s.zoneTold z c x = s.evaluate z x.condition { x with condition := c } :=
    if_neg (Ne.symm moved)
  refine ⟨fun moved alarm quiet => ?_, fun moved alarm verifying => ?_, fun moved isolated verifying => ?_, fun still => ?_⟩
  · rw [changed moved]
    simp only [State.evaluate, quiet, alarm, State.edgeOnQuiet, if_true, Bool.or_eq_true, decide_eq_true_eq, or_assoc]
  · rw [changed moved]
    simp only [State.evaluate, verifying, alarm, State.edgeOnVerifying, if_true]
  · rw [changed moved]
    simp only [State.evaluate, verifying, isolated, Zone.settledIn]
    rfl
  · by_cases same : x.condition = c
    · exact (if_pos same).trans (by rw [← same])
    · rw [changed (Ne.symm same)]
      obtain h | h | h | h | h | ⟨h, quiet⟩ := still
      · exact absurd (Ne.symm same) h
      · simp only [State.evaluate, h]
      · simp only [State.evaluate, h]
      · cases ev : x.eval <;> simp [State.evaluate, h]
      · cases ev : x.eval <;> simp [State.evaluate, h]
      · simp [State.evaluate, quiet, h]

end Sys2Proof.Machine

namespace Sys2Proof.Claims

open Sys2Proof Sys2Proof.Machine

section
variable {s : State} {p : Poll} {e : NodeEntry} {bytes : List Byte} {r : NodeReply}

/-- R4: the part of a PANEL reply that reaches ZEV. -/
theorem zev_panelReply {n : Nat} (cycle : Nat) (owner : e.owner = .panel n) :
    ∃ v : Work, v.zev = s.zev ∧ v.mst.map = s.mst.map ∧ v.uptime = s.uptime ∧
      ((Work.begin s).replyEvent e cycle r).nextPoll.finish.zev =
        (v.panelReport n e.address (decodeConditions r.payload) ((byteAt r.payload 8).testBit 0)).zev := by
  have leads : Leads { poll := true } (Work.begin s)
      (((Work.begin s).settleConditions e r).setEntry (e.settled r cycle)) :=
    Leads.setEntry (Leads.settleConditions (Leads.refl _) e r) rfl _
  refine ⟨_, leads.untouched.zev rfl, leads.untouched.map, leads.untouched.uptime rfl, ?_⟩
  unfold Work.replyEvent
  dsimp only
  rw [zev_replyRest, owner]

end

end Sys2Proof.Claims
end

section
/-! PROOFS. What a good POWER reply does to the budget (R48, R49). -/

namespace Sys2Proof.Machine

variable {n : Reaching} {a w v : Work}

/-! ## The shared pool within its S -/

/-- What keeps the ledger's mode and report, one claim per claimant, and a shared pool within a capacity within it. -/
structure Lbu.KeepsPool (shared : Nat) (l l' : Lbu) : Prop where
  mode : l'.mode = l.mode
  power : l'.power = l.power
  single : l.single → l'.single
  within : l.single → l.used .shared ≤ shared → l'.used .shared ≤ shared

namespace Lbu.KeepsPool

variable {shared : Nat} {l l' m : Lbu}

theorem refl (l : Lbu) : l.KeepsPool shared l := ⟨rfl, rfl, id, fun _ => id⟩

theorem trans (h : l.KeepsPool shared l') (k : l'.KeepsPool shared m) : l.KeepsPool shared m :=
  ⟨k.mode.trans h.mode, k.power.trans h.power, fun s => k.single (h.single s),
    fun s u => k.within (h.single s) (h.within s u)⟩

theorem drop (l : Lbu) (who : Claimant) : l.KeepsPool shared (l.drop who) :=
  ⟨rfl, rfl, fun h => Lbu.single_drop h who, fun _ u => (l.used_drop who _).trans u⟩

theorem place (l : Lbu) (who : Claimant) (level cost : Nat) : l.KeepsPool shared (l.place who level cost) where
  mode := by unfold Lbu.place; split <;> rfl
  power := by unfold Lbu.place; split <;> rfl
  single h := Lbu.single_place h who level cost
  within _ u := (l.used_place who level cost _).trans_le u

theorem foldl {α : Type} {f : Lbu → α → Lbu} (step : ∀ (l : Lbu) x, l.KeepsPool shared (f l x)) (xs : List α) (l : Lbu) :
    l.KeepsPool shared (xs.foldl f l) :=
  List.foldlRecOn (motive := fun m : Lbu => l.KeepsPool shared m) _ _ (refl l) fun m h x _ => h.trans (step m x)

end Lbu.KeepsPool

/-- What the taking of a list of claims in a grant pass keeps. -/
structure Lbu.PassKeeps (shared : Nat) (cs : List Claim) (l l' : Lbu) : Prop where
  pool : l.KeepsPool shared l'
  single : l'.single
  keeps : l.KeepsBut cs l'

/-- R56, R57: a claim moved or granted where it fits keeps the shared pool within S. -/
theorem Lbu.used_shared_change {cap : Capacity} {l : Lbu} (hl : l.single) {c : Claim} (hc : c ∈ l.claims)
    {f : Claim → Claim} (hf : Claim.Keeps f) {dst : Source} (hd : ∀ c, (f c).source = some dst)
    (fits : l.fits cap dst c.cost = true) (u : l.used .shared ≤ cap.shared) :
    (l.change c.claimant f).used .shared ≤ cap.shared := by
  refine (Lbu.used_change hl (Lbu.costed_of_mem hl hc) hf hd .shared).trans ?_
  split
  · rename_i here; subst here; exact of_decide_eq_true fits
  · exact u

theorem refillOne_passKeeps (cap : Capacity) (urgent : Bool) {l : Lbu} {c : Claim} (hl : l.single) (hc : c ∈ l.claims) :
    Lbu.PassKeeps cap.shared [c] l (refillOne cap urgent l c) := by
  by_cases moves : c.refills urgent ∧ l.used .shared + c.cost ≤ cap.shared
  · have single : (l.move c.claimant .shared).single := Lbu.single_change hl _ (Claim.keeps_source _)
    rw [refillOne_moved moves.1 moves.2]
    exact ⟨⟨rfl, rfl, fun _ => single, fun _ u =>
      Lbu.used_shared_change hl hc (Claim.keeps_source .shared) (fun _ => rfl) (decide_eq_true moves.2) u⟩, single,
      l.keepsBut_change c _⟩
  · rw [refillOne_left moves]
    exact ⟨.refl l, hl, .refl _ _⟩

theorem sourceFor_fits {cap : Capacity} {l : Lbu} {c : Claim} {src : Source} (h : l.sourceFor cap c = some src) :
    l.fits cap src c.cost = true := by
  simp only [Lbu.sourceFor] at h
  split at h
  · simp_all
  · split at h
    · split at h
      · simp_all
      · simp at h
    · simp at h

theorem scanOne_passKeeps (cap : Capacity) {b : Lbu × List Claimant} {c : Claim} (hl : b.1.single) (hc : c ∈ b.1.claims) :
    Lbu.PassKeeps cap.shared [c] b.1 (scanOne cap b c).1 := by
  cases source : b.1.sourceFor cap c with
  | none =>
    rw [scanOne_refused source]
    exact ⟨.refl _, hl, .refl _ _⟩
  | some src =>
    have single : (b.1.grant c.claimant src).single := Lbu.single_change hl _ (Claim.keeps_grant src b.1.nextGranted)
    rw [scanOne_granted source]
    exact ⟨⟨rfl, rfl, fun _ => single, fun _ u => Lbu.used_shared_change hl hc (Claim.keeps_grant src b.1.nextGranted)
      (fun _ => rfl) (sourceFor_fits source) u⟩, single, b.1.keepsBut_change c _⟩

/-- The claims of a pass taken one after the other. -/
theorem passKeeps_turns {β : Type} {view : β → Lbu} {f : β → Claim → β} (shared : Nat)
    (step : ∀ {b c}, (view b).single → c ∈ (view b).claims → Lbu.PassKeeps shared [c] (view b) (view (f b c))) :
    Turns view f (fun _ => True) fun cs b b' => Lbu.PassKeeps shared cs (view b) (view b') where
  nil _ h := ⟨.refl _, h, .refl _ _⟩
  append _ h k := ⟨h.pool.trans k.pool, k.single, h.keeps.append k.keeps⟩
  single h := h.single
  keeps h := h.keeps
  step hl hc _ := step hl hc

/-- A grant pass changes neither the mode nor the POWER report. -/
theorem pass_report (l : Lbu) (cap : Capacity) :
    (l.pass cap).1.mode = l.mode ∧ (l.pass cap).1.power = l.power := by
  have scan (b : Lbu × List Claimant) (c : Claim) :
      ((scanOne cap b c).1.mode, (scanOne cap b c).1.power) = (b.1.mode, b.1.power) := by
    unfold scanOne
    split <;> rfl
  have refill (urgent : Bool) (l : Lbu) (c : Claim) :
      ((refillOne cap urgent l c).mode, (refillOne cap urgent l c).power) = (l.mode, l.power) := by
    unfold refillOne
    split <;> rfl
  have refilled := foldl_keeps (fun l : Lbu => (l.mode, l.power)) (refill l.urgentWaiting) l.grantedList l
  have scanned := foldl_keeps (fun b : Lbu × List Claimant => (b.1.mode, b.1.power)) scan (l.refill cap).waitList
    (l.refill cap, [])
  exact Prod.mk.inj (scanned.trans refilled)

/-- R55: a grant pass keeps the shared pool within S. -/
theorem Lbu.pass_keepsPool (cap : Capacity) (l : Lbu) : l.KeepsPool cap.shared (l.pass cap).1 := by
  have taken (hl : l.single) : l.KeepsPool cap.shared (l.pass cap).1 := by
    have refilled : Lbu.PassKeeps cap.shared l.grantedList l (l.refill cap) :=
      (passKeeps_turns (view := id) cap.shared fun hl hc => refillOne_passKeeps cap l.urgentWaiting hl hc).foldl
        (lists_sorted hl _ _) fun _ _ => trivial
    have scanned : Lbu.PassKeeps cap.shared (l.refill cap).waitList (l.refill cap) (l.pass cap).1 :=
      (passKeeps_turns (view := Prod.fst) cap.shared fun hl hc => scanOne_passKeeps cap hl hc).foldl
        (a := (l.refill cap, [])) (lists_sorted refilled.single _ _) fun _ _ => trivial
    exact refilled.pool.trans scanned.pool
  exact ⟨(pass_report l cap).1, (pass_report l cap).2, fun hl => (taken hl).single hl, fun hl => (taken hl).within hl⟩

/-! ## The account through the settling of an event -/

/-- A step of the settling of an event keeps the map, the mode and the shared pool within S. -/
theorem Micro.keepsPool (m : Micro n w v) (closed : ¬ n.doors) :
    v.mst = w.mst ∧ w.lbu.KeepsPool (sharedPool w.map w.lbu.mode) v.lbu := by
  have by_view {y : View} (h : v.view = y) (mst : y.mst = w.mst)
      (lbu : w.lbu.KeepsPool (sharedPool w.map w.lbu.mode) y.lbu) :
      v.mst = w.mst ∧ w.lbu.KeepsPool (sharedPool w.map w.lbu.mode) v.lbu :=
    ⟨(congrArg View.mst h :).trans mst, by rw [show v.lbu = y.lbu from congrArg View.lbu h]; exact lbu⟩
  cases m with
  | granted k waits h =>
    subst h
    obtain ⟨-, -, -, -, mst, -, same | dropped, -⟩ := w.programGranted_view waits
    · exact ⟨mst, by rw [same]; exact .refl _⟩
    · exact ⟨mst, by rw [dropped]; exact .drop _ _⟩
  | stopped k why for_ _ _ h => subst h; exact by_view (w.view_stopProgram k why for_) rfl (.refl _)
  | placed h => exact by_view h rfl (.foldl (fun l _ => .place l _ _ _) _ _)
  | passed h => exact by_view h rfl (Lbu.pass_keepsPool (capacityOf w.map w.lbu.mode) _)
  | dropped k h => exact by_view h rfl (.drop _ _)
  | claimed k hn h => exact by_view h rfl (.place _ _ _ _)
  | reached hn _ _ _ _ => exact absurd hn closed
  | requeued _ _ _ _ _ _ _ h => exact by_view h rfl (.refl _)
  | cleared _ h => exact by_view h rfl (.refl _)
  | compared _ _ _ h => exact by_view h rfl (.refl _)
  | advanced _ _ _ h => exact by_view h rfl (.refl _)
  | issued _ h => exact by_view h rfl (.refl _)
  | same h => exact by_view h rfl (.refl _)
  | unreserved _ h => exact by_view h rfl (.refl _)
  | floors _ _ h => exact by_view h rfl (.refl _)
  | started _ _ _ _ h => exact by_view h rfl (.refl _)
  | ended _ _ _ _ h => exact by_view h rfl (.refl _)
  | gaveUp _ _ _ _ h => exact by_view h rfl (.refl _)
  | taken _ _ _ _ _ h => exact by_view h rfl (.refl _)
  | displaced _ _ _ _ _ _ _ _ h => exact by_view h rfl (.refl _)

theorem Runs.keepsPool (h : Runs n a w) (closed : ¬ n.doors) :
    w.mst = a.mst ∧ a.lbu.KeepsPool (sharedPool a.map a.lbu.mode) w.lbu := by
  refine h.keeps (P := fun u => u.mst = a.mst ∧ a.lbu.KeepsPool (sharedPool a.map a.lbu.mode) u.lbu) ?_ ⟨rfl, .refl _⟩
  rintro u v m ⟨mst, pool⟩
  obtain ⟨mst', pool'⟩ := m.keepsPool closed
  have map : u.map = a.map := (congrArg Mst.map mst :)
  rw [map, pool.mode] at pool'
  exact ⟨mst'.trans mst, pool.trans pool'⟩

/-! ## A change of the mode (R49) -/

theorem handShed_rest (w : Work) (who : Claimant) : (w.handShed who).lbu = w.lbu ∧ (w.handShed who).mst = w.mst := by
  cases who with
  | door d =>
    show (w.setDoorState d .relocking).lbu = w.lbu ∧ (w.setDoorState d .relocking).mst = w.mst
    refine ⟨(w.setDoorState_rest d .relocking).1, ?_⟩
    by_cases same : (w.door d).state = .relocking
    · rw [Work.setDoorState, if_pos same]
    · obtain ⟨r, -, view⟩ := Work.view_setDoorState same
      exact (congrArg View.mst view :)
  | program k =>
    show (w.programShed k).lbu = w.lbu ∧ (w.programShed k).mst = w.mst
    unfold Work.programShed
    split
    · exact ⟨(congrArg View.lbu (w.view_stopProgram k .shed none) :), (congrArg View.mst (w.view_stopProgram k .shed none) :)⟩
    · exact ⟨rfl, rfl⟩

/-- R59, R49: an LBU event that shed the shared pool leaves it within S. -/
theorem keepsPool_budgetEvent (w : Work) (cause : BudgetCause) (old : BudgetMode) (r : ShedResult) :
    r.lbu.KeepsPool (sharedPool w.map r.lbu.mode) (w.budgetEvent cause old r).lbu := by
  obtain ⟨u, hu⟩ : ∃ u, u = (w.setLbu r.lbu).tellShed r.shed := ⟨_, rfl⟩
  have lbu : u.lbu = r.lbu := by
    rw [hu]; exact foldl_keeps (fun w : Work => w.lbu) (fun w who => (handShed_rest w who).1) r.shed (w.setLbu r.lbu)
  have mst : u.mst = w.mst := by
    rw [hu]; exact foldl_keeps (fun w : Work => w.mst) (fun w who => (handShed_rest w who).2) r.shed (w.setLbu r.lbu)
  have runs : Runs {} u (w.budgetEvent cause old r) := by
    unfold Work.budgetEvent
    dsimp only
    rw [← hu]
    exact Runs.endEvent (Runs.post (Runs.settle (Runs.runPass (.refl u)) trivial) _ _) trivial trivial
  have pool := (runs.keepsPool (fun h => h)).2
  have map : u.map = w.map := (congrArg Mst.map mst :)
  rwa [lbu, map] at pool

/-- Shedding changes neither the mode nor the POWER report. -/
theorem shedShared_report (cap : Capacity) (r : ShedResult) :
    (shedShared cap r).lbu.mode = r.lbu.mode ∧ (shedShared cap r).lbu.power = r.lbu.power := by
  have step (r : ShedResult) (c : Claim) :
      ((shedOne cap r c).lbu.mode, (shedOne cap r c).lbu.power) = (r.lbu.mode, r.lbu.power) := by
    unfold shedOne
    split
    · rfl
    · split
      · split <;> rfl
      · rfl
  exact Prod.mk.inj (foldl_keeps (fun r : ShedResult => (r.lbu.mode, r.lbu.power)) step _ _)

/-- R49: a change of the mode takes the mode, and leaves the shared pool within its S. -/
theorem setMode_changed (w : Work) {mode : BudgetMode} (changed : w.lbu.mode ≠ mode) :
    (w.setMode mode).lbu.mode = mode ∧ (w.setMode mode).lbu.power = w.lbu.power ∧ (w.lbu.single →
      (w.setMode mode).lbu.single ∧ (w.setMode mode).lbu.used .shared ≤ sharedPool w.map mode) := by
  obtain ⟨r, hr⟩ : ∃ r, r = shedShared (capacityOf w.map mode) ⟨{ w.lbu with mode := mode }, [], 0⟩ := ⟨_, rfl⟩
  obtain ⟨taken, power⟩ := shedShared_report (capacityOf w.map mode) ⟨{ w.lbu with mode := mode }, [], 0⟩
  rw [← hr] at taken power
  have pool := keepsPool_budgetEvent w .mode w.lbu.mode r
  have budget : w.setMode mode = w.budgetEvent .mode w.lbu.mode r := by
    rw [hr]; exact if_neg changed
  rw [budget]
  rw [taken] at pool
  refine ⟨pool.mode.trans taken, pool.power.trans power, fun hl => ?_⟩
  obtain ⟨sheds, within⟩ := shedShared_sheds (capacityOf w.map mode) (r := ⟨{ w.lbu with mode := mode }, [], 0⟩) hl
  rw [← hr] at sheds within
  exact ⟨pool.single sheds.single, pool.within sheds.single within⟩

/-- R49: a mode that stays changes nothing. -/
theorem setMode_same (w : Work) {mode : BudgetMode} (same : w.lbu.mode = mode) : w.setMode mode = w := if_pos same

/-! ## A POWER reply (R48) -/

/-- R48: the mode that a report of a heard node gives. -/
def PowerReport.mode (p : PowerReport) : BudgetMode :=
  if p.source = .mains then .mains else if p.low = true then .low else .battery

theorem powerMode_heard {e : NodeEntry} (heard : e.state = .ok) (p : PowerReport) :
    powerMode (some e) (some p) = p.mode := by
  obtain ⟨source, low⟩ := p
  cases source <;> cases low <;> simp [powerMode, heard, PowerReport.mode]

theorem find?_or {α : Type} {p q : α → Bool} {l : List α} {x : α} (hp : l.find? p = some x) (hq : l.find? q = some x) :
    l.find? (fun y => p y || q y) = some x := by
  induction l with
  | nil => cases hp
  | cons y l ih =>
    rw [List.find?_cons] at hp hq ⊢
    cases py : p y <;> cases qy : q y <;> simp only [py, qy, Bool.or_false, Bool.or_true] at hp hq ⊢
    · exact ih hp hq
    · exact hq
    · exact hp
    · exact hp

/-- The power node's entry, when it is the one answered. -/
theorem powerEntry_setEntry {w : Work} {e r : NodeEntry} (power : w.entryOf .power = some e)
    (here : w.entryAt e.address = some e) (address : r.address = e.address) (owner : r.owner = .power) :
    (w.setEntry r).powerEntry = some r := by
  have either : w.rbm.nodes.find? (fun y => decide (y.address = e.address) || decide (y.owner = .power)) = some e :=
    find?_or here power
  show (w.rbm.nodes.map fun y => if y.address = r.address then r else y).find? (fun y => decide (y.owner = .power)) = some r
  rw [List.find?_map]
  have same : ((fun y : NodeEntry => decide (y.owner = .power)) ∘ fun y => if y.address = r.address then r else y) =
      fun y => decide (y.address = e.address) || decide (y.owner = .power) := by
    funext y
    by_cases at_ : y.address = e.address
    · simp [at_, address, owner]
    · simp [at_, address]
  rw [same, either]
  exact congrArg some (if_pos address.symm)

theorem Work.inCars_reportChange (w : Work) (k : Kind) (n : Nat) (x y : Bool) : w.InCars (w.reportChange k n x y) :=
  ((Work.CarStep.refl (c := 0) w).reportChange k n x y).rest

theorem Work.inCars_settleConditions (w : Work) (e : NodeEntry) (r : NodeReply) : w.InCars (w.settleConditions e r) :=
  ((w.inCars_reportChange _ _ _ _).trans (Work.inCars_reportChange _ _ _ _ _)).trans (Work.inCars_reportChange _ _ _ _ _)

theorem Work.inCars_setEntry (w : Work) (e : NodeEntry) : w.InCars (w.setEntry e) := rfl

end Sys2Proof.Machine

namespace Sys2Proof.Claims

open Sys2Proof Sys2Proof.Machine

section
variable {s : State} {p : Poll} {e : NodeEntry} {bytes : List Byte} {r : NodeReply}

/-- R48, R49: a POWER reply, settled. -/
theorem powerReply_taken (owner : e.owner = .power) (power : s.entryOf .power = some e)
    (here : s.entryAt e.address = some e) (cycle : Nat) :
    let t := ((Work.begin s).replyEvent e cycle r).nextPoll.finish
    let report := decodePower r.payload
    SupplyOnly s t ∧ t.lbu.power = some report ∧ t.lbu.mode = report.mode ∧
      (t.lbu.mode = s.lbu.mode → t.lbu = { s.lbu with power := some report }) ∧
      (t.lbu.mode ≠ s.lbu.mode → s.lbu.single → t.lbu.used .shared ≤ sharedPool s.map t.lbu.mode) := by
  intro t report
  obtain ⟨u, hu⟩ : ∃ u, u = ((Work.begin s).settleConditions e r).setEntry (e.settled r cycle) := ⟨_, rfl⟩
  obtain ⟨v, hv⟩ : ∃ v, v = u.recordPower e.address (some report) := ⟨_, rfl⟩
  have first : (Work.begin s).InCars u := by
    rw [hu]; exact ((Work.begin s).inCars_settleConditions e r).trans (Work.inCars_setEntry _ _)
  have second : (u.setLbu { u.lbu with power := some report }).InCars v := by
    rw [hv]; exact (Work.inCars_reportChange _ _ _ _ _).trans (Work.inCars_reportChange _ _ _ _ _)
  have account : u.lbu = s.lbu := (congrArg (fun w : Work => w.lbu) first :)
  have lbu : v.lbu = { s.lbu with power := some report } := by
    rw [← account]; exact (congrArg (fun w : Work => w.lbu) second :)
  have map : v.map = s.map := second.map.trans first.map
  have nodes : v.powerEntry = some (e.settled r cycle) := by
    have recorded : v.toState = (u.setLbu { u.lbu with power := some report }).toState := by
      rw [hv]; exact (Work.reportChange_toState _ _ _ _ _).trans (Work.reportChange_toState _ _ _ _ _)
    rw [show v.powerEntry = u.powerEntry from (congrArg State.powerEntry recorded :), hu]
    have settled : ((Work.begin s).settleConditions e r).toState = s := Work.settleConditions_toState _ e r
    exact powerEntry_setEntry (e := e) (by rw [settled]; exact power) (by rw [settled]; exact here) rfl owner
  have event : (Work.begin s).replyEvent e cycle r = (v.setMode report.mode).endEvent := by
    unfold Work.replyEvent Work.powerReport Work.judgeMode48
    dsimp only
    rw [owner]
    dsimp only
    rw [← hu, ← hv, nodes, lbu, powerMode_heard rfl]
  have settle : t.lbu = (v.setMode report.mode).endEvent.lbu := by
    have others := ((Work.begin s).replyEvent e cycle r).nextPoll.finish_others
    rw [← event]
    exact (congrArg State.lbu others :).trans (congrArg (fun w : Work => w.lbu) ((Work.begin s).replyEvent e cycle r).nextPoll_only :)
  have runs : Runs {} (v.setMode report.mode) (v.setMode report.mode).endEvent := Runs.endEvent (.refl _) trivial trivial
  have pool := (runs.keepsPool fun h => h).2
  rw [← settle] at pool
  have leads : Leads { poll := true } (Work.begin s) ((Work.begin s).replyEvent e cycle r).nextPoll := by
    rw [event, hv, hu]
    refine Leads.nextPoll (Leads.endEvent (Leads.setMode (Leads.recordPower ?_ _ _) _)) rfl
    exact Leads.setEntry (Leads.settleConditions (Leads.refl _) e r) rfl _
  have supply : SupplyOnly s t := supplyOnly_of_reach leads ⟨rfl, rfl, rfl, rfl, rfl⟩ (Work.finish_others _)
  by_cases same : v.lbu.mode = report.mode
  · have kept := setMode_same v same
    rw [kept] at pool settle
    have whole : t.lbu = { s.lbu with power := some report } := by
      have idle : v.moved = [] ∧ v.toPlace = [] ∧ v.joinsDue = false :=
        ⟨(congrArg Work.moved second :).trans (congrArg Work.moved first :),
          (congrArg Work.toPlace second :).trans (congrArg Work.toPlace first :),
          (congrArg Work.joinsDue second :).trans (congrArg Work.joinsDue first :)⟩
      exact settle.trans ((congrArg State.lbu (endEvent_posts idle.1 idle.2.1 idle.2.2).1 :).trans lbu)
    have mode : s.lbu.mode = report.mode := (congrArg Lbu.mode lbu.symm :).trans same
    exact ⟨supply, congrArg Lbu.power whole, (congrArg Lbu.mode whole :).trans mode, fun _ => whole,
      fun changed => absurd (congrArg Lbu.mode whole :) changed⟩
  · obtain ⟨mode, power, within⟩ := setMode_changed v same
    have single (h : s.lbu.single) : v.lbu.single := by rw [lbu]; exact h
    have mapped : (v.setMode report.mode).map = s.map :=
      ((Leads.refl (n := {}) v).setMode report.mode).untouched.map.trans map
    have changed : t.lbu.mode ≠ s.lbu.mode := by
      rw [pool.mode, mode]
      exact fun h => same ((congrArg Lbu.mode lbu :).trans h.symm)
    refine ⟨supply, pool.power.trans (power.trans (congrArg Lbu.power lbu)), pool.mode.trans mode,
      fun h => absurd h changed, fun _ h => ?_⟩
    have final := pool.within (within (single h)).1
    rw [mapped, mode, ← map] at final
    rw [pool.mode, mode, ← map]
    exact final (within (single h)).2

end

/-- Settles O57. -/
theorem panelAndPowerRepliesAreTaken : Obligations.PanelAndPowerRepliesAreTaken := by
  intro s p e bytes r started polling here good
  have own := entryAt_address here
  refine ⟨_, exec_goodReply started polling here good, fun n hn owner => ?_, fun owner power => ?_⟩
  · obtain ⟨v, zev, map, uptime, final⟩ := zev_panelReply (s := s) (r := r) p.cycle owner
    generalize ((Work.begin s).replyEvent e p.cycle r).nextPoll.finish = t at final
    refine ⟨?_, fun z hz => ?_⟩
    · rw [final]
      exact panelTrouble_panelReport v hn _ _ _
    · have zone (z : Nat) : v.zone z = s.zone z := by rw [State.zone, zev]; rfl
      have record : t.zone z = _ :=
        (congrArg (fun x : Zev => vget x.zones z Zone.reset) final :).trans (zone_panelReport v n _ _ _ hz)
      rw [zone, decodeConditions_getD _ (Nat.mod_lt z (by decide)), zoneTold_congr map uptime] at record
      intro x y moved left
      refine ⟨fun other => record.trans (if_neg other), fun mine => ?_⟩
      rw [if_pos mine] at record
      rw [record]
      exact zoneTold_cases s z (decodeCondition r.payload (z % 32)) { x with stale := false }
  · exact powerReply_taken owner power (own.symm ▸ here) p.cycle

end Sys2Proof.Claims
end

section
/-! PROOFS. What a good LIFT reply does to its car (R89, R90, R94, R96). -/

namespace Sys2Proof.Machine

variable {w v : Work} {c : Nat}

/-! ## A reply reaches its own car -/

namespace Work.CarStep

theorem carConfirmed (h : CarStep c w v) : CarStep c w (v.carConfirmed c) := by
  unfold Work.carConfirmed
  dsimp only
  split
  · exact (h.setCar _).giveNode _
  · exact h.setCar _

theorem judgeMode (h : CarStep c w v) : CarStep c w (v.judgeMode c) := by
  unfold Work.judgeMode
  dsimp only
  split
  · exact .ite h h.holdOut
  · exact .ite h h.holdOut
  · exact .ite h h.holdOut
  · exact .ite (h.setHeldOut _).issueRecall h
  all_goals exact h

theorem judgeParking (h : CarStep c w v) : CarStep c w (v.judgeParking c) := .ite (h.clearLate.setCar _).settleCar h

theorem judgeFirefighter (h : CarStep c w v) (before : Option Motion) : CarStep c w (v.judgeFirefighter c before) :=
  .ite (.ite (Work.CarStep.ite (h.markAlarmStop c) h).issueRecall (.ite (h.markAlarmStop c) h)) h

theorem carReply (h : CarStep c w v) (p : CarReport) (confirms : Bool) : CarStep c w (v.carReply c p confirms) :=
  ((Work.CarStep.ite (h.setCar _).carConfirmed (h.setCar _)).judgeMode.judgeParking).judgeFirefighter _

end Work.CarStep

/-! ## What the car shows -/

/-- The fields of a car's record that its replies give, and whether they are stale. -/
def Car.shown (r : Car) :
    Option Nat × Option Motion × Option CarDoor × Option CarMode × Option Bool × Option Applied × Bool :=
  (r.position, r.motion, r.door, r.mode, r.key, r.applied, r.stale)

section
variable (hc : c < 6)
include hc

theorem shown_settleCar (w : Work) : ((w.settleCar c).car c).shown = (w.car c).shown :=
  (congrArg Car.shown (settleCar_keeps w hc) :)

theorem shown_holdOut (w : Work) : ((w.holdOut c).car c).shown = (w.car c).shown := by
  unfold Work.holdOut
  dsimp only
  rw [shown_settleCar hc, setHeldOut_car _ hc, Work.setCar_car_self _ _ _ hc, clearLate_car w hc]
  rfl

theorem shown_issueRecall (w : Work) : ((w.issueRecall c).car c).shown = (w.car c).shown := by
  unfold Work.issueRecall
  split
  · dsimp only
    rw [shown_settleCar hc, Work.setCar_car_self _ _ _ hc, clearLate_car w hc]
    rfl
  · exact shown_holdOut hc w

theorem shown_carConfirmed (w : Work) : ((w.carConfirmed c).car c).shown = (w.car c).shown := by
  unfold Work.carConfirmed
  dsimp only
  split
  · exact (congrArg Car.shown (w.setCar_car_self c _ hc) :)
  · exact (congrArg Car.shown (w.setCar_car_self c _ hc) :)

theorem shown_judgeMode (w : Work) : ((w.judgeMode c).car c).shown = (w.car c).shown := by
  unfold Work.judgeMode
  dsimp only
  split
  · split
    · rfl
    · exact shown_holdOut hc w
  · split
    · rfl
    · exact shown_holdOut hc w
  · split
    · rfl
    · exact shown_holdOut hc w
  · split
    · rw [shown_issueRecall hc, setHeldOut_car w hc]; rfl
    · rfl
  all_goals rfl

theorem shown_judgeParking (w : Work) : ((w.judgeParking c).car c).shown = (w.car c).shown := by
  unfold Work.judgeParking
  split
  · dsimp only
    rw [shown_settleCar hc, Work.setCar_car_self _ _ _ hc, clearLate_car w hc]
    rfl
  · rfl

theorem shown_judgeFirefighter (w : Work) (before : Option Motion) :
    ((w.judgeFirefighter c before).car c).shown = (w.car c).shown := by
  have marked (u : Work) (b : Bool) : ((if b then u.markAlarmStop c else u).car c).shown = (u.car c).shown := by
    cases b <;> rfl
  unfold Work.judgeFirefighter
  split
  · obtain ⟨u, hu⟩ : ∃ u, u = if w.alarmStop c before then w.markAlarmStop c else w := ⟨_, rfl⟩
    have kept : (u.car c).shown = (w.car c).shown := by rw [hu]; exact marked w _
    dsimp only
    rw [← hu]
    split
    · exact (shown_issueRecall hc u).trans kept
    · exact kept
  · rfl

/-- R89: a car shows what its last good reply gave. -/
theorem shown_carReply (w : Work) (p : CarReport) (confirms : Bool) :
    ((w.carReply c p confirms).car c).shown = ((w.car c).record p).shown := by
  unfold Work.carReply
  dsimp only
  rw [shown_judgeFirefighter hc, shown_judgeParking hc, shown_judgeMode hc]
  have recorded : ((w.setCar c ((w.car c).record p)).car c).shown = ((w.car c).record p).shown := by
    rw [w.setCar_car_self c _ hc]
  split
  · rw [shown_carConfirmed hc, recorded]
  · exact recorded

end

/-! ## The judgements of a reply -/

/-- R90: a car's record after a reply and its confirmation, before it is judged. -/
def Car.heard (x : Car) (p : CarReport) (confirms : Bool) : Car :=
  if confirms then
    match x.pendingCommand with
    | some q => { x.record p with command := q, pendingCommand := none, confirmed := false }
    | none => { x.record p with
        confirmed := true, state := if x.state = .recallIssued then .recalling else x.state }
  else x.record p

theorem judgeFirefighter_other (w : Work) (before : Option Motion) (other : (w.car c).state ≠ .firefighter) :
    w.judgeFirefighter c before = w := if_neg other

theorem judgeParking_away (w : Work) (away : (w.car c).arrived = false) : w.judgeParking c = w :=
  if_neg (by rw [away]; decide)

theorem arrived_recalling {r : Car} (other : r.state ≠ .recalling) : r.arrived = false := by
  simp [Car.arrived, other]

section
variable (hc : c < 6)
include hc

/-- R94: an arrived car parks, or is shut down. -/
theorem judgeParking_arrived (w : Work) (here : (w.car c).arrived = true) :
    ((w.judgeParking c).car c).state = (if (w.car c).shutdownDue = true then .shutDown else .parked) ∧
      ((w.judgeParking c).car c).recallStarted = none ∧ ((w.judgeParking c).car c).late = false ∧
      ((w.judgeParking c).car c).target = (w.car c).target ∧
      ((w.judgeParking c).car c).heldOutActive = (w.car c).heldOutActive := by
  rw [Work.judgeParking, if_pos here]
  dsimp only
  rw [clearLate_car w hc]
  generalize out : (w.clearLate c).setCar c _ = v
  have record : v.car c = { w.car c with
      late := false, state := if (w.car c).shutdownDue = true then .shutDown else .parked, recallStarted := none } := by
    rw [← out, Work.setCar_car_self _ _ _ hc]
  have keeps := settleCar_keeps v hc
  have state := settleCar_state_of_ne v hc (by rw [record]; dsimp only; split <;> simp)
  rw [record] at keeps state
  exact ⟨state, (congrArg Car.recallStarted keeps :), (congrArg Car.late keeps :), (congrArg Car.target keeps :),
    (congrArg Car.heldOutActive keeps :)⟩

theorem carConfirmed_record (w : Work) (p : CarReport) (confirms : Bool) :
    ((if confirms then (w.setCar c ((w.car c).record p)).carConfirmed c else w.setCar c ((w.car c).record p)).car c) =
      (w.car c).heard p confirms := by
  have record := w.setCar_car_self c ((w.car c).record p) hc
  generalize w.setCar c ((w.car c).record p) = u at record ⊢
  cases confirms with
  | false => exact record
  | true =>
    simp only [if_true, Car.heard, Work.carConfirmed, record]
    have pending : ((w.car c).record p).pendingCommand = (w.car c).pendingCommand := rfl
    rw [pending]
    cases (w.car c).pendingCommand with
    | some q => exact u.setCar_car_self c _ hc
    | none => exact u.setCar_car_self c _ hc

end

/-- What the confirmation of a reply leaves alone. -/
theorem Car.heard_keeps (x : Car) (p : CarReport) (confirms : Bool) :
    { x.heard p confirms with
      state := x.state, command := x.command, confirmed := x.confirmed, pendingCommand := x.pendingCommand } =
      x.record p := by
  unfold Car.heard
  split
  · split <;> rfl
  · rfl

theorem Car.heard_state (x : Car) (p : CarReport) (confirms : Bool) : (x.heard p confirms).state =
    if confirms = true ∧ x.pendingCommand = none ∧ x.state = .recallIssued then .recalling else x.state := by
  cases confirms with
  | false => rfl
  | true => cases pending : x.pendingCommand <;> simp [Car.heard, pending, Car.record]

theorem Car.heard_confirmed (x : Car) (p : CarReport) (confirms : Bool) :
    (x.heard p confirms).confirmed = true ↔ if confirms = true then x.pendingCommand = none else x.confirmed = true := by
  cases confirms with
  | false => simp [Car.heard, Car.record]
  | true => cases pending : x.pendingCommand <;> simp [Car.heard, pending]

/-- R90: the judgements of a reply: mode, parking, firefighter. -/
def Work.judgeCar (w : Work) (c : Nat) (before : Option Motion) : Work :=
  ((w.judgeMode c).judgeParking c).judgeFirefighter c before

theorem carReply_judged (w : Work) (hc : c < 6) (p : CarReport) (confirms : Bool) :
    ∃ v, Work.CarStep c w v ∧ v.car c = (w.car c).heard p confirms ∧
      w.carReply c p confirms = v.judgeCar c (w.car c).motion :=
  ⟨_, Work.CarStep.ite ((Work.CarStep.refl w).setCar _).carConfirmed ((Work.CarStep.refl w).setCar _),
    carConfirmed_record hc w p confirms, rfl⟩

section
variable {before : Option Motion} (hc : c < 6)
include hc

/-- R96: a recalled or parked car whose mode is not AUTO is held out. -/
theorem judgeCar_out (state : (w.car c).state ∈ [.recallIssued, .recalling, .parked]) (out : (w.car c).inAuto = false) :
    w.judgeCar c before = w.holdOut c := by
  have mode : w.judgeMode c = w.holdOut c := by
    have states : (w.car c).state = .recallIssued ∨ (w.car c).state = .recalling ∨ (w.car c).state = .parked := by
      simpa using state
    unfold Work.judgeMode
    obtain h | h | h := states <;> simp [h, out]
  obtain ⟨held, -⟩ := holdOut_car w hc
  rw [Work.judgeCar, mode, judgeParking_away _ (arrived_recalling (by rw [held]; decide)),
    judgeFirefighter_other _ _ (by rw [held]; decide)]

/-- R94: a RECALLING car that has arrived parks. -/
theorem judgeCar_arrived (state : (w.car c).state = .recalling) (auto : (w.car c).inAuto = true)
    (here : (w.car c).arrived = true) : w.judgeCar c before = w.judgeParking c := by
  have mode : w.judgeMode c = w := by simp [Work.judgeMode, state, auto]
  obtain ⟨parked, -⟩ := judgeParking_arrived hc w here
  rw [Work.judgeCar, mode, judgeFirefighter_other _ _ (by rw [parked]; split <;> decide)]

omit hc in
/-- R94: a RECALLING car that has not arrived is recalled on. -/
theorem judgeCar_away (state : (w.car c).state = .recalling) (auto : (w.car c).inAuto = true)
    (away : (w.car c).arrived = false) : w.judgeCar c before = w := by
  have mode : w.judgeMode c = w := by simp [Work.judgeMode, state, auto]
  rw [Work.judgeCar, mode, judgeParking_away _ away, judgeFirefighter_other _ _ (by rw [state]; decide)]

/-- R96: a held-out car whose mode is AUTO again is recalled, and may park at once. -/
theorem judgeCar_back (state : (w.car c).state = .heldOut) (auto : (w.car c).inAuto = true) :
    ((w.judgeCar c before).car c).heldOutActive = false ∧ ((w.judgeCar c before).car c).state ≠ .heldOut ∧
      ((w.judgeCar c before).car c).target = some (w.bank (carBank w.map c)).recallFloor := by
  have mode : w.judgeMode c = (w.setHeldOut c false).issueRecall c := by simp [Work.judgeMode, state, auto]
  have record := setHeldOut_car w hc false
  have step : Work.CarStep c w (w.setHeldOut c false) := (Work.CarStep.refl w).setHeldOut false
  have floor : ((w.setHeldOut c false).bank (carBank (w.setHeldOut c false).map c)).recallFloor =
      (w.bank (carBank w.map c)).recallFloor := by rw [step.rest.map, State.bank, step.banks]; rfl
  obtain ⟨target, -, recalled, -, -, held⟩ := issueRecall_car (w.setHeldOut c false) hc (by rw [record]; exact auto)
  rw [floor] at target
  rw [record] at held
  rw [Work.judgeCar, mode]
  generalize (w.setHeldOut c false).issueRecall c = u at *
  have on : (u.car c).state = .recalling ∨ (u.car c).state = .recallIssued := by rw [recalled]; split <;> simp
  cases here : (u.car c).arrived with
  | true =>
    obtain ⟨parked, -, -, target', held'⟩ := judgeParking_arrived hc u here
    rw [judgeFirefighter_other _ _ (by rw [parked]; split <;> decide)]
    exact ⟨held'.trans held, by rw [parked]; split <;> decide, target'.trans target⟩
  | false =>
    rw [judgeParking_away _ here, judgeFirefighter_other _ _ (by obtain h | h := on <;> rw [h] <;> decide)]
    exact ⟨held, by obtain h | h := on <;> rw [h] <;> decide, target⟩

end

end Sys2Proof.Machine

namespace Sys2Proof.Claims

open Sys2Proof Sys2Proof.Machine

section
variable {s : State} {e : NodeEntry} {r : NodeReply} {c : Nat}

/-- R138, R141: the kind of a reply that is no slip, of a node heard of. -/
theorem classify_of_heard (known : e.state = .ok ∨ e.state = .missing) (fresh : r.fresh = false)
    (noSlip : e.inFlight = true ∨ r.toggle = e.outToggle) :
    e.classify r = if e.inFlight = true ∧ r.toggle = e.outToggle then .confirms else .plain := by
  unfold NodeEntry.classify
  obtain state | state := known <;>
    (simp only [state, fresh, Bool.false_eq_true, if_false]
     cases flight : e.inFlight <;> by_cases same : r.toggle = e.outToggle <;> simp_all)

/-- R89, R90: a car after a good reply of its node. -/
theorem car_liftReply (owner : e.owner = .car c) (present : carPresent s.map c = true)
    (confirms : Bool) (kind : e.classify r = if confirms then .confirms else .plain) (cycle : Nat) :
    let t := ((Work.begin s).replyEvent e cycle r).nextPoll.finish
    ∃ w : Work, w.cru = s.cru ∧ w.map = s.map ∧ t.cru = (w.carReply c (decodeCar s.map r.payload) confirms).cru := by
  intro t
  obtain ⟨w, hw⟩ : ∃ w, w = ((Work.begin s).settleConditions e r).setEntry ((e.settled r cycle).toggled r (e.classify r)) :=
    ⟨_, rfl⟩
  have first : (Work.begin s).InCars w := by
    rw [hw]; exact ((Work.begin s).inCars_settleConditions e r).trans (Work.inCars_setEntry _ _)
  have cru : w.cru = s.cru := by
    rw [hw]; exact (congrArg State.cru (Work.settleConditions_toState (Work.begin s) e r) :)
  have map : w.map = s.map := first.map
  obtain ⟨v, hv⟩ : ∃ v, v = w.carReply c (decodeCar s.map r.payload) confirms := ⟨_, rfl⟩
  have event : (Work.begin s).replyEvent e cycle r = v.endEvent := by
    unfold Work.replyEvent Work.liftReply
    dsimp only
    rw [owner]
    dsimp only
    rw [← hw, map, if_pos present, kind, hv]
    cases confirms <;> rfl
  have second : w.InCars v := by rw [hv]; exact ((Work.CarStep.refl w).carReply _ _).rest
  have whole := first.trans second
  have posts := endEvent_posts (w := v) (congrArg Work.moved whole :) (congrArg Work.toPlace whole :)
    (congrArg Work.joinsDue whole :)
  refine ⟨w, cru, map, ?_⟩
  have settle : t.cru = ((Work.begin s).replyEvent e cycle r).cru :=
    (congrArg State.cru ((Work.begin s).replyEvent e cycle r).nextPoll.finish_others :).trans
      (congrArg (fun u : Work => u.cru) ((Work.begin s).replyEvent e cycle r).nextPoll_only :)
  rw [settle, event, ← hv]
  exact (congrArg State.cru posts.1 :)

/-- R89, R90, R94, R96: what a good reply of its node makes of a car, as the statements say it. -/
theorem liftReply_taken (owner : e.owner = .car c) (present : carPresent s.map c = true) {confirms : Prop}
    [Decidable confirms] (kind : e.classify r = if confirms then .confirms else .plain) (cycle : Nat) :
    let t := ((Work.begin s).replyEvent e cycle r).nextPoll.finish
    let x := s.car c
    let y := t.car c
    let told := decodeCar s.map r.payload
    let sure := if confirms then x.pendingCommand = none else x.confirmed = true
    let st := if confirms ∧ x.pendingCommand = none ∧ x.state = .recallIssued then .recalling else x.state
    let arrived := sure ∧ told.position ≠ none ∧ told.position = x.target ∧ told.motion = some .stopped ∧
      told.door = some .opened ∧ told.applied = some .recall
    y.position = told.position ∧ y.motion = told.motion ∧ y.door = told.door ∧ y.mode = some told.mode ∧
    y.key = some told.key ∧ y.applied = told.applied ∧ y.stale = false ∧ (∀ i, i ≠ c → t.car i = s.car i) ∧
    (x.state ∈ [.recallIssued, .recalling, .parked] → told.mode ≠ .auto →
      y.state = .heldOut ∧ y.target = none ∧ y.recallStarted = none ∧ y.late = false ∧ y.heldOutActive = true) ∧
    (st = .recalling → told.mode = .auto → arrived →
      y.state = (if x.shutdownDue = true then .shutDown else .parked) ∧ y.recallStarted = none ∧ y.late = false) ∧
    (st = .recalling → told.mode = .auto → ¬ arrived → y.state = .recalling ∧ y.target = x.target) ∧
    (x.state = .heldOut → told.mode = .auto → y.heldOutActive = false ∧ y.state ≠ .heldOut ∧
      y.target = some (s.bank (carBank s.map c)).recallFloor) := by
  intro t x y told sure st arrived
  have hc : c < 6 := carPresent_lt present
  obtain ⟨w, cru, map, settled⟩ := car_liftReply (s := s) (r := r) owner present (decide confirms)
    (by rw [kind]; simp) cycle
  have car (i : Nat) : w.car i = s.car i := congrArg (fun u : Cru => vget u.cars i Car.reset) cru
  have became (i : Nat) : t.car i = (w.carReply c told (decide confirms)).car i :=
    congrArg (fun u : Cru => vget u.cars i Car.reset) settled
  have shown : y.shown = (x.record told).shown := by
    show (t.car c).shown = ((s.car c).record told).shown
    rw [became, shown_carReply hc, car]
  have others : ∀ i, i ≠ c → t.car i = s.car i := fun i hi => by
    rw [became, ((Work.CarStep.refl w).carReply told (decide confirms)).others i hi, car]
  obtain ⟨v, step, heard, judged⟩ := carReply_judged w hc told (decide confirms)
  have result : y = (v.judgeCar c (w.car c).motion).car c := by rw [← judged]; exact became c
  rw [car] at heard
  have keeps := x.heard_keeps told (decide confirms)
  have state : (v.car c).state = st := by
    rw [heard, Car.heard_state]; simp only [decide_eq_true_eq]; rfl
  have mode : (v.car c).mode = some told.mode := by rw [heard]; exact (congrArg Car.mode keeps :)
  have confirmed : (v.car c).confirmed = true ↔ sure := by
    rw [heard, Car.heard_confirmed]; simp only [decide_eq_true_eq]; rfl
  have target : (v.car c).target = x.target := by rw [heard]; exact (congrArg Car.target keeps :)
  have shutdownDue : (v.car c).shutdownDue = x.shutdownDue := by rw [heard]; exact (congrArg Car.shutdownDue keeps :)
  have arrives (on : (v.car c).state = .recalling) : (v.car c).arrived = true ↔ arrived := by
    have told' : (v.car c).shown = (x.record told).shown := by rw [heard]; exact (congrArg Car.shown keeps :)
    simp only [Car.shown, Car.record, Prod.mk.injEq] at told'
    obtain ⟨position, motion, door, -, -, applied, -⟩ := told'
    simp only [Car.arrived, on, position, motion, door, applied, target, Bool.and_eq_true, decide_eq_true_eq, confirmed,
      Option.isSome_iff_ne_none, ne_eq, true_and, and_assoc]
    rfl
  simp only [Car.shown, Car.record, Prod.mk.injEq] at shown
  obtain ⟨position, motion, door, ymode, key, applied, stale⟩ := shown
  refine ⟨position, motion, door, ymode, key, applied, stale, others, fun due out => ?_, fun on auto here => ?_,
    fun on auto away => ?_, fun out auto => ?_⟩
  · have states : (v.car c).state ∈ [.recallIssued, .recalling, .parked] := by
      rw [state]
      show (if _ then CarState.recalling else x.state) ∈ _
      split
      · decide
      · exact due
    obtain ⟨held, target, started, late, active, -⟩ := holdOut_car v hc
    rw [result, judgeCar_out hc states (by simp [Car.inAuto, mode, out])]
    exact ⟨held, target, started, late, active⟩
  · have on' : (v.car c).state = .recalling := state.trans on
    obtain ⟨parked, started, late, -⟩ := judgeParking_arrived hc v ((arrives on').mpr here)
    rw [result, judgeCar_arrived hc on' (by simp [Car.inAuto, mode, auto]) ((arrives on').mpr here)]
    exact ⟨by rw [parked, shutdownDue], started, late⟩
  · have on' : (v.car c).state = .recalling := state.trans on
    rw [result, judgeCar_away on' (by simp [Car.inAuto, mode, auto]) (by simpa using mt (arrives on').mp away)]
    exact ⟨on', target⟩
  · have out' : (v.car c).state = .heldOut := by
      rw [state]
      show (if _ then CarState.recalling else x.state) = _
      rw [if_neg (fun h => by rw [out] at h; simp at h)]
      exact out
    obtain ⟨active, left, target'⟩ := judgeCar_back (before := (w.car c).motion) hc out' (by simp [Car.inAuto, mode, auto])
    rw [result]
    refine ⟨active, left, target'.trans ?_⟩
    rw [step.rest.map, map, State.bank, step.banks, cru]
    rfl

end

end Sys2Proof.Claims
end

section
/-! PROOFS. What a good FLOOR reply does to the doors of its floor (R70, R82, R83, R144). -/

namespace Sys2Proof.Machine

variable {w v u : Work} {d : Nat}

/-! ## Operations on one door -/

/-- From `w` to `v` nothing changed but doors, payloads, and what the event owes for them; no queued door was lost. -/
structure Work.Attends (w v : Work) : Prop where
  rest : { v with
    doors := w.doors, doorMarks := w.doorMarks, conds := w.conds, rbm := w.rbm, given := w.given, moved := w.moved,
    toPlace := w.toPlace } = w
  queued : w.toPlace ⊆ v.toPlace

namespace Work.Attends

theorem refl (w : Work) : w.Attends w := ⟨rfl, List.Subset.refl _⟩

theorem trans (h : w.Attends v) (k : v.Attends u) : w.Attends u where
  rest := (congrArg (fun x : Work => { x with
    doors := w.doors, doorMarks := w.doorMarks, conds := w.conds, rbm := w.rbm, given := w.given, moved := w.moved,
    toPlace := w.toPlace }) k.rest).trans h.rest
  queued := List.Subset.trans h.queued k.queued

theorem map (h : w.Attends v) : v.map = w.map := (congrArg (fun x : Work => x.mst.map) h.rest :)
theorem uptime (h : w.Attends v) : v.uptime = w.uptime := (congrArg (fun x : Work => x.uptime) h.rest :)
theorem rgc (h : w.Attends v) : v.rgc = w.rgc := (congrArg (fun x : Work => x.rgc) h.rest :)
theorem lbu (h : w.Attends v) : v.lbu = w.lbu := (congrArg (fun x : Work => x.lbu) h.rest :)

end Work.Attends

/-- From `w` to `v` an operation on door `i`. -/
structure Work.DoorStep (i : Nat) (w v : Work) : Prop where
  attends : w.Attends v
  others : ∀ d, d ≠ i → v.door d = w.door d

namespace Work.DoorStep

variable {i : Nat}

theorem refl (w : Work) : DoorStep i w w := ⟨.refl w, fun _ _ => rfl⟩

theorem trans (h : DoorStep i w v) (k : DoorStep i v u) : DoorStep i w u :=
  ⟨h.attends.trans k.attends, fun d hd => (k.others d hd).trans (h.others d hd)⟩

theorem setDoor (h : DoorStep i w v) (r : Door) : DoorStep i w (v.setDoor i r) :=
  h.trans ⟨⟨rfl, List.Subset.refl _⟩, fun d hd => v.setDoor_door_ne i d r hd.symm⟩

theorem addMoved (h : DoorStep i w v) (d : Nat) : DoorStep i w (v.addMoved d) :=
  h.trans ⟨⟨rfl, List.Subset.refl _⟩, fun _ _ => rfl⟩

theorem addToPlace (h : DoorStep i w v) (d : Nat) : DoorStep i w (v.addToPlace d) :=
  h.trans ⟨⟨rfl, List.subset_append_left _ _⟩, fun _ _ => rfl⟩

theorem markDoor (h : DoorStep i w v) (d : Nat) : DoorStep i w (v.markDoor d) :=
  h.trans ⟨⟨rfl, List.Subset.refl _⟩, fun _ _ => rfl⟩

theorem reportChange (h : DoorStep i w v) (k : Kind) (n : Nat) (a b : Bool) : DoorStep i w (v.reportChange k n a b) := by
  refine h.trans ⟨⟨?_, ?_⟩, fun d _ => by rw [Work.reportChange_toState]⟩
  · unfold Work.reportChange
    split <;> rfl
  · rw [Work.reportChange_toPlace]
    exact List.Subset.refl _

theorem giveFloor (h : DoorStep i w v) (f : Nat) : DoorStep i w (v.giveFloor f) := by
  unfold Work.giveFloor
  split
  · exact h
  · exact h.trans ⟨⟨rfl, List.Subset.refl _⟩, fun _ _ => rfl⟩

theorem ite {p : Prop} [Decidable p] {a b : Work} (ha : DoorStep i w a) (hb : DoorStep i w b) :
    DoorStep i w (if p then a else b) := by
  split
  · exact ha
  · exact hb

theorem setDoorState (h : DoorStep i w v) (st : DoorState) : DoorStep i w (v.setDoorState i st) :=
  .ite h (((h.setDoor _).markDoor _).addMoved i |>.reportChange _ _ _ _)

theorem confirmStep (h : DoorStep i w v) : DoorStep i w (v.confirmStep i) :=
  .ite (h.setDoorState _) (.ite (.ite (((h.setDoor _).setDoorState _).addToPlace i) ((h.setDoor _).setDoorState _)) h)

theorem doorConfirmed (h : DoorStep i w v) : DoorStep i w (v.doorConfirmed i) := by
  unfold Work.doorConfirmed Work.doorAdvance
  dsimp only
  split
  next q pending => exact (h.setDoor _).giveFloor _
  next => exact .ite h (h.setDoor _)

theorem superviseStrike (h : DoorStep i w v) (s : Strike) : DoorStep i w (v.superviseStrike i s) :=
  .ite (.reportChange (.ite (h.setDoor _) ((h.setDoor _).markDoor _)) _ _ _ _) h

theorem superviseHeld (h : DoorStep i w v) : DoorStep i w (v.superviseHeld i) :=
  .ite (.reportChange (.ite ((h.setDoor _).markDoor _) (h.setDoor _)) _ _ _ _) (.ite (h.setDoor _) h)

theorem doorReport (h : DoorStep i w v) (s : Strike) (p : DoorPosition) : DoorStep i w (v.doorReport i s p) :=
  .ite ((h.setDoor _).superviseStrike s).superviseHeld h

end Work.DoorStep

/-- An operation over several doors takes each door once, from the record it had before. -/
theorem foldl_door {f : Work → Nat → Work} (step : ∀ w i, Work.DoorStep i w (f w i)) {l : List Nat} (nodup : l.Nodup)
    (w : Work) (d : Nat) : w.Attends (l.foldl f w) ∧ (d ∉ l → (l.foldl f w).door d = w.door d) ∧
      (d ∈ l → ∃ v, w.Attends v ∧ v.door d = w.door d ∧ (l.foldl f w).door d = (f v d).door d ∧
        (f v d).Attends (l.foldl f w)) := by
  induction l generalizing w with
  | nil => exact ⟨.refl w, fun _ => rfl, fun h => by cases h⟩
  | cons i l ih =>
    obtain ⟨first, nodup⟩ := List.nodup_cons.mp nodup
    have here := step w i
    obtain ⟨rest, outside, inside⟩ := ih nodup (f w i)
    rw [List.foldl_cons]
    refine ⟨here.attends.trans rest, fun h => ?_, fun h => ?_⟩
    · obtain ⟨apart, later⟩ := not_or.mp (mt List.mem_cons.mpr h)
      rw [outside later, here.others d apart]
    · by_cases same : d = i
      · subst same
        exact ⟨w, .refl w, rfl, outside first, rest⟩
      · obtain ⟨v, attends, before, after, later⟩ := inside ((List.mem_cons.mp h).resolve_left same)
        exact ⟨v, here.attends.trans attends, before.trans (here.others d same), after, later⟩

theorem mem_doorsOf {f d : Nat} : d ∈ doorsOf [f] ↔ d / 2 = f := by
  simp only [doorsOf, List.flatMap_cons, List.flatMap_nil, List.append_nil, List.mem_cons, List.not_mem_nil, or_false]
  omega

theorem doorsOf_nodup (f : Nat) : (doorsOf [f]).Nodup := by
  simp [doorsOf]

/-! ## A door's report (R82, R83, R144) -/

/-- R82, R83: a door's record after a report of its strike and position at a second. -/
def Door.reported (x : Door) (s : Strike) (p : DoorPosition) (now : Nat) : Door :=
  { x with
    strike := some s, position := some p, stale := false
    mismatch := if x.state ≠ .disabled ∧ x.confirmed = true then
      (if s = (if x.desired = .release then .unlocked else .locked) then 0 else min (x.mismatch + 1) 3) else x.mismatch
    faulted := if x.state ≠ .disabled ∧ x.confirmed = true then
      (if s = (if x.desired = .release then .unlocked else .locked) then false
      else x.faulted || decide (2 ≤ x.mismatch)) else x.faulted
    heldSince := if p = .closed then none
      else if x.heldSince = none ∧ (x.state = .locked ∨ x.state = .disabled) then some now else x.heldSince
    held := if p = .closed then false else x.held }

theorem strikeMatches_iff (s : Strike) (o : StrikeOrder) :
    strikeMatches s o = true ↔ s = if o = .release then .unlocked else .locked := by
  cases s <;> cases o <;> decide

theorem watched_iff (st : DoorState) : st.watched = true ↔ st = .locked ∨ st = .disabled := by
  cases st <;> decide

section
variable (bound : d < 64)
include bound

theorem superviseStrike_door (w : Work) (s : Strike) : (w.superviseStrike d s).door d =
    if (w.door d).state ≠ .disabled ∧ (w.door d).confirmed = true then
      (if strikeMatches s (w.door d).desired then { w.door d with mismatch := 0, faulted := false }
      else { w.door d with
        mismatch := satAdd 3 (w.door d).mismatch 1
        faulted := (w.door d).faulted || decide (2 ≤ (w.door d).mismatch) })
    else w.door d := by
  have marked (u : Work) (p : Prop) [Decidable p] : (if p then u else u.markDoor d).door d = u.door d := by
    split <;> rfl
  unfold Work.superviseStrike
  dsimp only
  split
  · rw [Work.reportChange_toState, marked]
    exact w.setDoor_door_self d _ bound
  · rfl

theorem superviseHeld_door (w : Work) : (w.superviseHeld d).door d =
    if (w.door d).position = some .closed then { w.door d with heldSince := none, held := false }
    else if (w.door d).position = some .opened ∧ (w.door d).heldSince = none ∧ (w.door d).state.watched = true then
      { w.door d with heldSince := some w.uptime }
    else w.door d := by
  have marked (u : Work) (b : Bool) : (if b then u.markDoor d else u).door d = u.door d := by
    cases b <;> rfl
  unfold Work.superviseHeld
  dsimp only
  split
  · rw [Work.reportChange_toState, marked]
    exact w.setDoor_door_self d _ bound
  · split
    · exact w.setDoor_door_self d _ bound
    · rfl

/-- R144: a door that is present takes its report. -/
theorem doorReport_door (w : Work) (present : doorPresent w.map d = true) (s : Strike) (p : DoorPosition) :
    (w.doorReport d s p).door d = (w.door d).reported s p w.uptime := by
  have told := w.setDoor_door_self d { w.door d with strike := some s, position := some p, stale := false } bound
  obtain ⟨v, hv⟩ : ∃ v, v = w.setDoor d { w.door d with strike := some s, position := some p, stale := false } := ⟨_, rfl⟩
  rw [← hv] at told
  have uptime : (v.superviseStrike d s).uptime = w.uptime := by
    rw [((Work.DoorStep.refl v).superviseStrike s).attends.uptime, hv]; rfl
  have judged : (v.superviseStrike d s).door d = { (w.door d).reported s p w.uptime with
      heldSince := (w.door d).heldSince, held := (w.door d).held } := by
    rw [superviseStrike_door bound, told]
    simp only [strikeMatches_iff, Door.reported, satAdd]
    split
    · by_cases right : s = if (w.door d).desired = .release then .unlocked else .locked
      · simp only [if_pos right]
      · simp only [if_neg right]
    · rfl
  rw [Work.doorReport, if_pos present]
  dsimp only
  rw [← hv, superviseHeld_door bound, judged, uptime]
  simp only [Door.reported, Option.some.injEq, watched_iff]
  cases p with
  | closed => rfl
  | opened =>
    simp only [reduceCtorEq, if_false, true_and]
    split <;> rfl

end

/-- What a report takes into a record. -/
def Door.shown (x : Door) : Option Strike × Option DoorPosition × Bool := (x.strike, x.position, x.stale)

theorem Door.Enters.shown {o r : Door} {st : DoorState} (h : o.Enters st r) : r.shown = o.shown :=
  (congrArg Door.shown h :)

theorem Door.Compared.shown {o r : Door} (h : o.Compared r) : r.shown = o.shown := by cases h <;> rfl

theorem Door.Advances.shown {o r : Door} (h : o.Advances r) : r.shown = o.shown := by
  cases h with
  | releasing _ e => exact e.shown
  | released _ e => exact e.shown
  | locked _ e => exact e.shown

/-- The settling of an event leaves what a door has shown. -/
theorem Runs.door_shown {n : Reaching} {a : Work} (h : Runs n a w) (closed : ¬ n.doors) (d : Nat) :
    (w.door d).shown = (a.door d).shown := by
  refine h.keeps (P := fun u => (u.door d).shown = (a.door d).shown) (fun u v m hu => ?_) rfl
  rw [← hu]
  obtain same | compared | advanced | ⟨-, -, -, -, enters⟩ := m.door closed d
  · rw [same]
  · exact compared.shown
  · exact advanced.shown
  · exact enters.shown

/-! ## Records that a confirmation leaves (R70) -/

/-- A confirmed door at rest. -/
def Door.Rests (st : DoorState) (again : Bool) (o : Door) : Prop :=
  o.state = st ∧ o.desired = st.wanted ∧ o.confirmed = true ∧ o.reRequest = again

theorem Door.lasts_rests {st : DoorState} (rest : st ∈ [.locked, .released]) (again : Bool) :
    Door.Lasts (Door.Rests st again) where
  compared := by
    rintro o r ⟨state, desired, confirmed, request⟩ c
    cases c with
    | met => exact ⟨state, desired, confirmed, request⟩
    | holds differs => rw [state] at differs; exact absurd desired.symm differs
    | sent differs => rw [state] at differs; exact absurd desired.symm differs
  advanced := by
    rintro o r ⟨state, -⟩ c
    cases c with
    | releasing h => rw [← state, h] at rest; exact absurd rest (by decide)
    | released h => rw [← state, h] at rest; exact absurd rest (by decide)
    | locked h => rw [← state, h] at rest; exact absurd rest (by decide)

theorem Door.Rests.not_relocking {st : DoorState} (rest : st ∈ [.locked, .released]) {again : Bool} {o : Door}
    (h : o.Rests st again) : o.state ≠ .relocking := by
  intro state
  rw [← h.1, state] at rest
  exact absurd rest (by decide)

/-- R68: a door on its way to release, with nothing requested again. -/
def Door.OnItsWay (o : Door) : Prop := o.reRequest = false ∧ o.state ∈ [.releasePending, .releasing, .released]

theorem Door.lasts_onItsWay : Door.Lasts Door.OnItsWay where
  compared := by
    rintro o r ⟨request, state⟩ c
    cases c <;> exact ⟨request, state⟩
  advanced := by
    rintro o r ⟨request, state⟩ c
    cases c with
    | releasing _ e => exact ⟨(congrArg Door.reRequest e :).trans request, by rw [e.state]; decide⟩
    | released _ e => exact ⟨(congrArg Door.reRequest e :).trans request, by rw [e.state]; decide⟩
    | locked h => rw [h] at state; exact absurd state (by decide)

/-- A property of a door's record that settling and a report keep. -/
structure Door.Stays (P : Door → Prop) : Prop where
  lasts : Door.Lasts P
  reported : ∀ {o : Door} s p now, P o → P (o.reported s p now)
  still : ∀ o, P o → o.state = .relocking → o.reRequest = false

theorem Door.stays_rests {st : DoorState} (rest : st ∈ [.locked, .released]) (again : Bool) :
    Door.Stays (Door.Rests st again) :=
  ⟨Door.lasts_rests rest again, fun _ _ _ h => h, fun _ h state => absurd state (h.not_relocking rest)⟩

theorem Door.stays_onItsWay : Door.Stays Door.OnItsWay :=
  ⟨Door.lasts_onItsWay, fun _ _ _ h => h, fun _ h _ => h.1⟩

/-! ## A confirmation (R70) -/

section
variable (bound : d < 64)
include bound

theorem confirmStep_released (state : (w.door d).state = .releasing) (desired : (w.door d).desired = .release)
    (confirmed : (w.door d).confirmed = true) :
    ((w.confirmStep d).door d).Rests .released (w.door d).reRequest := by
  have step : w.confirmStep d = w.setDoorState d .released := if_pos ⟨state, desired⟩
  have enters := w.setDoorState_enters d .released bound
  rw [step]
  exact ⟨enters.state, (congrArg Door.desired enters :).trans desired, (congrArg Door.confirmed enters :).trans confirmed,
    (congrArg Door.reRequest enters :)⟩

theorem confirmStep_locked (state : (w.door d).state = .relocking) (desired : (w.door d).desired = .lock)
    (confirmed : (w.door d).confirmed = true) (none : (w.door d).reRequest = false ∨ w.doorDemand d = none) :
    ((w.confirmStep d).door d).Rests .locked false := by
  have step : w.confirmStep d = (w.setDoor d { w.door d with reRequest := false }).setDoorState d .locked := by
    unfold Work.confirmStep
    dsimp only
    rw [if_neg (fun h => by rw [state] at h; exact absurd h.1 (by decide)), if_pos ⟨state, desired⟩,
      if_neg (by obtain h | h := none <;> simp [h])]
  have record := w.setDoor_door_self d { w.door d with reRequest := false } bound
  have enters := (w.setDoor d { w.door d with reRequest := false }).setDoorState_enters d .locked bound
  rw [record] at enters
  rw [step]
  exact ⟨enters.state, (congrArg Door.desired enters :).trans desired, (congrArg Door.confirmed enters :).trans confirmed,
    (congrArg Door.reRequest enters :)⟩

theorem confirmStep_queues (state : (w.door d).state = .relocking) (desired : (w.door d).desired = .lock)
    (again : (w.door d).reRequest = true) (demand : w.doorDemand d ≠ none) :
    ((w.confirmStep d).door d).OnItsWay ∧ d ∈ (w.confirmStep d).toPlace := by
  have step : w.confirmStep d = (w.setDoor d { w.door d with reRequest := false }).queueDoor d := by
    unfold Work.confirmStep
    dsimp only
    rw [if_neg (fun h => by rw [state] at h; exact absurd h.1 (by decide)), if_pos ⟨state, desired⟩,
      if_pos (by simp [again, Option.isSome_iff_ne_none, demand])]
  have record := w.setDoor_door_self d { w.door d with reRequest := false } bound
  have enters := (w.setDoor d { w.door d with reRequest := false }).setDoorState_enters d .releasePending bound
  rw [record] at enters
  rw [step]
  refine ⟨⟨(congrArg Door.reRequest enters :), ?_⟩, List.mem_append_right _ (List.mem_singleton.mpr rfl)⟩
  show (((w.setDoor d { w.door d with reRequest := false }).setDoorState d .releasePending).door d).state ∈ _
  rw [enters.state]
  decide

theorem doorConfirmed_door (present : doorPresent w.map d = true) (unconfirmed : (w.door d).confirmed = false)
    (pending : (w.door d).pendingDesired = none) :
    (w.doorConfirmed d).door d = { w.door d with confirmed := true, mismatch := 0 } := by
  unfold Work.doorConfirmed
  dsimp only
  rw [pending]
  dsimp only
  rw [if_neg (by simp [unconfirmed, present])]
  exact w.setDoor_door_self d _ bound

/-- R70: a door of the floor whose confirmed was clear takes its confirmation, and then its confirmation step. -/
theorem floorConfirmed_door (present : doorPresent w.map d = true) (unconfirmed : (w.door d).confirmed = false)
    (pending : (w.door d).pendingDesired = none) : w.Attends (w.floorConfirmed (d / 2)) ∧
      ∃ v, w.Attends v ∧ v.door d = { w.door d with confirmed := true, mismatch := 0 } ∧
        (w.floorConfirmed (d / 2)).door d = (v.confirmStep d).door d ∧
        (v.confirmStep d).Attends (w.floorConfirmed (d / 2)) := by
  have here : d ∈ doorsOf [d / 2] := mem_doorsOf.mpr rfl
  have nodup := doorsOf_nodup (d / 2)
  have confirm (w : Work) (i : Nat) : Work.DoorStep i w (w.doorConfirmed i) := (Work.DoorStep.refl w).doorConfirmed
  have judge (w : Work) (i : Nat) : Work.DoorStep i w (w.confirmStep i) := (Work.DoorStep.refl w).confirmStep
  obtain ⟨attends, -, inside⟩ := foldl_door confirm nodup w d
  obtain ⟨u, toU, same, record, -⟩ := inside here
  obtain ⟨w1, hw1⟩ : ∃ w1, w1 = (doorsOf [d / 2]).foldl Work.doorConfirmed w := ⟨_, rfl⟩
  rw [← hw1] at attends record
  have confirmed : w1.door d = { w.door d with confirmed := true, mismatch := 0 } := by
    rw [record, doorConfirmed_door bound (by rw [toU.map]; exact present) (by rw [same]; exact unconfirmed)
      (by rw [same]; exact pending), same]
  obtain ⟨l, hl⟩ : ∃ l, l = ((doorsOf [d / 2]).filter fun d => !(w.door d).confirmed).filter fun d => (w1.door d).confirmed :=
    ⟨_, rfl⟩
  have listed : d ∈ l := by
    rw [hl]
    exact List.mem_filter.mpr ⟨List.mem_filter.mpr ⟨here, by simp [unconfirmed]⟩, by rw [confirmed]⟩
  have once : l.Nodup := by rw [hl]; exact (nodup.filter _).filter _
  have whole : w.floorConfirmed (d / 2) = l.foldl Work.confirmStep w1 := by
    rw [hl, hw1]; rfl
  obtain ⟨attends', -, inside'⟩ := foldl_door judge once w1 d
  obtain ⟨v, toV, same', record', later⟩ := inside' listed
  rw [whole]
  exact ⟨attends.trans attends', v, attends.trans toV, same'.trans confirmed, record', later⟩

end

/-! ## The delivery of a floor's reply (R144) -/

/-- What an event has gathered for its end. -/
def Work.gathered (w : Work) : List Nat × List Nat × Bool := (w.moved, w.toPlace, w.joinsDue)

theorem gathered_reportChange (w : Work) (k : Kind) (n : Nat) (a b : Bool) :
    (w.reportChange k n a b).gathered = w.gathered := by
  unfold Work.reportChange
  split <;> rfl

theorem gathered_ite (p : Prop) [Decidable p] {a b : Work} (ha : a.gathered = w.gathered) (hb : b.gathered = w.gathered) :
    (if p then a else b).gathered = w.gathered := by
  split
  · exact ha
  · exact hb

theorem gathered_doorReport (w : Work) (d : Nat) (s : Strike) (p : DoorPosition) :
    (w.doorReport d s p).gathered = w.gathered := by
  have strike (w : Work) : (w.superviseStrike d s).gathered = w.gathered := by
    exact gathered_ite _ ((gathered_reportChange _ _ _ _ _).trans (gathered_ite _ rfl rfl)) rfl
  have held (w : Work) : (w.superviseHeld d).gathered = w.gathered := by
    exact gathered_ite _ ((gathered_reportChange _ _ _ _ _).trans (gathered_ite _ rfl rfl)) (gathered_ite _ rfl rfl)
  unfold Work.doorReport
  split
  · exact (held _).trans (strike _)
  · rfl

/-- R144: the reports of a floor's reply reach its doors and its join. -/
def Work.floorTold (w : Work) (f : Nat) (payload : List Byte) : Work :=
  ((doorsOf [f]).foldl
    (fun w d => w.doorReport d (decodeStrike (byteAt payload (d % 2))) (decodePosition (byteAt payload (d % 2)))) w).speakerReport
    f (decodeSelector (byteAt payload 2)) ((byteAt payload 3).testBit 0)

theorem floorReply_confirms (w : Work) (f : Nat) (payload : List Byte) :
    w.floorReply f .confirms payload = (((w.floorConfirmed f).joinConfirmed f).settle).floorTold f payload := rfl

theorem floorReply_plain (w : Work) (f : Nat) (payload : List Byte) :
    w.floorReply f .plain payload = w.floorTold f payload := rfl

theorem view_speakerReport (w : Work) (f : Nat) (j : Option Selector) (fault : Bool) :
    (w.speakerReport f j fault).view = w.view := Work.view_reportChange _ _ _ _ _

theorem floorTold_rest (w : Work) (f : Nat) (payload : List Byte) :
    (w.floorTold f payload).lbu = w.lbu ∧ (w.floorTold f payload).gathered = w.gathered := by
  unfold Work.floorTold
  obtain ⟨u, hu⟩ : ∃ u, u = (doorsOf [f]).foldl (fun w d =>
      w.doorReport d (decodeStrike (byteAt payload (d % 2))) (decodePosition (byteAt payload (d % 2)))) w := ⟨_, rfl⟩
  have attends := (foldl_door (fun w i => (Work.DoorStep.refl w).doorReport (decodeStrike (byteAt payload (i % 2)))
    (decodePosition (byteAt payload (i % 2)))) (doorsOf_nodup f) w 0).1
  have gathered := foldl_keeps Work.gathered (fun w i => gathered_doorReport w i (decodeStrike (byteAt payload (i % 2)))
    (decodePosition (byteAt payload (i % 2)))) (doorsOf [f]) w
  rw [← hu] at attends gathered ⊢
  exact ⟨(congrArg View.lbu (view_speakerReport u f _ _) :).trans attends.lbu,
    (gathered_reportChange _ _ _ _ _).trans gathered⟩

theorem floorTold_door (w : Work) (bound : d < 64) (present : doorPresent w.map d = true) (payload : List Byte) :
    (w.floorTold (d / 2) payload).door d = (w.door d).reported (decodeStrike (byteAt payload (d % 2)))
      (decodePosition (byteAt payload (d % 2))) w.uptime := by
  obtain ⟨-, -, inside⟩ := foldl_door (fun w i => (Work.DoorStep.refl w).doorReport
    (decodeStrike (byteAt payload (i % 2))) (decodePosition (byteAt payload (i % 2)))) (doorsOf_nodup (d / 2)) w d
  obtain ⟨v, attends, same, record, -⟩ := inside (mem_doorsOf.mpr rfl)
  have doors : (w.floorTold (d / 2) payload).doors = _ := (congrArg View.doors (view_speakerReport _ (d / 2) _ _) :)
  rw [State.door, doors]
  refine record.trans ?_
  rw [doorReport_door bound v (by rw [attends.map]; exact present), same, attends.uptime]

end Sys2Proof.Machine

namespace Sys2Proof.Claims

open Sys2Proof Sys2Proof.Machine

section
variable {s : State} {e : NodeEntry} {r : NodeReply} {d : Nat}

/-- The entry answered, before its floor is told. -/
theorem floorReply_begins (cycle : Nat) (owner : e.owner = .floor (d / 2)) :
    ∃ w : Work, { w.toState with rbm := s.rbm } = s ∧ w.gathered = ([], [], false) ∧
      let v := w.floorReply (d / 2) (e.classify r) r.payload
      let t := ((Work.begin s).replyEvent e cycle r).nextPoll.finish
      t.doors = v.endEvent.doors ∧ t.lbu = v.endEvent.lbu := by
  obtain ⟨w, hw⟩ : ∃ w, w = ((Work.begin s).settleConditions e r).setEntry ((e.settled r cycle).toggled r (e.classify r)) :=
    ⟨_, rfl⟩
  have state : { w.toState with rbm := s.rbm } = s := by
    rw [hw]
    exact (congrArg (fun u : State => { u with rbm := s.rbm }) (Work.settleConditions_toState (Work.begin s) e r) :)
  have gathered : w.gathered = ([], [], false) := by
    rw [hw]
    exact (gathered_reportChange _ _ _ _ _).trans
      ((gathered_reportChange _ _ _ _ _).trans (gathered_reportChange (Work.begin s) _ _ _ _))
  have event : (Work.begin s).replyEvent e cycle r = (w.floorReply (d / 2) (e.classify r) r.payload).endEvent := by
    unfold Work.replyEvent
    dsimp only
    rw [owner, hw]
  have others := ((Work.begin s).replyEvent e cycle r).nextPoll.finish_others
  have only := ((Work.begin s).replyEvent e cycle r).nextPoll_only
  refine ⟨w, state, gathered, ?_⟩
  dsimp only
  rw [← event]
  exact ⟨(congrArg State.doors others :).trans (congrArg (fun u : Work => u.doors) only :),
    (congrArg State.lbu others :).trans (congrArg (fun u : Work => u.lbu) only :)⟩

/-- R70: a property of a door that its confirmation step gave, in the rest of the event. -/
theorem confirmed_stays {w : Work} {P : Door → Prop} (bound : d < 64) (present : doorPresent w.map d = true)
    (payload : List Byte) (stays : Door.Stays P) {v : Work} (record : P ((v.confirmStep d).door d))
    (same : (w.floorConfirmed (d / 2)).door d = (v.confirmStep d).door d) :
    let t := (w.floorReply (d / 2) .confirms payload).endEvent
    P (t.door d) ∧ (d ∈ (w.floorConfirmed (d / 2)).toPlace → t.lbu.has (.door d) = true) := by
  intro t
  obtain ⟨q, hq⟩ : ∃ q, q = (w.floorConfirmed (d / 2)).joinConfirmed (d / 2) := ⟨_, rfl⟩
  have view : q.view = (w.floorConfirmed (d / 2)).view := by
    rw [hq]
    unfold Work.joinConfirmed
    dsimp only
    split
    · exact Work.view_giveFloor _ _
    · rfl
  have settles : Runs {} q q.settle := (Runs.refl q).settle trivial
  have here : P (q.door d) := by
    rw [State.door, show q.doors = _ from congrArg View.doors view]
    show P ((w.floorConfirmed (d / 2)).door d)
    rw [same]; exact record
  have map : q.settle.map = w.map := by
    rw [hq]
    exact Leads.untouched (n := {}) (Leads.settle (Leads.joinConfirmed (Leads.floorConfirmed (Leads.refl w) _) _)) |>.map
  have told := floorTold_door q.settle bound (by rw [map]; exact present) payload
  obtain ⟨account, -⟩ := floorTold_rest q.settle (d / 2) payload
  have event : t = (q.settle.floorTold (d / 2) payload).endEvent := by rw [hq]; rfl
  have ends : Runs {} (q.settle.floorTold (d / 2) payload) t := by
    rw [event]; exact Runs.endEvent (.refl _) trivial trivial
  refine ⟨ends.door_lasts stays.lasts id stays.still ?_, fun queued => ?_⟩
  · rw [told]
    exact stays.reported _ _ _ (settles.door_lasts stays.lasts id stays.still here)
  · have toPlace : d ∈ q.toPlace := by rw [show q.toPlace = _ from congrArg View.toPlace view]; exact queued
    obtain ⟨settled, claimed⟩ := Work.settle_claims bound stays.lasts stays.still here (.inr toPlace)
    refine (ends.door_claimed stays.lasts id stays.still ⟨?_, by rw [account]; exact claimed⟩).2
    rw [told]
    exact stays.reported _ _ _ settled

/-- R144: every door of the floor shows what the reply gave, whatever the event did before it. -/
theorem floorReply_shows {w : Work} (bound : d < 64) (present : doorPresent w.map d = true) (payload : List Byte)
    {kind : ReplyKind} (heard : kind = .confirms ∨ kind = .plain) :
    ((w.floorReply (d / 2) kind payload).endEvent.door d).shown =
      (some (decodeStrike (byteAt payload (d % 2))), some (decodePosition (byteAt payload (d % 2))), false) := by
  have shows (q : Work) (map : q.map = w.map) :
      ((q.floorTold (d / 2) payload).endEvent.door d).shown =
        (some (decodeStrike (byteAt payload (d % 2))), some (decodePosition (byteAt payload (d % 2))), false) := by
    have ends : Runs {} (q.floorTold (d / 2) payload) (q.floorTold (d / 2) payload).endEvent :=
      Runs.endEvent (.refl _) trivial trivial
    rw [ends.door_shown id, floorTold_door q bound (by rw [map]; exact present)]
    rfl
  obtain rfl | rfl := heard
  · rw [floorReply_confirms]
    exact shows _ (Leads.untouched (n := {})
      (Leads.settle (Leads.joinConfirmed (Leads.floorConfirmed (Leads.refl w) _) _)) |>.map)
  · rw [floorReply_plain]
    exact shows w rfl

/-- R70, R82, R83, R144: what a good reply of its node makes of a door, as the statements say it. -/
theorem floorReply_taken (owner : e.owner = .floor (d / 2)) (bound : d < 64) (present : doorPresent s.map d = true)
    {confirms : Prop} [Decidable confirms] (kind : e.classify r = if confirms then .confirms else .plain) (cycle : Nat) :
    let t := ((Work.begin s).replyEvent e cycle r).nextPoll.finish
    let x := s.door d
    let y := t.door d
    let strike := decodeStrike (byteAt r.payload (d % 2))
    let position := decodePosition (byteAt r.payload (d % 2))
    y.strike = some strike ∧ y.position = some position ∧ y.stale = false ∧
    (¬ confirms → y = x.reported strike position s.uptime) ∧
    (confirms → x.confirmed = false → x.pendingDesired = none →
      (x.state = .releasing → x.desired = .release → y.state = .released ∧ y.confirmed = true) ∧
      (x.state = .relocking → x.desired = .lock →
        (x.reRequest = false ∨ s.doorDemand d = none → y.state = .locked ∧ y.confirmed = true ∧ y.reRequest = false) ∧
        (x.reRequest = true → s.doorDemand d ≠ none →
          t.lbu.has (.door d) = true ∧ y.reRequest = false ∧
          y.state ∈ [.releasePending, .releasing, .released]))) := by
  intro t x y strike position
  obtain ⟨w, state, gathered, doors, lbu⟩ := floorReply_begins (s := s) (r := r) cycle owner
  have map : w.map = s.map := (congrArg State.map state :)
  have record : w.door d = x := (congrArg (fun u : State => u.door d) state :)
  have demand : w.doorDemand d = s.doorDemand d := (congrArg (fun u : State => u.doorDemand d) state :)
  have uptime : w.uptime = s.uptime := (congrArg State.uptime state :)
  have final : y = (w.floorReply (d / 2) (e.classify r) r.payload).endEvent.door d :=
    congrArg (fun u => vget u d Door.reset) doors
  have here : doorPresent w.map d = true := by rw [map]; exact present
  have shown := floorReply_shows bound here r.payload (kind := e.classify r) (by rw [kind]; split <;> simp)
  rw [← final] at shown
  simp only [Door.shown, Prod.mk.injEq] at shown
  obtain ⟨strikes, positions, stale⟩ := shown
  refine ⟨strikes, positions, stale, fun plain => ?_, fun sure unconfirmed pending => ?_⟩
  · have told := floorTold_door w bound here r.payload
    obtain ⟨-, rest⟩ := floorTold_rest w (d / 2) r.payload
    rw [final, kind, if_neg plain, floorReply_plain]
    rw [gathered] at rest
    obtain ⟨moved, toPlace, joinsDue⟩ : (w.floorTold (d / 2) r.payload).moved = [] ∧
        (w.floorTold (d / 2) r.payload).toPlace = [] ∧ (w.floorTold (d / 2) r.payload).joinsDue = false := by
      simpa [Work.gathered] using rest
    rw [show (w.floorTold (d / 2) r.payload).endEvent.door d = (w.floorTold (d / 2) r.payload).door d from
      (congrArg (fun u : State => u.door d) (endEvent_posts moved toPlace joinsDue).1 :), told, record, uptime]
  · rw [kind, if_pos sure] at final lbu
    obtain ⟨-, v, attends, before, same, later⟩ := floorConfirmed_door (w := w) bound here (by rw [record]; exact unconfirmed)
      (by rw [record]; exact pending)
    rw [record] at before
    have rested {st : DoorState} {again : Bool} (rest : st ∈ [.locked, .released])
        (h : ((v.confirmStep d).door d).Rests st again) : y.Rests st again := by
      rw [final]
      exact (confirmed_stays bound here r.payload (Door.stays_rests rest again) h same).1
    have demands : v.doorDemand d = s.doorDemand d := by
      rw [← demand]
      unfold State.doorDemand State.floor
      rw [attends.rgc, before, record]
    refine ⟨fun releasing desired => ?_, fun relocking desired => ⟨fun none => ?_, fun again demanded => ?_⟩⟩
    · obtain ⟨released, -, confirmed, -⟩ := rested (by decide)
        (confirmStep_released bound (by rw [before]; exact releasing) (by rw [before]; exact desired) (by rw [before]))
      exact ⟨released, confirmed⟩
    · obtain ⟨locked, -, confirmed, request⟩ := rested (by decide)
        (confirmStep_locked bound (by rw [before]; exact relocking) (by rw [before]; exact desired) (by rw [before])
          (by rw [before, demands]; exact none))
      exact ⟨locked, confirmed, request⟩
    · obtain ⟨way, queued⟩ := confirmStep_queues bound (w := v) (by rw [before]; exact relocking)
        (by rw [before]; exact desired) (by rw [before]; exact again) (by rw [demands]; exact demanded)
      obtain ⟨onWay, claims⟩ := confirmed_stays bound here r.payload Door.stays_onItsWay way same
      rw [← final] at onWay
      refine ⟨?_, onWay.1, onWay.2⟩
      show ((Work.begin s).replyEvent e cycle r).nextPoll.finish.lbu.has (.door d) = true
      rw [lbu]
      exact claims (later.queued queued)

end

/-- Settles O58. -/
theorem floorAndLiftRepliesAreTaken : Obligations.FloorAndLiftRepliesAreTaken := by
  intro s p e bytes r started polling here good known fresh noSlip
  have kind := classify_of_heard known fresh noSlip
  refine ⟨_, exec_goodReply started polling here good, fun d bound owner present => ?_, fun c owner present => ?_⟩
  · exact floorReply_taken owner bound present kind p.cycle
  · exact liftReply_taken owner present kind p.cycle

end Sys2Proof.Claims
end

section
/-! PROOFS. Chapter 6: the judgement of the channels at a STATUS reply (R124, R125), as steps on the programs, the
channels and the player's list. -/

namespace Sys2Proof.Machine

variable {a w v : Work} {d : Nat}

/-! ## The board -/

/-- What the judgement of a reply works on. -/
structure Board where
  programs : Vector Program 6
  channels : Vector Channel 6
  commands : List PlayerCommand

def Board.program (x : Board) (k : ProgramKind) : Program := vget x.programs k.priority .reset
def Board.channel (x : Board) (c : Nat) : Channel := vget x.channels c .reset

def Work.board (w : Work) : Board := ⟨w.ans.programs, w.ans.channels, w.plp.commands⟩

theorem Work.board_of_view {y : View} (h : w.view = y) : w.board = ⟨y.programs, y.channels, y.commands⟩ := by
  subst h; rfl

def Board.setProgram (x : Board) (k : ProgramKind) (q : Program) : Board :=
  { x with programs := vset x.programs k.priority q }

def Board.setChannel (x : Board) (c : Nat) (r : Channel) : Board := { x with channels := vset x.channels c r }

def Board.command (x : Board) (more : List PlayerCommand) : Board := { x with commands := x.commands ++ more }

section
variable (x : Board) (k j : ProgramKind) (c i : Nat) (q : Program) (r : Channel)

theorem Board.program_setProgram : (x.setProgram k q).program j = if k = j then q else x.program j := by
  split
  next same => subst same; exact vget_vset_self _ _ _ _ (ProgramKind.priority_lt k)
  next other => exact vget_vset_ne _ _ _ _ _ fun e => other (ProgramKind.priority_injective e)

theorem Board.channel_setChannel_self (bound : c < 6) : (x.setChannel c r).channel c = r :=
  vget_vset_self _ _ _ _ bound

theorem Board.channel_setChannel_ne (other : i ≠ c) : (x.setChannel i r).channel c = x.channel c :=
  vget_vset_ne _ _ _ _ _ other

theorem Board.channel_setChannel :
    (x.setChannel i r).channel c = x.channel c ∨ (i = c ∧ (x.setChannel i r).channel c = r) := by
  by_cases same : i = c
  · subst same
    by_cases bound : i < 6
    · exact .inr ⟨rfl, x.channel_setChannel_self i r bound⟩
    · refine .inl ?_
      rw [Board.channel, Board.setChannel, vset_of_le _ _ _ (Nat.not_lt.mp bound)]
      rfl
  · exact .inl (x.channel_setChannel_ne c i r same)

end

/-! ## A grant pass on the board (R115) -/

/-- The channels after a program was stopped with nothing reserved. -/
def Board.stopped (x : Board) (k : ProgramKind) (now : Nat) : Board :=
  match (x.program k).channel with
  | some c => x.setChannel c ((x.channel c).stopped k none now)
  | none => x

/-- A step of a grant pass, and of the settling of an event. -/
inductive Board.Pass (x : Board) : Board → Prop
  | command (more) : Pass x (x.command more)
  | unreserved (i) : Pass x (x.setChannel i { x.channel i with reservedFor := none })
  | onward (k) (waits : (x.program k).state = .waitingBudget) (q : Program) (own : q.channel = (x.program k).channel)
      (state : q.state = .playing) : Pass x (x.setProgram k q)
  | cued (k) (waits : (x.program k).state = .waitingBudget) (q : Program) (own : q.channel = (x.program k).channel)
      (state : q.state = .playing) (c) (here : (x.program k).channel = some c) (r) (hr : (x.channel c).Cued r) (cmd) :
      Pass x (((x.setProgram k q).setChannel c r).command [cmd])
  | completed (k) (waits : (x.program k).state = .waitingBudget) (q : Program) (own : q.channel = (x.program k).channel)
      (state : q.state = .stopping) (floors : q.floorSet = 0) (now) :
      Pass x (((x.stopped k now).setProgram k q).command (x.program k).stops)

/-- A run of such steps. -/
def Board.Passes : Board → Board → Prop := Relation.ReflTransGen Board.Pass

theorem Work.board_setProgram (w : Work) (k : ProgramKind) (q : Program) :
    (w.setProgram k q).board = w.board.setProgram k q := Work.board_of_view (w.view_setProgram k q)

theorem Work.board_setChannel (w : Work) (c : Nat) (r : Channel) :
    (w.setChannel c r).board = w.board.setChannel c r := rfl

theorem Board.setProgram_setProgram (x : Board) (k : ProgramKind) (p q : Program) :
    (x.setProgram k p).setProgram k q = x.setProgram k q := by
  unfold Board.setProgram
  dsimp only
  rw [vset_vset]

theorem Work.board_stopped (w : Work) (k : ProgramKind) :
    (⟨w.ans.programs, w.channelsStopped k none, w.plp.commands⟩ : Board) = w.board.stopped k w.uptime := by
  unfold Work.channelsStopped Board.stopped
  rw [show w.board.program k = w.program k from rfl]
  cases (w.program k).channel with
  | none => rfl
  | some c => rfl

/-- What beginning a slot does to the board. -/
inductive Board.Played (x : Board) (k : ProgramKind) : Board → Prop
  | onward (q) (hq : (x.program k).Onward q) : Played x k (x.setProgram k q)
  | cued (q) (hq : (x.program k).Onward q) (c) (here : (x.program k).channel = some c) (r) (hr : (x.channel c).Cued r)
      (cmd) : Played x k (((x.setProgram k q).setChannel c r).command [cmd])
  | completed (q) (hq : (x.program k).Onward q) (now) :
      Played x k (((x.stopped k now).setProgram k (q.stopped k .completed).emptied).command (x.program k).stops)

theorem Work.Played.board {k : ProgramKind} (h : w.Played k v) : w.board.Played k v.board := by
  cases h with
  | onward q hq view => rw [Work.board_of_view view]; exact .onward (x := w.board) q hq
  | cued q hq c hc r hr cmd view => rw [Work.board_of_view view]; exact .cued (x := w.board) q hq c hc r hr cmd
  | completed finite q hq view =>
    rw [Work.board_of_view view]
    have stopped := Board.Played.completed (x := w.board) (k := k) q hq w.uptime
    rw [← w.board_stopped k] at stopped
    exact stopped

/-- R115: a grant on the board. -/
theorem Board.Played.pass {x y : Board} {k : ProgramKind} (waits : (x.program k).state = .waitingBudget)
    (h : (x.setProgram k (x.program k).playing).Played k y) : x.Pass y := by
  have record : (x.setProgram k (x.program k).playing).program k = (x.program k).playing := by
    rw [Board.program_setProgram, if_pos rfl]
  have own {q : Program} (hq : (x.program k).playing.Onward q) : q.channel = (x.program k).channel ∧ q.state = .playing :=
    ⟨(congrArg Program.channel hq :), (congrArg Program.state hq :)⟩
  cases h with
  | onward q hq =>
    rw [record] at hq
    rw [Board.setProgram_setProgram]
    exact .onward k waits q (own hq).1 (own hq).2
  | cued q hq c here r hr cmd =>
    rw [record] at hq here
    rw [Board.setProgram_setProgram]
    exact .cued k waits q (own hq).1 (own hq).2 c here r hr cmd
  | completed q hq now =>
    rw [record] at hq ⊢
    have same : ((x.setProgram k (x.program k).playing).stopped k now).setProgram k (q.stopped k .completed).emptied =
        (x.stopped k now).setProgram k (q.stopped k .completed).emptied := by
      unfold Board.stopped
      rw [record, show (x.program k).playing.channel = (x.program k).channel from rfl]
      cases (x.program k).channel with
      | none => exact Board.setProgram_setProgram _ _ _ _
      | some c => exact congrArg (fun y : Board => y.setChannel c _) (x.setProgram_setProgram k _ _)
    rw [same]
    have ended := q.completed_eq k
    exact .completed k waits _ (by rw [ended]; exact (own hq).1) (by rw [ended]) (by rw [ended]) now

theorem Micro.pass (m : Micro {} w v) : w.board.Pass v.board := by
  have still {y : View} (h : v.view = y) (programs : y.programs = w.ans.programs) (channels : y.channels = w.ans.channels)
      (commands : y.commands = w.plp.commands) : w.board.Pass v.board := by
    have same : v.board = w.board.command [] := by
      rw [Work.board_of_view h, programs, channels, commands]
      exact congrArg (Board.mk _ _) (List.append_nil _).symm
    rw [same]; exact .command []
  cases m with
  | granted k waits h =>
    subst h
    exact (w.board_setProgram k (w.program k).playing ▸ (w.programGranted_played waits).1.board).pass waits
  | unreserved i h => rw [Work.board_of_view h]; exact .unreserved i
  | issued cmd h => rw [Work.board_of_view h]; exact .command [cmd]
  | same h => exact still h rfl rfl rfl
  | cleared _ h => exact still h rfl rfl rfl
  | compared _ _ _ h => exact still h rfl rfl rfl
  | advanced _ _ _ h => exact still h rfl rfl rfl
  | requeued _ _ _ _ _ _ _ h => exact still h rfl rfl rfl
  | placed h => exact still h rfl rfl rfl
  | passed h => exact still h rfl rfl rfl
  | dropped _ h => exact still h rfl rfl rfl
  | claimed _ no => exact no.elim
  | reached no => exact no.elim
  | stopped _ _ _ _ reason => cases reason with
    | emptied no => exact no.elim
    | preempted _ no => exact no.elim
    | shed no => exact no.elim
  | floors _ no => exact no.elim
  | started _ no => exact no.elim
  | ended _ no => exact no.elim
  | gaveUp _ no => exact no.elim
  | taken _ _ no => exact no.elim
  | displaced _ _ no => exact no.elim

theorem Runs.passes (h : Runs {} a w) : a.board.Passes w.board := by
  induction h with
  | refl => exact .refl
  | tail _ m ih => exact .tail ih m.pass

/-- What every step of a pass keeps, the pass keeps. -/
theorem Board.Passes.keeps {x y : Board} {P : Board → Prop} (h : x.Passes y) (step : ∀ x y, x.Pass y → P x → P y)
    (hx : P x) : P y := by
  induction h with
  | refl => exact hx
  | tail _ m ih => exact step _ _ m ih

/-! ## A channel taken, and a channel faulted (R113, R119, R125) -/

theorem Work.board_dropClaim (w : Work) (who : Claimant) : (w.dropClaim who).board = w.board :=
  Work.board_of_view (w.view_dropClaim who)

theorem Work.passes_takeChannel (w : Work) (k : ProgramKind) (c : Nat) :
    ((w.board.setChannel c { (w.channel c).freed with state := .held, holder := some k }).setProgram k
      { w.program k with state := .waitingBudget, channel := some c }).Passes (w.takeChannel k c).board := by
  unfold Work.takeChannel Work.placeProgram
  dsimp only
  obtain ⟨u, hu⟩ : ∃ u, u = (w.setChannel c { (w.channel c).freed with state := .held, holder := some k }).setProgram k
      { w.program k with state := .waitingBudget, channel := some c } := ⟨_, rfl⟩
  have board := Work.board_setProgram (w.setChannel c { (w.channel c).freed with state := .held, holder := some k }) k
    { w.program k with state := .waitingBudget, channel := some c }
  have pass : Runs {} (u.setLbu (u.lbu.place (.program k) (programLevel k) (channelCost u.map)))
      ((u.setLbu (u.lbu.place (.program k) (programLevel k) (channelCost u.map))).runPass) := (Runs.refl _).runPass
  have passes := pass.passes
  rw [show (u.setLbu (u.lbu.place (.program k) (programLevel k) (channelCost u.map))).board = u.board from rfl] at passes
  rw [hu] at passes
  rw [board] at passes
  exact passes

/-- R125: what the fault of a channel does to the board. -/
inductive Board.Faults (x : Board) (d : Nat) (condition : Bool) : Board → Prop
  | already (state : (x.channel d).state = .faulted) : Faults x d condition x
  | held (k) (state : (x.channel d).state = .held) (holder : (x.channel d).holder = some k) (more)
      (stops : (x.program k).state = .playing → condition = true → .stop d ∈ more) (y)
      (rest : (((x.setChannel d ((x.channel d).becomeFaulted condition)).command more).setProgram k
        (x.program k).faulted).Passes y) : Faults x d condition y
  | stopping (k) (state : (x.channel d).state = .stopping) (holder : (x.channel d).holder = some k) :
      Faults x d condition ((x.setChannel d ((x.channel d).becomeFaulted condition)).setProgram k (x.program k).stopEnded)
  | bare (state : (x.channel d).state ≠ .faulted)
      (unheld : (x.channel d).state = .free ∨ (x.channel d).holder = none) :
      Faults x d condition (x.setChannel d ((x.channel d).becomeFaulted condition))

theorem Work.board_reportChange (w : Work) (k : Kind) (n : Nat) (a b : Bool) : (w.reportChange k n a b).board = w.board :=
  Work.board_of_view (w.view_reportChange k n a b)

theorem Work.faults (w : Work) (d : Nat) (condition : Bool) : w.board.Faults d condition (w.faultChannel d condition).board := by
  unfold Work.faultChannel
  dsimp only
  by_cases already : (w.channel d).state = .faulted
  · rw [if_pos already]; exact .already already
  rw [if_neg already]
  obtain ⟨u, hu⟩ : ∃ u, u = (w.setChannel d ((w.channel d).becomeFaulted condition)).reportChange .channelFault d
      (w.channel d).faultCondition ((w.channel d).becomeFaulted condition).faultCondition := ⟨_, rfl⟩
  have board : u.board = w.board.setChannel d ((w.channel d).becomeFaulted condition) := by
    rw [hu]; exact Work.board_reportChange _ _ _ _ _
  have program (k : ProgramKind) : u.program k = w.program k := congrArg (fun x : Board => x.program k) board
  rw [← hu]
  cases state : (w.channel d).state with
  | faulted => exact absurd state already
  | free => dsimp only; rw [board]; exact .bare already (.inl state)
  | held =>
    cases holder : (w.channel d).holder with
    | none => dsimp only; rw [board]; exact .bare already (.inr holder)
    | some k =>
      dsimp only
      obtain ⟨z, hz⟩ : ∃ z, z = if decide ((u.program k).state = .playing) ∧ condition = true then u.issue (.stop d) else u :=
        ⟨_, rfl⟩
      obtain ⟨more, stops, issued⟩ : ∃ more : List PlayerCommand,
          ((w.program k).state = .playing → condition = true → .stop d ∈ more) ∧ z.board = u.board.command more := by
        rw [hz, program]
        split
        next => exact ⟨[.stop d], fun _ _ => List.mem_singleton.mpr rfl, rfl⟩
        next not =>
          refine ⟨[], fun playing set => absurd ⟨decide_eq_true playing, set⟩ not, ?_⟩
          exact congrArg (Board.mk _ _) (List.append_nil _).symm
      simp only [decide_eq_true_eq] at hz
      rw [← hz]
      obtain ⟨q, hq⟩ : ∃ q, q = (z.oweJoins (decide ((u.program k).state = .playing))).setProgram k
        ((z.oweJoins (decide ((u.program k).state = .playing))).program k).faulted := ⟨_, rfl⟩
      have lost : q.board = ((w.board.setChannel d ((w.channel d).becomeFaulted condition)).command more).setProgram k
          (w.program k).faulted := by
        have same : z.program k = w.program k := (congrArg (fun x : Board => x.program k) issued).trans (program k)
        rw [hq, Work.board_setProgram, show (z.oweJoins _).board = z.board from rfl,
          show (z.oweJoins _).program k = z.program k from rfl, issued, board, same]
      rw [← hq]
      have pass : Runs {} (q.dropClaim (.program k)) (q.returnClaim (.program k)) := (Runs.refl _).runDuePass
      have passes := pass.passes
      rw [Work.board_dropClaim, lost] at passes
      exact .held (x := w.board) k state holder more stops _ passes
  | stopping =>
    cases holder : (w.channel d).holder with
    | none => dsimp only; rw [board]; exact .bare already (.inr holder)
    | some k =>
      dsimp only
      have ended : (u.endStop k).board =
          (w.board.setChannel d ((w.channel d).becomeFaulted condition)).setProgram k (w.program k).stopEnded := by
        unfold Work.endStop
        rw [Work.board_setProgram, board, program]
      have final := Board.Faults.stopping (x := w.board) (condition := condition) k state holder
      rw [show w.board.program k = w.program k from rfl, show w.board.channel d = w.channel d from rfl, ← ended] at final
      split
      · exact final
      · exact final

end Sys2Proof.Machine
end

section
/-! PROOFS. Chapter 6: what the judgement of the other channels leaves of one channel (R124, R125). -/

namespace Sys2Proof.Machine

variable {a w v : Work} {d c : Nat}

/-! ## Steps of the judgement of a channel -/

/-- A step while channel `d` is judged. -/
inductive Board.Step (d : Nat) (x : Board) : Board → Prop
  | command (more) : Step d x (x.command more)
  | kept (i) (r : Channel) (state : r.state = (x.channel i).state) (holder : r.holder = (x.channel i).holder)
      (condition : r.faultCondition = (x.channel i).faultCondition) : Step d x (x.setChannel i r)
  | judged (r) : Step d x (x.setChannel d r)
  | moved (k) (q : Program) (own : q.channel = (x.program k).channel ∨ q.channel = none ∨ q.channel = some d) :
      Step d x (x.setProgram k q)
  | stopped (k) (i) (here : (x.program k).channel = some i) (r : Channel) (state : r.state = .stopping)
      (holder : r.holder = some k) (condition : r.faultCondition = (x.channel i).faultCondition) :
      Step d x (x.setChannel i r)

/-- The judgement of a channel, step by step. -/
def Board.Judges (d : Nat) : Board → Board → Prop := Relation.ReflTransGen (Board.Step d)

namespace Board.Judges

variable {x y z : Board}

theorem refl (x : Board) : Judges d x x := Relation.ReflTransGen.refl
theorem trans (h : Judges d x y) (k : Judges d y z) : Judges d x z := Relation.ReflTransGen.trans h k
theorem step (h : Judges d x y) (k : Step d y z) : Judges d x z := Relation.ReflTransGen.tail h k

theorem keeps {P : Board → Prop} (h : Judges d x y) (step : ∀ x y, Step d x y → P x → P y) (hx : P x) : P y := by
  induction h with
  | refl => exact hx
  | tail _ m ih => exact step _ _ m ih

theorem stops (h : Judges d x y) {k : ProgramKind} (now : Nat) : Judges d x (y.stopped k now) := by
  unfold Board.stopped
  split
  next c here => exact h.step (.stopped k c here _ rfl rfl rfl)
  next => exact h

theorem program_stopped (x : Board) (k : ProgramKind) (now : Nat) : (x.stopped k now).programs = x.programs := by
  unfold Board.stopped
  split <;> rfl

theorem pass (h : Judges d x y) (m : y.Pass z) : Judges d x z := by
  cases m with
  | command more => exact h.step (.command more)
  | unreserved i => exact h.step (.kept i _ rfl rfl rfl)
  | onward k _ q own => exact h.step (.moved k q (.inl own))
  | cued k _ q own _ c here r hr cmd =>
    exact ((h.step (.moved k q (.inl own))).step (.kept c r (congrArg Channel.state hr :) (congrArg Channel.holder hr :)
      (congrArg Channel.faultCondition hr :))).step (.command _)
  | completed k _ q own _ _ now =>
    have same : (y.stopped k now).program k = y.program k := by rw [Board.program, program_stopped]; rfl
    exact ((h.stops now).step (.moved k q (.inl (by rw [same]; exact own)))).step (.command _)

theorem passes (h : Judges d x y) (m : y.Passes z) : Judges d x z := m.keeps (fun _ _ m h => h.pass m) h

theorem played {k : ProgramKind} (h : Judges d x y) (m : y.Played k z) : Judges d x z := by
  cases m with
  | onward q hq => exact h.step (.moved k q (.inl (congrArg Program.channel hq :)))
  | cued q hq c here r hr cmd =>
    exact ((h.step (.moved k q (.inl (congrArg Program.channel hq :)))).step (.kept c r (congrArg Channel.state hr :)
      (congrArg Channel.holder hr :) (congrArg Channel.faultCondition hr :))).step (.command _)
  | completed q hq now =>
    have same : (y.stopped k now).program k = y.program k := by rw [Board.program, program_stopped]; rfl
    refine ((h.stops now).step (.moved k _ (.inl ?_))).step (.command _)
    rw [same, Program.completed_eq]
    exact (congrArg Program.channel hq :)

theorem stopEnded_channel (p : Program) : p.stopEnded.channel = none := by
  unfold Program.stopEnded
  split <;> rfl

theorem faults {condition : Bool} (h : Judges d x y) (m : y.Faults d condition z) : Judges d x z := by
  cases m with
  | already => exact h
  | held k _ _ more _ _ rest =>
    exact passes (((h.step (.judged _)).step (.command more)).step (.moved k _ (.inr (.inl rfl)))) rest
  | stopping k => exact (h.step (.judged _)).step (.moved k _ (.inr (.inl (stopEnded_channel _))))
  | bare => exact h.step (.judged _)

theorem takes {k : ProgramKind} {r : Channel} {q : Program} (h : Judges d x y) (own : q.channel = some d)
    (m : ((y.setChannel d r).setProgram k q).Passes z) : Judges d x z :=
  passes ((h.step (.judged r)).step (.moved k q (.inr (.inr own)))) m

end Board.Judges

theorem Work.judges_same {x : Board} (h : Board.Judges d x w.board) (e : v.board = w.board) : Board.Judges d x v.board := by
  rw [e]; exact h

/-- R119: the stop completion of a channel, on the board. -/
theorem Work.judges_stopCompletion (w : Work) (d : Nat) : Board.Judges d w.board (w.stopCompletion d).board := by
  unfold Work.stopCompletion
  dsimp only
  obtain ⟨u, hu⟩ : ∃ u, u = (w.endHolder (w.channel d).holder).setChannel d (w.channel d).freed := ⟨_, rfl⟩
  have freed : Board.Judges d w.board u.board := by
    rw [hu, Work.board_setChannel]
    refine Board.Judges.step ?_ (.judged _)
    unfold Work.endHolder
    split
    next h _ =>
      rw [Work.endStop, Work.board_setProgram]
      exact (Board.Judges.refl _).step (.moved h _ (.inr (.inl (Board.Judges.stopEnded_channel _))))
    next => exact .refl _
  rw [← hu]
  split
  next k _ => exact freed.takes rfl (u.passes_takeChannel k d)
  next => exact freed

theorem Work.judges_faultChannel (w : Work) (d : Nat) (condition : Bool) :
    Board.Judges d w.board (w.faultChannel d condition).board := (Board.Judges.refl _).faults (w.faults d condition)

theorem Work.judges_slotComplete (w : Work) (d : Nat) (k : ProgramKind) :
    Board.Judges d w.board (w.slotComplete k).runDuePass.board := by
  have moved : w.Played k (w.slotComplete k) := Work.MovedOn.beginSlot _ _ ((Work.MovedOn.refl w k).setProgram
    (r := { w.program k with phraseStarted := none, pauseUntil := none }) rfl)
  exact ((Board.Judges.refl _).played moved.board).passes (Runs.runDuePass (Runs.refl _)).passes

theorem Program.stopped_channel (p : Program) (k : ProgramKind) (why : StopReason) :
    (p.stopped k why).channel = p.channel := by
  unfold Program.stopped
  dsimp only
  split <;> rfl

theorem Program.displaced_channel (p : Program) (k : ProgramKind) : (p.displaced k).channel = none := by
  unfold Program.displaced Program.ended
  dsimp only
  split
  · rfl
  · rfl

theorem Work.judges_returnClaim {x : Board} (h : Board.Judges d x w.board) (who : Claimant) :
    Board.Judges d x (w.returnClaim who).board := by
  have pass : Runs {} (w.dropClaim who) (w.returnClaim who) := (Runs.refl _).runDuePass
  have passes := pass.passes
  rw [Work.board_dropClaim] at passes
  exact h.passes passes

theorem Work.judges_stopProgram (w : Work) (d : Nat) (k : ProgramKind) (why : StopReason) (for_ : Option ProgramKind) :
    Board.Judges d w.board (w.stopProgram k why for_).board := by
  rw [Work.board_of_view (w.view_stopProgram k why for_)]
  have moved (x : Board) (h : Board.Judges d w.board x) (same : x.program k = w.program k) :
      Board.Judges d w.board ((x.setProgram k ((w.program k).stopped k why)).command (w.program k).stops) :=
    (h.step (.moved k _ (.inl (by rw [same]; exact Program.stopped_channel _ _ _)))).step (.command _)
  unfold Work.channelsStopped
  split
  next c here => exact moved _ ((Board.Judges.refl _).step (.stopped (x := w.board) k c here
      ((w.channel c).stopped k for_ w.uptime) rfl rfl rfl)) rfl
  next => exact moved _ (.refl _) rfl

/-- R114: a preemption is a judgement of the channel it takes. -/
theorem Work.judges_preempt (w : Work) (k : ProgramKind) (d : Nat) (j : ProgramKind) :
    Board.Judges d w.board (w.preempt k d j).board := by
  unfold Work.preempt
  split
  · exact Work.judges_returnClaim (w := (w.stopProgram j .preempted (some k)).markProgram k)
      (w.judges_stopProgram d j .preempted (some k)) _
  · have displaced : Board.Judges d w.board (w.setProgram j ((w.program j).displaced j)).board := by
      rw [Work.board_setProgram]
      exact (Board.Judges.refl _).step (.moved j _ (.inr (.inl (Program.displaced_channel _ _))))
    exact (Work.judges_returnClaim displaced _).takes rfl (Work.passes_takeChannel _ k d)

/-- R113: a program's turn is a judgement of a channel that is not FAULTED, or nothing. -/
theorem Work.judges_arbiterTurn (w : Work) (k : ProgramKind) : (w.arbiterTurn k).board = w.board ∨
    ∃ d, (w.channel d).state ≠ .faulted ∧ Board.Judges d w.board (w.arbiterTurn k).board := by
  unfold Work.arbiterTurn
  split
  · split
    next d free =>
      have state : (w.channel d).state = .free := by simpa using List.find?_some free
      exact .inr ⟨d, by rw [state]; decide, (Board.Judges.refl _).takes rfl (w.passes_takeChannel k d)⟩
    next =>
      split
      next d j found =>
        obtain ⟨-, -, held, -⟩ := State.preemptible_holds found
        exact .inr ⟨d, by rw [held]; decide, w.judges_preempt k d j⟩
      next => exact .inl rfl
  · exact .inl rfl

/-- R124: the judgement of a channel in a good reply. -/
theorem Work.judges_judgeChannel (w : Work) (d : Nat) : Board.Judges d w.board (w.judgeChannel d).board := by
  have faults := w.judges_faultChannel d true
  have same : Board.Judges d w.board w.board := .refl _
  unfold Work.judgeChannel
  dsimp only
  split
  · unfold Work.updateFault
    dsimp only
    split
    · exact Work.judges_same (same.step (.judged _)) (Work.board_reportChange _ _ _ _ _)
    · exact same
  · split
    · exact faults
    · exact same
  · split
    · exact faults
    · split
      · split
        · split
          · exact faults
          · exact same
        · split
          · split
            · refine Board.Judges.trans ?_ (Work.judges_slotComplete _ d _)
              exact same.step (.judged _)
            · exact same.step (.judged _)
          · exact same
      · exact same
  · split
    · exact faults
    · split
      · split
        · exact faults
        · exact same
      · split
        · exact w.judges_stopCompletion d
        · exact same

/-! ## A channel that stands, and one that has fallen -/

/-- R109, R112: a channel not FAULTED that every program on it holds, HELD or STOPPING. -/
structure Board.Stands (c : Nat) (condition : Bool) (x : Board) : Prop where
  held : ∀ k, (x.program k).channel = some c → (x.channel c).holder = some k ∧ (x.channel c).state ∈ [.held, .stopping]
  sound : (x.channel c).state ≠ .faulted
  condition : (x.channel c).faultCondition = condition

/-- R125: a FAULTED channel that no program is on. -/
structure Board.Fell (c : Nat) (condition : Bool) (holder : Option ProgramKind) (x : Board) : Prop where
  alone : ∀ k, (x.program k).channel ≠ some c
  state : (x.channel c).state = .faulted
  condition : (x.channel c).faultCondition = condition
  holder : (x.channel c).holder = holder

section
variable {x y : Board} {condition : Bool}

theorem Board.Fell.step {holder : Option ProgramKind} (other : d ≠ c) (m : Board.Step d x y) (h : x.Fell c condition holder) :
    y.Fell c condition holder := by
  obtain ⟨alone, state, condition, holder⟩ := h
  cases m with
  | command more => exact ⟨alone, state, condition, holder⟩
  | kept i r st ho co =>
    obtain same | ⟨rfl, same⟩ := x.channel_setChannel c i r
    · exact ⟨alone, by rw [same]; exact state, by rw [same]; exact condition, by rw [same]; exact holder⟩
    · exact ⟨alone, by rw [same, st]; exact state, by rw [same, co]; exact condition, by rw [same, ho]; exact holder⟩
  | judged r =>
    have same := x.channel_setChannel_ne c d r other
    exact ⟨alone, by rw [same]; exact state, by rw [same]; exact condition, by rw [same]; exact holder⟩
  | moved k q own =>
    refine ⟨fun j => ?_, state, condition, holder⟩
    rw [Board.program_setProgram]
    split
    · obtain own | own | own := own
      · rw [own]; exact alone k
      · rw [own]; exact fun h => by cases h
      · rw [own]; exact fun h => other (Option.some.inj h)
    · exact alone j
  | stopped k i here r st ho co =>
    obtain same | ⟨rfl, same⟩ := x.channel_setChannel c i r
    · exact ⟨alone, by rw [same]; exact state, by rw [same]; exact condition, by rw [same]; exact holder⟩
    · exact absurd here (alone k)

theorem Board.Stands.step (other : d ≠ c) (m : Board.Step d x y) (h : x.Stands c condition) : y.Stands c condition := by
  obtain ⟨held, sound, condition⟩ := h
  cases m with
  | command more => exact ⟨held, sound, condition⟩
  | kept i r st ho co =>
    obtain same | ⟨rfl, same⟩ := x.channel_setChannel c i r
    · exact ⟨fun k hk => by rw [same]; exact held k hk, by rw [same]; exact sound, by rw [same]; exact condition⟩
    · exact ⟨fun k hk => by rw [same, ho, st]; exact held k hk, by rw [same, st]; exact sound,
        by rw [same, co]; exact condition⟩
  | judged r =>
    have same := x.channel_setChannel_ne c d r other
    exact ⟨fun k hk => by rw [same]; exact held k hk, by rw [same]; exact sound, by rw [same]; exact condition⟩
  | moved k q own =>
    refine ⟨fun j hj => ?_, sound, condition⟩
    rw [Board.program_setProgram] at hj
    split at hj
    next same =>
      subst same
      obtain own | own | own := own
      · exact held k (own.symm.trans hj)
      · rw [own] at hj; cases hj
      · rw [own] at hj; exact absurd (Option.some.inj hj) other
    next => exact held j hj
  | stopped k i here r st ho co =>
    obtain same | ⟨rfl, same⟩ := x.channel_setChannel c i r
    · exact ⟨fun k hk => by rw [same]; exact held k hk, by rw [same]; exact sound, by rw [same]; exact condition⟩
    · refine ⟨fun j hj => ⟨?_, by rw [same, st]; decide⟩, by rw [same, st]; decide, by rw [same, co]; exact condition⟩
      rw [same, ho, ← (held k here).1]
      exact (held j hj).1

/-- R125: a channel that stood, once it is FAULTED. -/
theorem Board.Stands.faults {set : Bool} (bound : c < 6) (h : x.Stands c condition) (m : x.Faults c set y) :
    y.Fell c (condition || set) none := by
  obtain ⟨held, sound, rfl⟩ := h
  have fell : (x.setChannel c ((x.channel c).becomeFaulted set)).channel c = (x.channel c).becomeFaulted set :=
    x.channel_setChannel_self c _ bound
  -- The program on the channel has left it, and no other stands on it.
  have left {k : ProgramKind} {q : Program} (gone : q.channel = none) (here : (x.channel c).holder = some k) (more) :
      (((x.setChannel c ((x.channel c).becomeFaulted set)).command more).setProgram k q).Fell c
        ((x.channel c).faultCondition || set) none := by
    refine ⟨fun j => ?_, (congrArg Channel.state fell :), (congrArg Channel.faultCondition fell :),
      (congrArg Channel.holder fell :)⟩
    rw [Board.program_setProgram]
    split
    · rw [gone]; exact fun h => by cases h
    next other => exact fun hj => other (Option.some.inj (here.symm.trans (held j hj).1))
  cases m with
  | already state => exact absurd state sound
  | held k state holder more stops y rest =>
    exact rest.keeps (fun _ _ m h => (((Board.Judges.refl (d := c + 1) _).pass m).keeps
      (fun _ _ m h => h.step (Nat.succ_ne_self c) m) h)) (left rfl holder more)
  | stopping k state holder =>
    obtain ⟨alone, state, condition, holder⟩ := left (q := (x.program k).stopEnded) (Board.Judges.stopEnded_channel _) holder []
    exact ⟨alone, state, condition, holder⟩
  | bare state unheld =>
    refine ⟨fun j hj => ?_, (congrArg Channel.state fell :), (congrArg Channel.faultCondition fell :),
      (congrArg Channel.holder fell :)⟩
    obtain ⟨holder, states⟩ := held j hj
    obtain free | none := unheld
    · rw [free] at states; exact absurd states (by decide)
    · rw [none] at holder; cases holder

end

/-- The channels judged before one, the channel itself, and those after it. -/
theorem channelIndices_around (bound : c < 6) : ∃ before after, channelIndices = before ++ c :: after ∧
    (∀ d ∈ before, d < 6 ∧ d ≠ c) ∧ ∀ d ∈ after, d < 6 ∧ d ≠ c := by
  refine ⟨List.range c, List.range' (c + 1) (5 - c), ?_, fun d hd => ?_, fun d hd => ?_⟩
  · interval_cases c <;> rfl
  · have := List.mem_range.mp hd; omega
  · have := List.mem_range'_1.mp hd; omega

/-- A command once issued stays in the list. -/
theorem Board.Step.commands {x y : Board} {cmd : PlayerCommand} (m : Board.Step d x y) (h : cmd ∈ x.commands) :
    cmd ∈ y.commands := by
  cases m with
  | command more => exact List.mem_append_left _ h
  | kept => exact h
  | judged => exact h
  | moved => exact h
  | stopped => exact h

theorem Board.Passes.commands {x y : Board} {cmd : PlayerCommand} (m : x.Passes y) (h : cmd ∈ x.commands) :
    cmd ∈ y.commands :=
  ((Board.Judges.refl (d := 0) x).passes m).keeps (fun _ _ m h => m.commands h) h

/-- R125: STOP is issued for a PLAYING program whose channel a reply faults. -/
theorem Board.Faults.stops {x y : Board} (m : x.Faults d true y) {k : ProgramKind} (held : (x.channel d).state = .held)
    (holder : (x.channel d).holder = some k) (playing : (x.program k).state = .playing) : .stop d ∈ y.commands := by
  cases m with
  | already state => rw [held] at state; cases state
  | held j _ here more stops y rest =>
    obtain rfl : j = k := Option.some.inj (here.symm.trans holder)
    exact rest.commands (List.mem_append_right _ (stops playing rfl))
  | stopping _ state => rw [held] at state; cases state
  | bare _ unheld =>
    obtain free | none := unheld
    · rw [held] at free; cases free
    · rw [none] at holder; cases holder

/-! ## The rest of an event, for a property that no judgement of another channel ends -/

section
variable {P : Board → Prop} (step : ∀ {d x y}, d ≠ c → Board.Step d x y → P x → P y)
include step

theorem Board.Judges.stays {x y : Board} (other : d ≠ c) (m : Board.Judges d x y) (h : P x) : P y :=
  m.keeps (fun _ _ => step other) h

theorem Work.foldl_stays {f : Work → Nat → Work} (judges : ∀ w d, Board.Judges d w.board (f w d).board) (l : List Nat)
    (others : ∀ d ∈ l, d ≠ c) (h : P w.board) : P (l.foldl f w).board :=
  List.foldlRecOn (motive := fun u : Work => P u.board) _ _ h fun u hu d hd =>
    Board.Judges.stays step (others d hd) (judges u d) hu

/-- The arbiter, and the end of the event, around a FAULTED channel. -/
theorem Work.arbiter_endEvent_stays (fallen : ∀ x : Board, P x → (x.channel c).state = .faulted) (h : P w.board) :
    P w.arbiter.endEvent.board := by
  have turns : P w.arbiter.board :=
    List.foldlRecOn (motive := fun u : Work => P u.board) _ _ h fun u hu k _ => by
      obtain same | ⟨d, sound, judges⟩ := u.judges_arbiterTurn k
      · rw [same]; exact hu
      · refine Board.Judges.stays step (fun same => sound ?_) judges hu
        rw [same]; exact fallen _ hu
  have ends : Runs {} w.arbiter w.arbiter.endEvent := Runs.endEvent (.refl _) trivial trivial
  exact Board.Judges.stays step (Nat.succ_ne_self c) ((Board.Judges.refl _).passes ends.passes) turns

end

/-! ## A reply that faults a channel (R125) -/

section
variable {f : Work → Nat → Work} (judges : ∀ w d, Board.Judges d w.board (f w d).board) {Q : Board → Prop}
  (step : ∀ {d x y}, d ≠ c → Board.Step d x y → Q x → Q y) (fallen : ∀ x : Board, Q x → (x.channel c).state = .faulted)
include judges step fallen

/-- R124, R125: what a judgement that faults a channel leaves of it stays to the end of the event. -/
theorem Work.faulted_stays {before after : List Nat} (around : channelIndices = before ++ c :: after)
    (others : ∀ d ∈ after, d < 6 ∧ d ≠ c) (h : Q (f (before.foldl f w) c).board) :
    Q (channelIndices.foldl f w).arbiter.endEvent.board := by
  rw [around, List.foldl_append, List.foldl_cons]
  exact Work.arbiter_endEvent_stays step fallen
    (Work.foldl_stays step judges after (fun d hd => (others d hd).2) h)

end

theorem Board.Fell.fallen {condition : Bool} {holder : Option ProgramKind} (x : Board) (h : x.Fell c condition holder) :
    (x.channel c).state = .faulted := h.state

/-- R124: a channel whose fault flag a reply shows is faulted in its turn. -/
theorem Work.judgeChannel_flag (w : Work) (c : Nat) (sound : (w.channel c).state ≠ .faulted)
    (flag : (w.channel c).fault = true) : w.judgeChannel c = w.faultChannel c true := by
  unfold Work.judgeChannel
  dsimp only
  cases state : (w.channel c).state with
  | faulted => exact absurd state sound
  | free => exact if_pos flag
  | held => exact if_pos flag
  | stopping => exact if_pos flag

/-- R124: a channel that times out is faulted in its turn. -/
theorem Work.judgeChannel_late (w : Work) (c : Nat) (held : (w.channel c).state = .held)
    (awaits : (w.channel c).awaiting = .phrase) (calm : (w.channel c).fault = false) (busy : (w.channel c).busy = true)
    (late : w.timedOut c = true) : w.judgeChannel c = w.faultChannel c true := by
  unfold Work.judgeChannel
  dsimp only
  simp only [held, calm, awaits, busy, late, Bool.false_eq_true, if_false, if_true]

/-- R124: a FREE channel without a fault flag is left as it is. -/
theorem Work.judgeChannel_free (w : Work) (c : Nat) (free : (w.channel c).state = .free)
    (calm : (w.channel c).fault = false) : w.judgeChannel c = w := by
  unfold Work.judgeChannel
  dsimp only
  simp only [free, calm, Bool.false_eq_true, if_false]

theorem foldl_fixed {α β : Type} {f : β → α → β} {l : List α} {b : β} (h : ∀ a ∈ l, f b a = b) : l.foldl f b = b := by
  induction l with
  | nil => rfl
  | cons a l ih =>
    rw [List.foldl_cons, h a List.mem_cons_self]
    exact ih fun x hx => h x (List.mem_cons_of_mem _ hx)

/-! ## The reply recorded -/

/-- R124: a good reply recorded, before the channels are judged. -/
def Work.recorded (w : Work) (r : StatusReply) : Work := (w.asked.setPlayerLost false).recordStatus r

theorem Work.recorded_rest (w : Work) (r : StatusReply) :
    { (w.recorded r).toState with ans := w.ans, plp := w.plp } = w.toState ∧ (w.recorded r).plp.commands = w.plp.commands ∧
      (w.recorded r).ans.programs = w.ans.programs := by
  have state := Work.reportChange_toState (w.asked.setAns { w.asked.ans with playerLost := false }) .playerLost 0
    w.asked.ans.playerLost false
  have kept : (w.asked.setPlayerLost false).toState = (w.asked.setAns { w.asked.ans with playerLost := false }).toState := state
  refine ⟨?_, (congrArg (fun s : State => s.plp.commands) kept :), (congrArg (fun s : State => s.ans.programs) kept :)⟩
  exact (congrArg (fun s : State => { s with ans := w.ans, plp := w.plp }) kept :)

theorem Work.recorded_program (w : Work) (r : StatusReply) (k : ProgramKind) : (w.recorded r).program k = w.program k :=
  congrArg (fun t => vget t k.priority Program.reset) (w.recorded_rest r).2.2

theorem Work.recorded_channel (w : Work) (r : StatusReply) {c : Nat} (bound : c < 6) :
    (w.recorded r).channel c = { w.channel c with busy := r.busy.getLsbD c, fault := r.fault.getLsbD c } := by
  have before := w.asked.setPlayerLost_ans false
  refine (vget_vmapIdx _ _ _ _ bound).trans ?_
  show recordFlags r c ((w.asked.setPlayerLost false).channel c) = _
  rw [State.channel, before]
  rfl

theorem Work.takeStatus_recorded (w : Work) {r : StatusReply} (good : badStatus r = false) :
    w.asked.takeStatus r = (channelIndices.foldl Work.judgeChannel (w.recorded r)).arbiter.endEvent := by
  unfold Work.takeStatus
  rw [if_neg (by simp [good])]
  rfl

end Sys2Proof.Machine

namespace Sys2Proof.Claims

open Sys2Proof Sys2Proof.Machine

/-- The board after a STATUS transaction. -/
theorem board_statusTransaction (s : State) (r : StatusReply) :
    let t := ((Work.begin s).statusTransaction r).finish
    let x := ((Work.begin s).asked.takeStatus r).board
    (∀ c, t.channel c = x.channel c) ∧ (∀ k, t.program k = x.program k) ∧ t.plp.commands = x.commands := by
  obtain ⟨-, -, plp, ans⟩ := finish_statusTransaction s r
  obtain ⟨t, ht⟩ : ∃ t, t = ((Work.begin s).statusTransaction r).finish := ⟨_, rfl⟩
  rw [← ht] at plp ans ⊢
  rw [Work.statusTransaction_eq] at plp ans
  generalize (Work.begin s).asked.takeStatus r = w at plp ans ⊢
  exact ⟨fun c => congrArg (fun a : Ans => vget a.channels c Channel.reset) ans,
    fun k => congrArg (fun a : Ans => vget a.programs k.priority Program.reset) ans, (congrArg Plp.commands plp :)⟩

section
variable {s : State} {r : StatusReply} {c : Nat}

/-- R124, R125: a channel that times out is faulted (the first part of O52). -/
theorem phraseTimeout_faults {e : Nat} {k : ProgramKind} (good : badStatus r = false) (bound : c < 6)
    (busy : r.busy.getLsbD c = true) (calm : ∀ d < 6, r.fault.getLsbD d = false)
    (free : ∀ d < 6, d ≠ c → (s.channel d).state = .free) (held : (s.channel c).state = .held)
    (holder : (s.channel c).holder = some k) (awaits : (s.channel c).awaiting = .phrase)
    (issued : (s.channel c).issuedAt = some e) (late : e + maxPhraseTime s.map ≤ s.uptime)
    (playing : (s.program k).state = .playing) (alone : ∀ j, j ≠ k → (s.program j).channel ≠ some c) :
    let t := ((Work.begin s).statusTransaction r).finish
    (t.channel c).state = .faulted ∧ (t.channel c).faultCondition = true ∧ (t.channel c).holder = none ∧
      .stop c ∈ t.plp.commands := by
  intro t
  obtain ⟨channel, -, commands⟩ := board_statusTransaction s r
  rw [Work.takeStatus_recorded _ good] at channel commands
  obtain ⟨w, hw⟩ : ∃ w, w = (Work.begin s).recorded r := ⟨_, rfl⟩
  rw [← hw] at channel commands
  have record (d : Nat) (hd : d < 6) : w.channel d = { s.channel d with busy := r.busy.getLsbD d, fault := r.fault.getLsbD d } := by
    rw [hw]; exact Work.recorded_channel _ _ hd
  have program (j : ProgramKind) : w.program j = s.program j := by rw [hw]; exact Work.recorded_program _ _ j
  have state := ((Work.begin s).recorded_rest r).1
  rw [← hw] at state
  obtain ⟨before, after, around, first, others⟩ := channelIndices_around bound
  have unjudged : before.foldl Work.judgeChannel w = w := foldl_fixed fun d hd => by
    obtain ⟨hd, other⟩ := first d hd
    exact w.judgeChannel_free d (by rw [record d hd]; exact free d hd other) (by rw [record d hd]; exact calm d hd)
  have due : w.timedOut c = true := by
    unfold State.timedOut
    rw [record c bound]
    dsimp only
    rw [issued]
    have map : w.map = s.map := (congrArg State.map state :)
    have uptime : w.uptime = s.uptime := (congrArg State.uptime state :)
    rw [map, uptime]
    exact decide_eq_true late
  have judged := w.judgeChannel_late c (by rw [record c bound]; exact held) (by rw [record c bound]; exact awaits)
    (by rw [record c bound]; exact calm c bound) (by rw [record c bound]; exact busy) due
  have stands : w.board.Stands c (s.channel c).faultCondition := by
    have here : w.board.channel c = _ := record c bound
    refine ⟨fun j hj => ?_, by rw [here]; dsimp only; rw [held]; decide, by rw [here]⟩
    rw [here]
    dsimp only
    rw [holder, held]
    have same : j = k := Classical.byContradiction fun other => alone j other ((congrArg Program.channel (program j)).symm.trans hj)
    exact ⟨by rw [same], by decide⟩
  have faults := w.faults c true
  have stops := faults.stops (by exact (congrArg Channel.state (record c bound)).trans held)
    (by exact (congrArg Channel.holder (record c bound)).trans holder) (by exact (congrArg Program.state (program k)).trans playing)
  have stays := Work.faulted_stays (w := w) (f := Work.judgeChannel) (c := c)
    (Q := fun x => x.Fell c ((s.channel c).faultCondition || true) none ∧ .stop c ∈ x.commands)
    Work.judges_judgeChannel (fun other m h => ⟨h.1.step other m, m.commands h.2⟩) (fun x h => h.1.state) around others
    (by rw [unjudged, judged]; exact ⟨stands.faults bound faults, stops⟩)
  obtain ⟨fell, stopped⟩ := stays
  refine ⟨(congrArg Channel.state (channel c)).trans fell.state, (congrArg Channel.faultCondition (channel c)).trans ?_,
    (congrArg Channel.holder (channel c)).trans fell.holder, by rw [commands]; exact stopped⟩
  rw [fell.condition, Bool.or_true]

end

end Sys2Proof.Claims
end

section
/-! PROOFS. Chapter 6: the channels that a STATUS reply faults, flag by flag or all together (R124, R125). -/

namespace Sys2Proof.Machine

variable {w : Work} {c d : Nat} {x y : Board}

/-! ## A bad reply: every channel is shut -/

/-- A channel that no arbiter gives away. -/
def Board.Shut (x : Board) (d : Nat) : Prop := (x.channel d).state ∈ [.faulted, .stopping]

theorem Board.stopped_channel (x : Board) (k : ProgramKind) (now d : Nat) :
    (x.stopped k now).channel d = x.channel d ∨
      ((x.program k).channel = some d ∧ (x.stopped k now).channel d = (x.channel d).stopped k none now) := by
  unfold Board.stopped
  split
  next i here =>
    obtain same | ⟨rfl, same⟩ := x.channel_setChannel d i ((x.channel i).stopped k none now)
    · exact .inl same
    · exact .inr ⟨here, same⟩
  next => exact .inl rfl

theorem Board.stopped_program (x : Board) (k : ProgramKind) (now : Nat) (j : ProgramKind) :
    (x.stopped k now).program j = x.program j := by
  rw [Board.program, Board.Judges.program_stopped]; rfl

theorem Board.Shut.pass (m : x.Pass y) (h : x.Shut d) : y.Shut d := by
  unfold Board.Shut at h ⊢
  cases m with
  | command => exact h
  | unreserved i =>
    obtain same | ⟨rfl, same⟩ := x.channel_setChannel d i { x.channel i with reservedFor := none }
    · rw [same]; exact h
    · rw [same]; exact h
  | onward => exact h
  | cued k _ q _ _ i _ r hr cmd =>
    obtain same | ⟨rfl, same⟩ := (x.setProgram k q).channel_setChannel d i r
    · exact same ▸ h
    · show (((x.setProgram k q).setChannel i r).channel i).state ∈ _
      rw [same, show r.state = _ from (congrArg Channel.state hr :)]
      exact h
  | completed k _ q _ _ _ now =>
    show ((x.stopped k now).channel d).state ∈ _
    obtain same | ⟨-, same⟩ := x.stopped_channel k now d
    · rw [same]; exact h
    · rw [same]; exact List.mem_cons_of_mem _ (List.mem_singleton.mpr rfl)

theorem Board.Shut.faults {set : Bool} {i : Nat} (m : x.Faults i set y) (h : x.Shut d) : y.Shut d := by
  have shut : (x.setChannel i ((x.channel i).becomeFaulted set)).Shut d := by
    unfold Board.Shut at h ⊢
    obtain same | ⟨-, same⟩ := x.channel_setChannel d i ((x.channel i).becomeFaulted set)
    · rw [same]; exact h
    · rw [same]; exact List.mem_cons_self
  cases m with
  | already => exact h
  | held k _ _ _ _ _ rest => exact rest.keeps (P := fun z => z.Shut d) (fun _ _ m h => h.pass m) shut
  | stopping => exact shut
  | bare => exact shut

theorem Board.Faults.shuts {set : Bool} (bound : d < 6) (m : x.Faults d set y) : y.Shut d := by
  have shut : (x.setChannel d ((x.channel d).becomeFaulted set)).Shut d := by
    unfold Board.Shut
    rw [x.channel_setChannel_self d _ bound]
    exact List.mem_cons_self
  cases m with
  | already state => unfold Board.Shut; rw [state]; exact List.mem_cons_self
  | held k _ _ _ _ _ rest => exact rest.keeps (P := fun z => z.Shut d) (fun _ _ m h => h.pass m) shut
  | stopping => exact shut
  | bare => exact shut

/-- R125: a bad reply shuts every channel. -/
theorem Work.shut_foldl (l : List Nat) (bound : ∀ d ∈ l, d < 6) (w : Work) :
    ∀ d ∈ l, (l.foldl (fun w c => w.faultChannel c false) w).board.Shut d := by
  induction l generalizing w with
  | nil => exact fun d h => by cases h
  | cons i l ih =>
    intro d hd
    rw [List.foldl_cons]
    obtain rfl | later := List.mem_cons.mp hd
    · exact List.foldlRecOn (motive := fun u : Work => u.board.Shut d) _ _ ((w.faults d false).shuts (bound d hd))
        fun u hu i _ => hu.faults (u.faults i false)
    · exact ih (fun d h => bound d (List.mem_cons_of_mem _ h)) _ d later

theorem Work.arbiter_shut (h : ∀ d < 6, w.board.Shut d) : w.arbiter = w := by
  have shut (d : Nat) (bound : d < 6) : (w.channel d).state ≠ .free ∧ (w.channel d).state ≠ .held := by
    have states : (w.channel d).state ∈ [.faulted, .stopping] := h d bound
    exact ⟨fun free => by rw [free] at states; exact absurd states (by decide),
      fun held => by rw [held] at states; exact absurd states (by decide)⟩
  refine foldl_fixed fun k _ => ?_
  have free : (channelIndices.find? fun c => (w.channel c).state = .free) = none := by
    rw [List.find?_eq_none]
    intro d hd
    simpa using (shut d (List.mem_range.mp hd)).1
  have held : w.preemptible k = none := by
    cases found : w.preemptible k with
    | none => rfl
    | some p =>
      obtain ⟨-, bound, held, -⟩ := State.preemptible_holds (c := p.1) (j := p.2) found
      exact absurd held (shut _ bound).2
  unfold Work.arbiterTurn
  rw [free]
  dsimp only
  rw [held]
  exact ite_self _

/-! ## A program whose channel a bad reply faults -/

/-- A program of a record, that holds no other channel. -/
structure Board.Apart (c : Nat) (k : ProgramKind) (p : Program) (x : Board) : Prop where
  record : x.program k = p
  elsewhere : ∀ d < 6, d ≠ c → (x.channel d).holder ≠ some k

/-- A program of a record that alone holds its channel, and no other. -/
structure Board.Grips (c : Nat) (k : ProgramKind) (p : Program) (x : Board) : Prop extends Board.Apart c k p x where
  alone : ∀ j, j ≠ k → (x.program j).channel ≠ some c
  held : (x.channel c).state = .held
  holder : (x.channel c).holder = some k

section
variable {k : ProgramKind} {p : Program}

theorem Board.Apart.setProgram {j : ProgramKind} (other : j ≠ k) (q : Program) (h : x.Apart c k p) :
    (x.setProgram j q).Apart c k p :=
  ⟨by rw [Board.program_setProgram, if_neg other]; exact h.record, h.elsewhere⟩

theorem Board.Apart.setChannel {i : Nat} {r : Channel} (holder : r.holder = (x.channel i).holder ∨ r.holder ≠ some k)
    (h : x.Apart c k p) : (x.setChannel i r).Apart c k p := by
  refine ⟨h.record, fun d bound other => ?_⟩
  obtain same | ⟨rfl, same⟩ := x.channel_setChannel d i r
  · rw [same]; exact h.elsewhere d bound other
  · rw [same]
    obtain kept | lost := holder
    · rw [kept]; exact h.elsewhere i bound other
    · exact lost

theorem Board.Apart.stopped {j : ProgramKind} (other : j ≠ k) (now : Nat) (h : x.Apart c k p) :
    (x.stopped j now).Apart c k p := by
  unfold Board.stopped
  split
  · exact h.setChannel (.inr fun same => other (Option.some.inj same))
  · exact h

theorem Board.Apart.pass (unclaimed : p.state ≠ .waitingBudget) (m : x.Pass y) (h : x.Apart c k p) : y.Apart c k p := by
  have different {j : ProgramKind} (waits : (x.program j).state = .waitingBudget) : j ≠ k := fun same => by
    subst same; rw [h.record] at waits; exact unclaimed waits
  cases m with
  | command => exact ⟨h.record, h.elsewhere⟩
  | unreserved i => exact h.setChannel (.inl rfl)
  | onward j waits => exact h.setProgram (different waits) _
  | cued j waits q _ _ i _ r hr =>
    obtain ⟨record, elsewhere⟩ := Board.Apart.setChannel (x := x.setProgram j q) (i := i) (r := r)
      (.inl (congrArg Channel.holder hr :)) (h.setProgram (different waits) q)
    exact ⟨record, elsewhere⟩
  | completed j waits q _ _ _ now =>
    obtain ⟨record, elsewhere⟩ := (h.stopped (different waits) now).setProgram (different waits) q
    exact ⟨record, elsewhere⟩

theorem Board.Apart.faults (unclaimed : p.state ≠ .waitingBudget) {set : Bool} (bound : d < 6) (other : d ≠ c)
    (m : x.Faults d set y) (h : x.Apart c k p) : y.Apart c k p := by
  have fell : (x.setChannel d ((x.channel d).becomeFaulted set)).Apart c k p := h.setChannel (.inr fun h => by cases h)
  have different {j : ProgramKind} (holder : (x.channel d).holder = some j) : j ≠ k := fun same => by
    subst same; exact h.elsewhere d bound other holder
  cases m with
  | already => exact h
  | held j _ holder more _ _ rest =>
    refine rest.keeps (P := fun z => z.Apart c k p) (fun _ _ m h => h.pass unclaimed m) ?_
    obtain ⟨record, elsewhere⟩ := fell.setProgram (different holder) (x.program j).faulted
    exact ⟨record, elsewhere⟩
  | stopping j _ holder => exact fell.setProgram (different holder) _
  | bare => exact fell

theorem Board.Grips.setProgram {j : ProgramKind} (other : j ≠ k) {q : Program}
    (own : q.channel = (x.program j).channel ∨ q.channel = none) (h : x.Grips c k p) : (x.setProgram j q).Grips c k p := by
  refine ⟨h.toApart.setProgram other q, fun i different => ?_, h.held, h.holder⟩
  rw [Board.program_setProgram]
  split
  · obtain own | own := own
    · rw [own]; exact h.alone j other
    · rw [own]; exact fun h => by cases h
  · exact h.alone i different

theorem Board.Grips.setChannel {i : Nat} {r : Channel} (holder : r.holder = (x.channel i).holder ∨ r.holder ≠ some k)
    (own : i = c → r.state = (x.channel c).state ∧ r.holder = (x.channel c).holder) (h : x.Grips c k p) :
    (x.setChannel i r).Grips c k p := by
  refine ⟨h.toApart.setChannel holder, h.alone, ?_, ?_⟩
  · obtain same | ⟨here, same⟩ := x.channel_setChannel c i r
    · rw [same]; exact h.held
    · rw [same, (own here).1]; exact h.held
  · obtain same | ⟨here, same⟩ := x.channel_setChannel c i r
    · rw [same]; exact h.holder
    · rw [same, (own here).2]; exact h.holder

theorem Board.Grips.pass (unclaimed : p.state ≠ .waitingBudget) (m : x.Pass y) (h : x.Grips c k p) : y.Grips c k p := by
  have different {j : ProgramKind} (waits : (x.program j).state = .waitingBudget) : j ≠ k := fun same => by
    subst same; rw [h.record] at waits; exact unclaimed waits
  cases m with
  | command => exact ⟨⟨h.record, h.elsewhere⟩, h.alone, h.held, h.holder⟩
  | unreserved i => exact h.setChannel (.inl rfl) fun here => by subst here; exact ⟨rfl, rfl⟩
  | onward j waits q own => exact h.setProgram (different waits) (.inl own)
  | cued j waits q own _ i here r hr =>
    obtain ⟨⟨record, elsewhere⟩, alone, held, holder⟩ := Board.Grips.setChannel (x := x.setProgram j q) (i := i) (r := r)
      (.inl (congrArg Channel.holder hr :)) (fun same => absurd here (by rw [same]; exact h.alone j (different waits)))
      (h.setProgram (different waits) (.inl own))
    exact ⟨⟨record, elsewhere⟩, alone, held, holder⟩
  | completed j waits q own _ _ now =>
    have stopped : (x.stopped j now).Grips c k p := by
      unfold Board.stopped
      split
      next i here =>
        exact h.setChannel (.inr fun same => different waits (Option.some.inj same))
          fun same => absurd here (by rw [same]; exact h.alone j (different waits))
      next => exact h
    obtain ⟨⟨record, elsewhere⟩, alone, held, holder⟩ := stopped.setProgram (q := q) (different waits)
      (.inl (by rw [Board.stopped_program]; exact own))
    exact ⟨⟨record, elsewhere⟩, alone, held, holder⟩

theorem Board.Grips.faults (unclaimed : p.state ≠ .waitingBudget) {set : Bool} (bound : d < 6) (other : d ≠ c)
    (m : x.Faults d set y) (h : x.Grips c k p) : y.Grips c k p := by
  have fell : (x.setChannel d ((x.channel d).becomeFaulted set)).Grips c k p :=
    h.setChannel (.inr fun h => by cases h) fun same => absurd same other
  have different {j : ProgramKind} (holder : (x.channel d).holder = some j) : j ≠ k := fun same => by
    subst same; exact h.elsewhere d bound other holder
  cases m with
  | already => exact h
  | held j _ holder more _ _ rest =>
    refine rest.keeps (P := fun z => z.Grips c k p) (fun _ _ m h => h.pass unclaimed m) ?_
    obtain ⟨⟨record, elsewhere⟩, alone, held, holder⟩ := fell.setProgram (q := (x.program j).faulted) (different holder)
      (.inr rfl)
    exact ⟨⟨record, elsewhere⟩, alone, held, holder⟩
  | stopping j _ holder => exact fell.setProgram (different holder) (.inr (Board.Judges.stopEnded_channel _))
  | bare => exact fell

/-- R125: the program waits for a channel again. -/
theorem Board.Grips.loses {set : Bool} (m : x.Faults c set y) (h : x.Grips c k p) : y.Apart c k p.faulted := by
  cases m with
  | already state => rw [h.held] at state; cases state
  | held j _ holder more _ _ rest =>
    obtain rfl : j = k := Option.some.inj (holder.symm.trans h.holder)
    refine rest.keeps (P := fun z => z.Apart c j p.faulted) (fun _ _ m h => h.pass (by simp [Program.faulted]) m) ⟨?_, fun d bound other => ?_⟩
    · rw [Board.program_setProgram, if_pos rfl, h.record]
    · show ((x.setChannel c ((x.channel c).becomeFaulted set)).channel d).holder ≠ some j
      rw [x.channel_setChannel_ne d c _ other.symm]
      exact h.elsewhere d bound other
  | stopping _ state => rw [h.held] at state; cases state
  | bare _ unheld =>
    obtain free | none := unheld
    · rw [h.held] at free; cases free
    · rw [h.holder] at none; cases none

end

/-- R124: a bad reply recorded, before the channels are faulted. -/
def Work.lost (w : Work) : Work := w.asked.setPlayerLost true

theorem Work.faultChannel_already (w : Work) (set : Bool) (state : (w.channel c).state = .faulted) :
    w.faultChannel c set = w := if_pos state

theorem Work.board_lost (w : Work) : w.lost.board = w.board := by
  have state := Work.reportChange_toState (w.asked.setAns { w.asked.ans with playerLost := true }) .playerLost 0
    w.asked.ans.playerLost true
  exact (congrArg (fun s : State => (⟨s.ans.programs, s.ans.channels, s.plp.commands⟩ : Board)) state :)

theorem Work.takeStatus_lost (w : Work) {r : StatusReply} (bad : badStatus r = true) :
    w.asked.takeStatus r =
      (channelIndices.foldl (fun w c => w.faultChannel c false) w.lost).arbiter.endEvent := by
  unfold Work.takeStatus
  rw [if_pos bad]
  rfl

end Sys2Proof.Machine

namespace Sys2Proof.Claims

open Sys2Proof Sys2Proof.Machine

section
variable {s : State} {r : StatusReply} {c : Nat} (bound : c < 6)
  (held : ∀ j, (s.program j).channel = some c → (s.channel c).holder = some j ∧ (s.channel c).state ∈ [.held, .stopping])
include bound held

/-- R125: a good reply that shows a channel's fault flag faults it (the second part of O52). -/
theorem status_faultsFlagged (good : badStatus r = false) (flag : r.fault.getLsbD c = true)
    (sound : (s.channel c).state ≠ .faulted) :
    let t := ((Work.begin s).statusTransaction r).finish
    (t.channel c).state = .faulted ∧ (t.channel c).faultCondition = true := by
  intro t
  obtain ⟨channel, -, -⟩ := board_statusTransaction s r
  rw [Work.takeStatus_recorded _ good] at channel
  obtain ⟨w, hw⟩ : ∃ w, w = (Work.begin s).recorded r := ⟨_, rfl⟩
  rw [← hw] at channel
  have record : w.channel c = { s.channel c with busy := r.busy.getLsbD c, fault := r.fault.getLsbD c } := by
    rw [hw]; exact Work.recorded_channel _ _ bound
  have program (j : ProgramKind) : w.program j = s.program j := by rw [hw]; exact Work.recorded_program _ _ j
  have stands : w.board.Stands c (s.channel c).faultCondition := by
    have here : w.board.channel c = _ := record
    refine ⟨fun j hj => ?_, by rw [here]; exact sound, by rw [here]⟩
    rw [here]
    exact held j ((congrArg Program.channel (program j)).symm.trans hj)
  obtain ⟨before, after, around, first, others⟩ := channelIndices_around bound
  have still := Work.foldl_stays (c := c) (P := fun x => x.Stands c (s.channel c).faultCondition)
    (fun other m h => h.step other m) Work.judges_judgeChannel before (fun d hd => (first d hd).2) stands
  have flags := (Work.SameFlags.refl w).foldl before fun u d h => h.judgeChannel d
  have shown : ((before.foldl Work.judgeChannel w).channel c).fault = true :=
    (flags.2 c).2.trans (by rw [record]; exact flag)
  have judged := Work.judgeChannel_flag _ c still.sound shown
  have fell := Work.faulted_stays (w := w) (f := Work.judgeChannel) (c := c)
    (Q := fun x => x.Fell c ((s.channel c).faultCondition || true) none)
    Work.judges_judgeChannel (fun other m h => h.step other m) (fun x h => h.state) around others
    (by rw [judged]; exact still.faults bound (Work.faults _ c true))
  refine ⟨(congrArg Channel.state (channel c)).trans fell.state, (congrArg Channel.faultCondition (channel c)).trans ?_⟩
  rw [fell.condition, Bool.or_true]

/-- R124, R125: a bad reply faults every channel and sets no fault condition (the second part of O52). -/
theorem status_faultsAll (bad : badStatus r = true) :
    let t := ((Work.begin s).statusTransaction r).finish
    (t.channel c).state = .faulted ∧ (t.channel c).faultCondition = (s.channel c).faultCondition := by
  intro t
  obtain ⟨channel, -, -⟩ := board_statusTransaction s r
  rw [Work.takeStatus_lost _ bad] at channel
  obtain ⟨w, hw⟩ : ∃ w, w = (Work.begin s).lost := ⟨_, rfl⟩
  rw [← hw] at channel
  have board : w.board = (Work.begin s).board := by rw [hw]; exact Work.board_lost _
  have judges (w : Work) (d : Nat) : Board.Judges d w.board (w.faultChannel d false).board := w.judges_faultChannel d false
  obtain ⟨before, after, around, first, others⟩ := channelIndices_around bound
  suffices fell : ∃ holder, ((channelIndices.foldl (fun w c => w.faultChannel c false) w).arbiter.endEvent).board.Fell c
      (s.channel c).faultCondition holder by
    obtain ⟨holder, fell⟩ := fell
    exact ⟨(congrArg Channel.state (channel c)).trans fell.state,
      (congrArg Channel.faultCondition (channel c)).trans fell.condition⟩
  by_cases already : (s.channel c).state = .faulted
  · have fell : w.board.Fell c (s.channel c).faultCondition (s.channel c).holder := by
      rw [board]
      refine ⟨fun j hj => ?_, already, rfl, rfl⟩
      have states := (held j hj).2
      rw [already] at states
      exact absurd states (by decide)
    have still := Work.foldl_stays (c := c) (P := fun x => x.Fell c (s.channel c).faultCondition (s.channel c).holder)
      (fun other m h => h.step other m) judges before (fun d hd => (first d hd).2) fell
    refine ⟨_, Work.faulted_stays (w := w) (c := c) (Q := fun x => x.Fell c (s.channel c).faultCondition (s.channel c).holder)
      judges (fun other m h => h.step other m) (fun x h => h.state) around others ?_⟩
    rw [Work.faultChannel_already _ false still.state]
    exact still
  · have stands : w.board.Stands c (s.channel c).faultCondition := by rw [board]; exact ⟨held, already, rfl⟩
    have still := Work.foldl_stays (c := c) (P := fun x => x.Stands c (s.channel c).faultCondition)
      (fun other m h => h.step other m) judges before (fun d hd => (first d hd).2) stands
    have fell := still.faults bound (Work.faults _ c false)
    rw [Bool.or_false] at fell
    exact ⟨none, Work.faulted_stays (w := w) (c := c) (Q := fun x => x.Fell c (s.channel c).faultCondition none)
      judges (fun other m h => h.step other m) (fun x h => h.state) around others fell⟩

/-- R125: a PLAYING program waits for a channel again after a bad reply (the second part of O52). -/
theorem status_waitsAgain (bad : badStatus r = true) {k : ProgramKind} (state : (s.channel c).state = .held)
    (holder : (s.channel c).holder = some k) (playing : (s.program k).state = .playing)
    (elsewhere : ∀ d < 6, d ≠ c → (s.channel d).holder ≠ some k) :
    (((Work.begin s).statusTransaction r).finish).program k = (s.program k).faulted := by
  obtain ⟨-, program, -⟩ := board_statusTransaction s r
  rw [Work.takeStatus_lost _ bad] at program
  obtain ⟨w, hw⟩ : ∃ w, w = (Work.begin s).lost := ⟨_, rfl⟩
  rw [← hw] at program
  have board : w.board = (Work.begin s).board := by rw [hw]; exact Work.board_lost _
  have unclaimed : (s.program k).state ≠ .waitingBudget := by rw [playing]; decide
  obtain ⟨before, after, around, first, others⟩ := channelIndices_around bound
  have grips : w.board.Grips c k (s.program k) := by
    rw [board]
    refine ⟨⟨rfl, elsewhere⟩, fun j other hj => other ?_, state, holder⟩
    exact (Option.some.inj (holder.symm.trans (held j hj).1)).symm
  have before_ : (before.foldl (fun w c => w.faultChannel c false) w).board.Grips c k (s.program k) :=
    List.foldlRecOn (motive := fun u : Work => u.board.Grips c k (s.program k)) _ _ grips fun u hu d hd =>
      hu.faults unclaimed (first d hd).1 (first d hd).2 (u.faults d false)
  have lost := before_.loses (Work.faults _ c false)
  have waits : (s.program k).faulted.state ≠ .waitingBudget := by simp [Program.faulted]
  have after_ : (channelIndices.foldl (fun w c => w.faultChannel c false) w).board.Apart c k (s.program k).faulted := by
    rw [around, List.foldl_append, List.foldl_cons]
    exact List.foldlRecOn (motive := fun u : Work => u.board.Apart c k (s.program k).faulted) _ _ lost fun u hu d hd =>
      hu.faults waits (others d hd).1 (others d hd).2 (u.faults d false)
  have shut := Work.shut_foldl channelIndices (fun d hd => List.mem_range.mp hd) w
  rw [Work.arbiter_shut fun d hd => shut d (List.mem_range.mpr hd)] at program
  have ends : Runs {} (channelIndices.foldl (fun w c => w.faultChannel c false) w)
      (channelIndices.foldl (fun w c => w.faultChannel c false) w).endEvent := Runs.endEvent (.refl _) trivial trivial
  exact (program k).trans (ends.passes.keeps (P := fun z => z.Apart c k (s.program k).faulted)
    (fun _ _ m h => h.pass waits m) after_).record

end

end Sys2Proof.Claims
end

section
/-! PROOFS. Chapter 6: an arbiter that finds a FREE channel for every program that waits for one, and preempts nobody
(R113, R119, R124). -/

namespace Sys2Proof.Machine

variable {w : Work} {c d : Nat} {x y : Board} {k : ProgramKind}

/-! ## Room for every waiting program -/

/-- A program that accounts for a channel: it waits for none, and one that it has taken is this one. -/
def Board.Accounts (x : Board) (j : ProgramKind) (d : Nat) : Prop :=
  (x.program j).state ≠ .waitingChannel ∧ ((x.program j).state = .waitingBudget → (x.program j).channel = some d)

/-- Every channel that is not FREE is accounted for by a program of its own. -/
def Board.Roomy (x : Board) : Prop :=
  ∃ p : Nat → ProgramKind, (∀ d < 6, (x.channel d).state ≠ .free → x.Accounts (p d) d) ∧
    ∀ d < 6, ∀ e < 6, (x.channel d).state ≠ .free → (x.channel e).state ≠ .free → p d = p e → d = e

/-- Six channels for six programs: a program that waits finds one FREE. -/
theorem Board.Roomy.free (h : x.Roomy) (waits : (x.program k).state = .waitingChannel) :
    ∃ d < 6, (x.channel d).state = .free := by
  obtain ⟨p, accounts, distinct⟩ := h
  refine Classical.byContradiction fun none => ?_
  have full (d : Fin 6) : (x.channel d).state ≠ .free := fun free => none ⟨d, d.isLt, free⟩
  let f : Fin 6 → Fin 6 := fun d => ⟨(p d).priority, ProgramKind.priority_lt _⟩
  have injective : Function.Injective f := fun d e same =>
    Fin.ext (distinct d d.isLt e e.isLt (full d) (full e) (ProgramKind.priority_injective (congrArg Fin.val same)))
  obtain ⟨d, hd⟩ := Finite.injective_iff_surjective.mp injective ⟨k.priority, ProgramKind.priority_lt k⟩
  have here : p d = k := ProgramKind.priority_injective (congrArg Fin.val hd)
  exact (accounts d d.isLt (full d)).1 (by rw [here]; exact waits)

theorem Board.Roomy.mono (h : x.Roomy) (channels : ∀ d < 6, (y.channel d).state ≠ .free → (x.channel d).state ≠ .free)
    (programs : ∀ j d, x.Accounts j d → y.Accounts j d) : y.Roomy := by
  obtain ⟨p, accounts, distinct⟩ := h
  exact ⟨p, fun d bound taken => programs _ _ (accounts d bound (channels d bound taken)),
    fun d hd e he td te => distinct d hd e he (channels d hd td) (channels e he te)⟩

/-- A channel that was FREE is taken by a program that accounted for none. -/
theorem Board.Roomy.add (h : x.Roomy) (channels : ∀ d < 6, d ≠ c → (y.channel d).state ≠ .free → (x.channel d).state ≠ .free)
    (programs : ∀ j d, x.Accounts j d → y.Accounts j d)
    (fresh : ∀ d, d ≠ c → ¬ x.Accounts k d) (own : y.Accounts k c) : y.Roomy := by
  obtain ⟨p, accounts, distinct⟩ := h
  have apart (d : Nat) (hd : d < 6) (other : d ≠ c) (taken : (y.channel d).state ≠ .free) : p d ≠ k := fun same =>
    fresh d other (same ▸ accounts d hd (channels d hd other taken))
  refine ⟨fun d => if d = c then k else p d, fun d hd taken => ?_, fun d hd e he td te same => ?_⟩
  · dsimp only
    split
    next here => rw [here]; exact own
    next other => exact programs _ _ (accounts d hd (channels d hd other taken))
  · dsimp only at same
    split at same
    next here =>
      split at same
      next there => rw [here, there]
      next other => exact absurd same.symm (apart e he other te)
    next other =>
      split at same
      next => exact absurd same (apart d hd other td)
      next other' => exact distinct d hd e he (channels d hd other td) (channels e he other' te) same

theorem Board.roomy_one (free : ∀ d < 6, d ≠ c → (x.channel d).state = .free)
    (own : (x.channel c).state ≠ .free → x.Accounts k c) : x.Roomy := by
  refine ⟨fun _ => k, fun d hd taken => ?_, fun d hd e he td te _ => ?_⟩
  · obtain rfl : d = c := Classical.byContradiction fun other => taken (free d hd other)
    exact own taken
  · obtain rfl : d = c := Classical.byContradiction fun other => td (free d hd other)
    exact Classical.byContradiction fun other => te (free e he fun same => other same.symm)

theorem Board.accounts_of_state {p : ProgramState} (state : (y.program k).state = p) (h : p ≠ .waitingChannel)
    (h' : p ≠ .waitingBudget) : y.Accounts k d :=
  ⟨by rw [state]; exact h, fun waits => absurd (state.symm.trans waits) h'⟩

theorem Board.accounts_setProgram {q : Program} (own : (x.setProgram k q).Accounts k d ∨ ¬ x.Accounts k d)
    {j : ProgramKind} (h : x.Accounts j d) : (x.setProgram k q).Accounts j d := by
  by_cases same : k = j
  · subst same; exact own.resolve_right fun no => no h
  · unfold Board.Accounts
    rw [Board.program_setProgram, if_neg same]
    exact h

theorem Board.Roomy.setChannel {r : Channel} (h : x.Roomy) (kept : r.state = (x.channel c).state ∨ (x.channel c).state ≠ .free) :
    (x.setChannel c r).Roomy := by
  refine h.mono (fun d _ taken => ?_) fun _ _ h => h
  obtain same | ⟨rfl, same⟩ := x.channel_setChannel d c r
  · rwa [same] at taken
  · rw [same] at taken
    exact kept.elim (fun kept => kept ▸ taken) id

theorem Board.Roomy.setProgram {q : Program} {p : ProgramState} (h : x.Roomy) (state : q.state = p)
    (settled : p ≠ .waitingChannel ∧ p ≠ .waitingBudget) : (x.setProgram k q).Roomy :=
  h.mono (fun _ _ => id) fun _ _ => Board.accounts_setProgram (.inl (Board.accounts_of_state
    (p := p) (by rw [Board.program_setProgram, if_pos rfl]; exact state) settled.1 settled.2))

theorem Board.Roomy.pass (m : x.Pass y) (h : x.Roomy) : y.Roomy := by
  cases m with
  | command => exact h
  | unreserved => exact h.setChannel (.inl rfl)
  | onward k _ q _ state => exact h.setProgram state (by decide)
  | cued k _ q _ state c _ r hr => exact (h.setProgram state (by decide)).setChannel (.inl (congrArg Channel.state hr :))
  | completed k waits q own state floors now =>
    show ((x.stopped k now).setProgram k q).Roomy
    have settled (d : Nat) : ((x.stopped k now).setProgram k q).Accounts k d := Board.accounts_of_state (p := .stopping)
      (by rw [Board.program_setProgram, if_pos rfl]; exact state) (by decide) (by decide)
    have others (j : ProgramKind) (d : Nat) (h : x.Accounts j d) : ((x.stopped k now).setProgram k q).Accounts j d :=
      Board.accounts_setProgram (.inl (settled d)) (by
        unfold Board.Accounts
        rw [Board.stopped_program]
        exact h)
    cases here : (x.program k).channel with
    | none =>
      refine h.mono (fun d _ taken => ?_) others
      rw [Board.stopped, here] at taken
      exact taken
    | some c =>
      refine h.add (c := c) (k := k) (fun d _ other taken => ?_) others (fun d other accounts => ?_) (settled c)
      · rw [Board.stopped, here] at taken
        rwa [show ((Board.setChannel x c _).setProgram k q).channel d = x.channel d from
          x.channel_setChannel_ne d c _ other.symm] at taken
      · exact other (Option.some.inj ((accounts.2 waits).symm.trans here))

/-- R113: a program takes a channel. -/
def Board.taken (x : Board) (k : ProgramKind) (d : Nat) : Board :=
  (x.setChannel d { (x.channel d).freed with state := .held, holder := some k }).setProgram k
    { x.program k with state := .waitingBudget, channel := some d }

theorem Board.program_taken (x : Board) (k : ProgramKind) (d : Nat) (j : ProgramKind) : (x.taken k d).program j =
    if k = j then { x.program k with state := .waitingBudget, channel := some d } else x.program j :=
  Board.program_setProgram _ _ _ _

theorem Board.channel_taken_ne (x : Board) (k : ProgramKind) (other : d ≠ c) : (x.taken k d).channel c = x.channel c :=
  x.channel_setChannel_ne c d _ other

theorem Board.channel_taken_self (x : Board) (k : ProgramKind) (bound : d < 6) :
    (x.taken k d).channel d = { (x.channel d).freed with state := .held, holder := some k } :=
  x.channel_setChannel_self d _ bound

theorem Board.Roomy.taken (waits : (x.program k).state = .waitingChannel) (d : Nat) (h : x.Roomy) : (x.taken k d).Roomy := by
  have record : (x.taken k d).program k = { x.program k with state := .waitingBudget, channel := some d } := by
    rw [Board.program_taken, if_pos rfl]
  have unaccounted (d : Nat) : ¬ x.Accounts k d := fun accounts => accounts.1 waits
  refine h.add (c := d) (k := k) (fun e _ other taken => ?_)
    (fun j e accounts => Board.accounts_setProgram (.inr fun h => unaccounted e h) accounts) (fun e _ => unaccounted e) ?_
  · rwa [x.channel_taken_ne k (Ne.symm other)] at taken
  · exact ⟨by rw [record]; simp, by rw [record]; exact fun _ => rfl⟩

/-! ## The arbiter without a preemption -/

/-- R113: with room for every waiting program, a turn is nothing, or takes a FREE channel. -/
theorem Work.arbiterTurn_takes (w : Work) (k : ProgramKind) (h : w.board.Roomy) :
    (w.arbiterTurn k = w ∧ ((w.program k).state ≠ .waitingChannel ∨ w.reservedChannel k ≠ none)) ∨
    ((w.program k).state = .waitingChannel ∧ ∃ d < 6, (w.channel d).state = .free ∧
      (w.board.taken k d).Passes (w.arbiterTurn k).board) := by
  unfold Work.arbiterTurn
  by_cases turn : (w.program k).state = .waitingChannel ∧ w.reservedChannel k = none
  · obtain ⟨waits, unreserved⟩ := turn
    rw [if_pos (by simp [waits, unreserved])]
    cases free : channelIndices.find? fun c => (w.channel c).state = .free with
    | none =>
      obtain ⟨d, bound, state⟩ := h.free (k := k) waits
      have taken : ¬ (w.channel d).state = .free := by simpa using List.find?_eq_none.mp free d (List.mem_range.mpr bound)
      exact absurd state taken
    | some d =>
      have state : (w.channel d).state = .free := by simpa using List.find?_some free
      exact .inr ⟨waits, d, List.mem_range.mp (List.mem_of_find?_eq_some free), state, w.passes_takeChannel k d⟩
  · rw [if_neg (by simpa using turn)]
    exact .inl ⟨rfl, by by_cases waits : (w.program k).state = .waitingChannel
                        · exact .inr fun none => turn ⟨waits, none⟩
                        · exact .inl waits⟩

/-- A property of the board that a grant pass and the taking of a FREE channel keep. -/
structure Board.Lasts (P : Board → Prop) : Prop where
  pass : ∀ {x y}, x.Pass y → P x → P y
  taken : ∀ {x k d}, d < 6 → (x.program k).state = .waitingChannel → (x.channel d).state = .free → P x → P (x.taken k d)

theorem Board.Lasts.passes {P : Board → Prop} (h : Board.Lasts P) (m : x.Passes y) (hx : P x) : P y :=
  m.keeps (fun _ _ => h.pass) hx

theorem Work.arbiterTurn_lasts {P : Board → Prop} (h : Board.Lasts P) (w : Work) (k : ProgramKind)
    (hw : P w.board ∧ w.board.Roomy) : P (w.arbiterTurn k).board ∧ (w.arbiterTurn k).board.Roomy := by
  obtain ⟨same, -⟩ | ⟨waits, d, bound, free, passes⟩ := w.arbiterTurn_takes k hw.2
  · rw [same]; exact hw
  · exact ⟨h.passes passes (h.taken bound waits free hw.1),
      passes.keeps (fun _ _ m h => h.pass m) (Board.Roomy.taken (x := w.board) waits d hw.2)⟩

theorem Work.arbiterTurns_last {P : Board → Prop} (h : Board.Lasts P) (l : List ProgramKind) (w : Work)
    (hw : P w.board ∧ w.board.Roomy) : P (l.foldl Work.arbiterTurn w).board ∧ (l.foldl Work.arbiterTurn w).board.Roomy :=
  List.foldlRecOn (motive := fun u : Work => P u.board ∧ u.board.Roomy) _ _ hw fun u hu k _ => u.arbiterTurn_lasts h k hu

/-- R113: the arbiter and the end of the event keep such a property, with room for every waiting program. -/
theorem Work.arbiter_endEvent_lasts {P : Board → Prop} (h : Board.Lasts P) (hw : P w.board) (room : w.board.Roomy) :
    P w.arbiter.endEvent.board := by
  have ends : Runs {} w.arbiter w.arbiter.endEvent := Runs.endEvent (.refl _) trivial trivial
  exact h.passes ends.passes (Work.arbiterTurns_last h ProgramKind.all w ⟨hw, room⟩).1

end Sys2Proof.Machine
end

section
/-! PROOFS. Chapter 6: the channels that a good reply finds at ease, and what their judgement leaves of a channel and its
program (R119, R124). -/

namespace Sys2Proof.Machine

variable {w v : Work} {c d : Nat} {x y : Board} {k j : ProgramKind}

/-! ## What a grant pass reaches -/

/-- A program after a step of a pass: as it was, or begun by its grant. -/
inductive Board.Moved (x y : Board) (k : ProgramKind) : Prop
  | same (record : y.program k = x.program k)
  | begun (waits : (x.program k).state = .waitingBudget) (own : (y.program k).channel = (x.program k).channel)
      (state : (y.program k).state ∈ [.playing, .stopping])

/-- A channel after a step of a pass: as it was but for a reservation given up, or the one of a program begun. -/
inductive Board.Touched (x y : Board) (d : Nat) : Prop
  | same (record : y.channel d = x.channel d)
  | unreserved (record : y.channel d = { x.channel d with reservedFor := none })
  | cued (k : ProgramKind) (waits : (x.program k).state = .waitingBudget) (here : (x.program k).channel = some d)
      (record : (x.channel d).Cued (y.channel d))
  | stopped (k : ProgramKind) (waits : (x.program k).state = .waitingBudget) (here : (x.program k).channel = some d) (now : Nat)
      (record : y.channel d = (x.channel d).stopped k none now) (ended : (y.program k).state = .stopping)
      (floors : (y.program k).floorSet = 0) (own : (y.program k).channel = some d) (cmd : .stop d ∈ y.commands)

theorem Board.Pass.program (m : x.Pass y) (k : ProgramKind) : x.Moved y k := by
  have moved {z : Board} {j : ProgramKind} {q : Program} (base : z.program k = x.program k)
      (waits : (x.program j).state = .waitingBudget) (own : q.channel = (x.program j).channel)
      (state : q.state ∈ [.playing, .stopping]) : x.Moved (z.setProgram j q) k := by
    by_cases same : j = k
    · subst same
      have record : (z.setProgram j q).program j = q := by rw [Board.program_setProgram, if_pos rfl]
      exact .begun waits (by rw [record]; exact own) (by rw [record]; exact state)
    · exact .same (by rw [Board.program_setProgram, if_neg same]; exact base)
  cases m with
  | command => exact .same rfl
  | unreserved => exact .same rfl
  | onward j waits q own state => exact moved rfl waits own (by rw [state]; decide)
  | cued j waits q own state c _ r _ cmd =>
    cases moved (z := x) rfl waits own (by rw [state]; decide) with
    | same record => exact .same record
    | begun waits own state => exact .begun waits own state
  | completed j waits q own state _ now =>
    cases moved (z := x.stopped j now) (Board.stopped_program x j now k) waits own (by rw [state]; decide) with
    | same record => exact .same record
    | begun waits own state => exact .begun waits own state

theorem Board.Pass.channel (m : x.Pass y) (d : Nat) : x.Touched y d := by
  cases m with
  | command => exact .same rfl
  | onward => exact .same rfl
  | unreserved i =>
    obtain same | ⟨rfl, same⟩ := x.channel_setChannel d i { x.channel i with reservedFor := none }
    · exact .same same
    · exact .unreserved same
  | cued j waits q _ _ i here r hr cmd =>
    obtain same | ⟨rfl, same⟩ := (x.setProgram j q).channel_setChannel d i r
    · exact .same same
    · refine .cued j waits here ?_
      rw [show (((x.setProgram j q).setChannel i r).command [cmd]).channel i = r from same]
      exact hr
  | completed j waits q own state floors now =>
    obtain same | ⟨here, same⟩ := x.stopped_channel j now d
    · exact .same same
    · have record : ((x.stopped j now).setProgram j q).program j = q := by rw [Board.program_setProgram, if_pos rfl]
      refine .stopped j waits here now same ((congrArg Program.state record).trans state)
        ((congrArg Program.floorSet record).trans floors) ((congrArg Program.channel record).trans (own.trans here))
        (List.mem_append_right _ ?_)
      rw [Program.stops, here]
      exact List.mem_singleton.mpr rfl

theorem Board.Pass.commands {cmd : PlayerCommand} (m : x.Pass y) (h : cmd ∈ x.commands) : cmd ∈ y.commands :=
  Board.Passes.commands (Relation.ReflTransGen.single m) h

/-! ## Channels at ease -/

/-- A channel that this reply gives to nobody: FREE, FAULTED, or STOPPING behind its STOP. -/
inductive Board.AtEase (x : Board) (d : Nat) : Prop
  | free (state : (x.channel d).state = .free)
  | faulted (state : (x.channel d).state = .faulted)
  | stopping (j : ProgramKind) (state : (x.channel d).state = .stopping) (holder : (x.channel d).holder = some j)
      (ends : (x.program j).state = .stopping) (floors : (x.program j).floorSet = 0)
      (own : (x.program j).channel = some d) (cmd : .stop d ∈ x.commands)

/-- A channel at ease stays so while it keeps its state and holder, the program on it its record, and the list its STOP. -/
theorem Board.AtEase.mono (h : x.AtEase d) (state : (y.channel d).state = (x.channel d).state)
    (holder : (y.channel d).holder = (x.channel d).holder)
    (programs : ∀ j, (x.program j).state = .stopping → (x.program j).channel = some d → y.program j = x.program j)
    (commands : ∀ cmd ∈ x.commands, cmd ∈ y.commands) : y.AtEase d := by
  cases h with
  | free free => exact .free (state.trans free)
  | faulted faulted => exact .faulted (state.trans faulted)
  | stopping j stopping held ends floors own cmd =>
    have same := programs j ends own
    exact .stopping j (state.trans stopping) (holder.trans held) (by rw [same]; exact ends) (by rw [same]; exact floors)
      (by rw [same]; exact own) (commands _ cmd)

theorem Board.AtEase.pass (m : x.Pass y) (h : x.AtEase d) : y.AtEase d := by
  have programs (j : ProgramKind) (ends : (x.program j).state = .stopping) : y.program j = x.program j := by
    cases m.program j with
    | same record => exact record
    | begun waits => rw [ends] at waits; cases waits
  have commands (cmd : PlayerCommand) (h : cmd ∈ x.commands) := m.commands h
  cases m.channel d with
  | same record => exact h.mono (by rw [record]) (by rw [record]) (fun j ends _ => programs j ends) commands
  | unreserved record => exact h.mono (by rw [record]) (by rw [record]) (fun j ends _ => programs j ends) commands
  | cued j _ _ record =>
    exact h.mono (congrArg Channel.state record :) (congrArg Channel.holder record :) (fun j ends _ => programs j ends) commands
  | stopped j _ _ now record ended floors own cmd =>
    exact .stopping j (congrArg Channel.state record :) (congrArg Channel.holder record :) ended floors own cmd

/-- R124: what the judgement of a channel at ease can do, in a reply without a fault flag. -/
inductive Board.Eased (x : Board) (d : Nat) : Board → Prop
  | same : Eased x d x
  | cleared (state : (x.channel d).state = .faulted) :
      Eased x d (x.setChannel d { x.channel d with faultCondition := false })
  | ended (j : ProgramKind) (state : (x.channel d).state = .stopping) (ends : (x.program j).state = .stopping)
      (floors : (x.program j).floorSet = 0) (own : (x.program j).channel = some d) :
      Eased x d ((x.setChannel d ((x.channel d).becomeFaulted true)).setProgram j
        { x.program j with state := .idle, channel := none })

theorem Work.eased_faultChannel {j : ProgramKind} (state : (w.channel d).state = .stopping)
    (holder : (w.channel d).holder = some j) (ends : (w.program j).state = .stopping)
    (floors : (w.program j).floorSet = 0) (own : (w.program j).channel = some d) :
    w.board.Eased d (w.faultChannel d true).board := by
  have faults := w.faults d true
  generalize (w.faultChannel d true).board = z at faults ⊢
  have state' : (w.board.channel d).state = .stopping := state
  have holder' : (w.board.channel d).holder = some j := holder
  cases faults with
  | already s => rw [state'] at s; cases s
  | held _ s => rw [state'] at s; cases s
  | stopping i _ here =>
    obtain rfl : i = j := Option.some.inj (here.symm.trans holder')
    have ended : (w.board.program i).stopEnded = { w.board.program i with state := .idle, channel := none } := if_pos floors
    rw [ended]
    exact .ended i state' ends floors own
  | bare _ unheld =>
    obtain free | none := unheld
    · rw [state'] at free; cases free
    · rw [holder'] at none; cases none

theorem Work.judgeChannel_eased (h : w.board.AtEase d) (calm : (w.channel d).fault = false) :
    w.board.Eased d (w.judgeChannel d).board := by
  cases h with
  | free free => rw [w.judgeChannel_free d free calm]; exact .same
  | faulted faulted =>
    have state : (w.channel d).state = .faulted := faulted
    unfold Work.judgeChannel
    simp only [state]
    unfold Work.updateFault
    dsimp only
    split
    · rw [Work.board_reportChange]
      exact .cleared (x := w.board) faulted
    · exact .same
  | stopping j stopping holder ends floors own cmd =>
    have state : (w.channel d).state = .stopping := stopping
    have pending : w.replyAfter d = false := by
      unfold State.replyAfter
      rw [Bool.not_eq_false']
      exact List.any_eq_true.mpr ⟨_, cmd, decide_eq_true rfl⟩
    unfold Work.judgeChannel
    simp only [state, calm, pending, Bool.false_eq_true, if_false]
    split
    · split
      · exact Work.eased_faultChannel state holder ends floors own
      · exact .same
    · exact .same

theorem Board.Eased.atEase {e : Nat} (bound : d < 6) (m : x.Eased d y) (h : x.AtEase e) : y.AtEase e := by
  cases m with
  | same => exact h
  | cleared state =>
    obtain same | ⟨rfl, same⟩ := x.channel_setChannel e d { x.channel d with faultCondition := false }
    · exact h.mono (by rw [same]) (by rw [same]) (fun _ _ _ => rfl) fun _ h => h
    · exact .faulted (by rw [same]; exact state)
  | ended j state ends floors own =>
    by_cases here : d = e
    · subst here
      exact .faulted (congrArg Channel.state (x.channel_setChannel_self d _ bound) :)
    · have same : ((x.setChannel d ((x.channel d).becomeFaulted true)).setProgram j
          { x.program j with state := .idle, channel := none }).channel e = x.channel e :=
        x.channel_setChannel_ne e d _ here
      refine h.mono (congrArg Channel.state same) (congrArg Channel.holder same) (fun i _ there => ?_) fun _ h => h
      rw [Board.program_setProgram, if_neg fun same => here ?_]
      · rfl
      · subst same; exact Option.some.inj (own.symm.trans there)

theorem Board.Roomy.eased (m : x.Eased d y) (h : x.Roomy) : y.Roomy := by
  cases m with
  | same => exact h
  | cleared => exact h.setChannel (.inl rfl)
  | ended j state =>
    exact (h.setChannel (.inr (by rw [state]; decide))).setProgram (p := .idle) rfl (by decide)

end Sys2Proof.Machine
end

section
/-! PROOFS. Chapter 6: a channel and its program to the end of the event of a good reply (R113, R118, R119, R124). -/

namespace Sys2Proof.Machine

variable {w v : Work} {c d : Nat} {x y : Board} {k j : ProgramKind}

/-! ## Properties that last to the end of the event -/

/-- A property of the board that the judgement of the other channels, at ease, keeps with a grant pass and a turn. -/
structure Board.Endures (c : Nat) (P : Board → Prop) : Prop extends Board.Lasts P where
  eased : ∀ {x y d}, d < 6 → d ≠ c → x.Eased d y → P x → P y

/-- A good reply between two judgements: room for every waiting program, the other channels at ease, no fault flag. -/
structure Work.Calm (c : Nat) (w : Work) : Prop where
  room : w.board.Roomy
  ease : ∀ d < 6, d ≠ c → w.board.AtEase d
  flags : ∀ d < 6, (w.channel d).fault = false

theorem Work.Calm.judge (h : w.Calm c) (bound : d < 6) (other : d ≠ c) : (w.judgeChannel d).Calm c := by
  have eased := Work.judgeChannel_eased (h.ease d bound other) (h.flags d bound)
  have flags := (Work.SameFlags.refl w).judgeChannel d
  exact ⟨h.room.eased eased, fun e he oe => eased.atEase bound (h.ease e he oe),
    fun e he => (flags.2 e).2.trans (h.flags e he)⟩

/-- A judgement of a channel at ease is a judgement of no other. -/
theorem Work.Calm.judges {P : Board → Prop} (eased : ∀ {x y d}, d < 6 → d ≠ c → x.Eased d y → P x → P y) {l : List Nat}
    (others : ∀ d ∈ l, d < 6 ∧ d ≠ c) (h : w.Calm c) (hP : P w.board) :
    (l.foldl Work.judgeChannel w).Calm c ∧ P (l.foldl Work.judgeChannel w).board :=
  List.foldlRecOn (motive := fun u : Work => u.Calm c ∧ P u.board) _ _ ⟨h, hP⟩ fun u hu d hd => by
    obtain ⟨bound, other⟩ := others d hd
    exact ⟨hu.1.judge bound other,
      eased bound other (Work.judgeChannel_eased (hu.1.ease d bound other) (hu.1.flags d bound)) hu.2⟩

/-- A FREE channel is judged by nobody. -/
theorem Work.judgeChannel_ahead {l : List Nat} (others : ∀ d ∈ l, (w.channel d).state = .free ∧ (w.channel d).fault = false) :
    l.foldl Work.judgeChannel w = w :=
  foldl_fixed fun d hd => w.judgeChannel_free d (others d hd).1 (others d hd).2

/-! ## A program on its channel -/

/-- R109: a program that has taken a channel, alone on it. -/
structure Board.Owns (c : Nat) (k : ProgramKind) (x : Board) : Prop where
  channel : (x.program k).channel = some c
  state : (x.program k).state ∈ [.waitingBudget, .playing, .stopping]
  alone : ∀ j, j ≠ k → (x.program j).channel ≠ some c
  holder : (x.channel c).holder = some k
  taken : (x.channel c).state ≠ .free

theorem Board.Moved.channel_eq (m : x.Moved y k) : (y.program k).channel = (x.program k).channel := by
  cases m with
  | same record => rw [record]
  | begun _ own => exact own

theorem Board.Owns.pass (m : x.Pass y) (h : x.Owns c k) : y.Owns c k := by
  obtain ⟨channel, state, alone, holder, taken⟩ := h
  have begun : (y.program k).state ∈ [.waitingBudget, .playing, .stopping] := by
    cases m.program k with
    | same record => rw [record]; exact state
    | begun _ _ state => exact List.mem_cons_of_mem _ state
  have others (j : ProgramKind) (other : j ≠ k) : (y.program j).channel ≠ some c := by
    rw [(m.program j).channel_eq]; exact alone j other
  have on : (y.program k).channel = some c := (m.program k).channel_eq.trans channel
  cases m.channel c with
  | same record => exact ⟨on, begun, others, by rw [record]; exact holder, by rw [record]; exact taken⟩
  | unreserved record => exact ⟨on, begun, others, by rw [record]; exact holder, by rw [record]; exact taken⟩
  | cued j _ _ record =>
    have state : (y.channel c).state = (x.channel c).state := (congrArg Channel.state record :)
    exact ⟨on, begun, others, (congrArg Channel.holder record :).trans holder, by rw [state]; exact taken⟩
  | stopped j _ here now record =>
    obtain rfl : j = k := Classical.byContradiction fun other => alone j other here
    exact ⟨on, begun, others, by rw [record]; rfl, by rw [record]; exact fun h => by cases h⟩

theorem Board.Owns.take (waits : (x.program j).state = .waitingChannel) (free : (x.channel d).state = .free)
    (h : x.Owns c k) : (x.taken j d).Owns c k := by
  obtain ⟨channel, state, alone, holder, taken⟩ := h
  have other : j ≠ k := fun same => by subst same; rw [waits] at state; exact absurd state (by decide)
  have elsewhere : d ≠ c := fun same => by subst same; exact taken free
  have record := x.channel_taken_ne j elsewhere
  refine ⟨by rw [Board.program_taken, if_neg other]; exact channel, by rw [Board.program_taken, if_neg other]; exact state,
    fun i hi => ?_, by rw [record]; exact holder, by rw [record]; exact taken⟩
  rw [Board.program_taken]
  split
  · exact fun same => elsewhere (Option.some.inj same)
  · exact alone i hi

/-- A program that is not on a judged channel keeps its record. -/
theorem Board.Eased.program (m : x.Eased d y) (k : ProgramKind) : y.program k = x.program k ∨
    ((x.program k).channel = some d ∧ (x.program k).state = .stopping ∧ (x.program k).floorSet = 0 ∧
      y.program k = { x.program k with state := .idle, channel := none }) := by
  cases m with
  | same => exact .inl rfl
  | cleared => exact .inl rfl
  | ended j _ ends floors own =>
    rw [Board.program_setProgram]
    by_cases same : j = k
    · subst same; exact .inr ⟨own, ends, floors, if_pos rfl⟩
    · exact .inl (if_neg same)

theorem Board.Eased.channel_ne (m : x.Eased d y) (other : d ≠ c) : y.channel c = x.channel c := by
  cases m with
  | same => rfl
  | cleared => exact x.channel_setChannel_ne c d _ other
  | ended => exact x.channel_setChannel_ne c d _ other

theorem Board.Eased.program_of_channel (m : x.Eased d y) (other : d ≠ c) (own : (x.program k).channel = some c) :
    y.program k = x.program k := by
  obtain same | ⟨there, -⟩ := m.program k
  · exact same
  · exact absurd (Option.some.inj (there.symm.trans own)) other

theorem Board.Owns.eased (other : d ≠ c) (m : x.Eased d y) (h : x.Owns c k) : y.Owns c k := by
  obtain ⟨channel, state, alone, holder, taken⟩ := h
  have record := m.channel_ne other
  have own := m.program_of_channel other channel
  refine ⟨by rw [own]; exact channel, by rw [own]; exact state, fun j hj => ?_, by rw [record]; exact holder,
    by rw [record]; exact taken⟩
  obtain same | ⟨-, -, -, same⟩ := m.program j
  · rw [same]; exact alone j hj
  · rw [same]; exact fun h => by cases h

theorem Board.owns_endures (c : Nat) (k : ProgramKind) : Board.Endures c (Board.Owns c k) where
  pass m h := h.pass m
  taken _ waits free h := h.take waits free
  eased _ other m h := h.eased other m

/-- R118: a program on its channel, with its record and the channel's, that the event leaves as they are. -/
structure Board.Keeps (c : Nat) (k : ProgramKind) (p : Program) (r : Channel) (x : Board) : Prop extends
    Board.Owns c k x where
  record : x.program k = p
  own : { x.channel c with reservedFor := none } = r

theorem Board.keeps_endures (c : Nat) (k : ProgramKind) {p : Program} (r : Channel) (settled : p.state ≠ .waitingBudget) :
    Board.Endures c (Board.Keeps c k p r) where
  pass {x y} m h := by
    have idle {j : ProgramKind} (waits : (x.program j).state = .waitingBudget) : j ≠ k := fun same => by
      subst same; rw [h.record] at waits; exact settled waits
    refine ⟨h.toOwns.pass m, ?_, ?_⟩
    · cases m.program k with
      | same record => rw [record]; exact h.record
      | begun waits => exact absurd rfl (idle waits)
    · cases m.channel c with
      | same record => rw [record]; exact h.own
      | unreserved record => rw [record]; exact h.own
      | cued j waits here => exact absurd here (h.alone j (idle waits))
      | stopped j waits here => exact absurd here (h.alone j (idle waits))
  taken {x j d} _ waits free h := by
    have other : j ≠ k := fun same => by
      subst same
      have state := h.state
      rw [waits] at state
      exact absurd state (by decide)
    have elsewhere : d ≠ c := fun same => by subst same; exact h.taken free
    exact ⟨h.toOwns.take waits free, by rw [Board.program_taken, if_neg other]; exact h.record,
      by rw [x.channel_taken_ne j elsewhere]; exact h.own⟩
  eased _ other m h := ⟨h.toOwns.eased other m, by rw [m.program_of_channel other h.channel]; exact h.record,
    by rw [m.channel_ne other]; exact h.own⟩

/-! ## A program without a channel -/

/-- R119: a program that has ended. -/
def Board.Ended (k : ProgramKind) (x : Board) : Prop := (x.program k).state = .idle ∧ (x.program k).channel = none

theorem Board.ended_endures (c : Nat) (k : ProgramKind) : Board.Endures c (Board.Ended k) where
  pass {x y} m h := by
    unfold Board.Ended at h ⊢
    cases m.program k with
    | same record => rw [record]; exact h
    | begun waits => rw [h.1] at waits; cases waits
  taken {x j d} _ waits _ h := by
    unfold Board.Ended at h ⊢
    rw [Board.program_taken, if_neg fun same => by subst same; rw [h.1] at waits; cases waits]
    exact h
  eased {x y d} _ _ m h := by
    unfold Board.Ended at h ⊢
    obtain same | ⟨there, -⟩ := m.program k
    · rw [same]; exact h
    · rw [h.2] at there; cases there

/-- R113: a program that waits for a channel, with none reserved for it. -/
structure Board.Waits (k : ProgramKind) (x : Board) : Prop where
  state : (x.program k).state = .waitingChannel
  unreserved : ∀ d < 6, (x.channel d).reservedFor ≠ some k

/-- R113: a program that has taken a channel. -/
def Board.Served (k : ProgramKind) (x : Board) : Prop :=
  (x.program k).state ∈ [.waitingBudget, .playing, .stopping] ∧ (x.program k).channel ≠ none

theorem Board.Served.pass (m : x.Pass y) (h : x.Served k) : y.Served k := by
  unfold Board.Served at h ⊢
  rw [(m.program k).channel_eq]
  refine ⟨?_, h.2⟩
  cases m.program k with
  | same record => rw [record]; exact h.1
  | begun _ _ state => exact List.mem_cons_of_mem _ state

theorem Board.served_lasts (k : ProgramKind) : Board.Lasts (Board.Served k) where
  pass m h := h.pass m
  taken {x j d} _ waits _ h := by
    unfold Board.Served at h ⊢
    rw [Board.program_taken, if_neg fun same => by subst same; rw [waits] at h; exact absurd h.1 (by decide)]
    exact h

theorem Board.Pass.reservedFor (m : x.Pass y) (d : Nat) :
    (y.channel d).reservedFor = (x.channel d).reservedFor ∨ (y.channel d).reservedFor = none := by
  cases m.channel d with
  | same record => exact .inl (by rw [record])
  | unreserved record => exact .inr (by rw [record])
  | cued _ _ _ record => exact .inl (congrArg Channel.reservedFor record :)
  | stopped _ _ _ _ record => exact .inr (by rw [record]; rfl)

theorem Board.Waits.pass (m : x.Pass y) (h : x.Waits k) : y.Waits k := by
  refine ⟨?_, fun d bound => ?_⟩
  · cases m.program k with
    | same record => rw [record]; exact h.state
    | begun waits => rw [h.state] at waits; cases waits
  · obtain same | none := m.reservedFor d
    · rw [same]; exact h.unreserved d bound
    · rw [none]; exact fun h => by cases h

theorem Board.Waits.take (other : j ≠ k) (bound : d < 6) (h : x.Waits k) : (x.taken j d).Waits k := by
  refine ⟨by rw [Board.program_taken, if_neg other]; exact h.state, fun e he => ?_⟩
  by_cases same : d = e
  · subst same; rw [x.channel_taken_self j bound]; exact fun h => by cases h
  · rw [x.channel_taken_ne j same]; exact h.unreserved e he

theorem Board.Waits.eased (bound : d < 6) (m : x.Eased d y) (h : x.Waits k) : y.Waits k := by
  refine ⟨?_, fun e he => ?_⟩
  · obtain same | ⟨-, ends, -⟩ := m.program k
    · rw [same]; exact h.state
    · rw [h.state] at ends; cases ends
  · by_cases same : d = e
    · subst same
      cases m with
      | same => exact h.unreserved d he
      | cleared => rw [x.channel_setChannel_self d _ bound]; exact h.unreserved d he
      | ended =>
        show ((x.setChannel d _).channel d).reservedFor ≠ some k
        rw [x.channel_setChannel_self d _ bound]; exact fun h => by cases h
    · rw [m.channel_ne same]; exact h.unreserved e he

end Sys2Proof.Machine
end

section
/-! PROOFS. Chapter 6: the phrase completion and the stop completion of a channel (R117 to R119, R124). -/

namespace Sys2Proof.Machine

variable {w u v : Work} {c d : Nat} {x y z : Board} {h k j : ProgramKind}

/-! ## The phrase completion -/

theorem Work.judgeChannel_spoken (held : (w.channel c).state = .held) (calm : (w.channel c).fault = false)
    (awaits : (w.channel c).awaiting = .phrase) (quiet : (w.channel c).busy = false) (follows : w.replyAfter c = true)
    (holder : (w.channel c).holder = some h) : w.judgeChannel c =
      ((w.setChannel c { w.channel c with awaiting := .nothing, issuedAt := none }).slotComplete h).runDuePass := by
  unfold Work.judgeChannel
  simp only [held, calm, awaits, quiet, follows, holder, Bool.false_eq_true, if_false, if_true]

theorem Work.slotComplete_eq (u : Work) (k : ProgramKind) : u.slotComplete k =
    (u.putProgram k { u.program k with phraseStarted := none, pauseUntil := none }).beginSlot slotBound k
      ((u.program k).slot + 1) := by
  have record : u.setProgram k { u.program k with phraseStarted := none, pauseUntil := none } =
      u.putProgram k { u.program k with phraseStarted := none, pauseUntil := none } := by
    conv_lhs => rw [← u.putProgram_self k]
    rw [Work.program_putProgram]
    exact Work.setProgram_putProgram rfl
  unfold Work.slotComplete
  dsimp only
  rw [record]

/-- R117, R118: the next slot, or slot 0 of an endless template, plays its phrase. -/
theorem Work.slotComplete_sounds {i n : Nat} (channel : (u.program k).channel = some c)
    (slot : u.slotAt k i = some (.phrase n))
    (next : i = (u.program k).slot + 1 ∨
      (i = 0 ∧ u.slotAt k ((u.program k).slot + 1) = none ∧ endless k = true ∧ (u.program k).played = true)) :
    u.slotComplete k = u.sounding k { u.program k with
      slot := i, pauseUntil := none, phraseStarted := some u.uptime, played := true } c n := by
  rw [u.slotComplete_eq]
  obtain rfl | ⟨rfl, last, forever, played⟩ := next
  · exact Work.beginSlot_sounds (r := { u.program k with phraseStarted := none, pauseUntil := none }) rfl 31 _ channel (.inl slot)
  · have repeats := Work.beginSlot_repeats (w := u) (k := k)
      (r := { u.program k with phraseStarted := none, pauseUntil := none }) rfl 31 _ last (.inl forever) played
    rw [leftAfter, if_pos forever] at repeats
    exact repeats.trans (Work.beginSlot_sounds
      (r := { u.program k with phraseStarted := none, pauseUntil := none, played := false }) rfl 30 0 channel (.inl slot))

/-- R118: a program that ends with its last repetition. -/
theorem Work.slotComplete_completes (last : u.slotAt k ((u.program k).slot + 1) = none) (finite : endless k = false)
    (few : (u.program k).repeatsLeft ≤ 1) : u.slotComplete k =
      (u.putProgram k { u.program k with phraseStarted := none, pauseUntil := none, repeatsLeft := 0 }).completeProgram k :=
  (u.slotComplete_eq k).trans (Work.beginSlot_completes (r := { u.program k with phraseStarted := none, pauseUntil := none })
    rfl 31 _ last finite few)

/-- R118: the completion of a program, on the board. -/
theorem Work.board_completeProgram (u : Work) (k : ProgramKind) : (u.completeProgram k).board =
    ((u.board.stopped k u.uptime).setProgram k ((u.program k).stopped k .completed).emptied).command (u.program k).stops := by
  rw [Work.board_of_view (u.view_completeProgram k), ← u.board_stopped k]
  rfl

/-- R118: what a program that plays on leaves on the board. -/
theorem Work.keeps_sounding {q : Program} {n : Nat} (bound : c < 6) (own : q.channel = some c) (playing : q.state = .playing)
    (alone : ∀ j, j ≠ k → (u.program j).channel ≠ some c) (holder : (u.channel c).holder = some k)
    (held : (u.channel c).state = .held) : (u.sounding k q c n).board.Keeps c k q
      { u.channel c with awaiting := .phrase, issuedAt := some u.uptime, reservedFor := none } ∧
      .play c n ∈ (u.sounding k q c n).board.commands := by
  have record (j : ProgramKind) : (u.sounding k q c n).board.program j = if k = j then q else u.program j :=
    Board.program_setProgram u.board k j q
  have channel : (u.sounding k q c n).board.channel c = { u.channel c with awaiting := .phrase, issuedAt := some u.uptime } :=
    Board.channel_setChannel_self u.board c _ bound
  have mine : (u.sounding k q c n).board.program k = q := (record k).trans (if_pos rfl)
  refine ⟨⟨⟨by rw [mine]; exact own, by rw [mine, playing]; decide, fun j other => ?_, by rw [channel]; exact holder,
    by rw [channel]; exact fun free => by cases held.symm.trans free⟩, mine, by rw [channel]⟩,
    List.mem_append_right _ (List.mem_singleton.mpr rfl)⟩
  rw [record, if_neg other.symm]
  exact alone j other

/-- R118: what a program that completes leaves on the board. -/
theorem Work.keeps_completeProgram (bound : c < 6) (own : (u.program k).channel = some c)
    (alone : ∀ j, j ≠ k → (u.program j).channel ≠ some c) :
    (u.completeProgram k).board.Keeps c k ((u.program k).stopped k .completed).emptied
      ((u.channel c).stopped k none u.uptime) ∧ .stop c ∈ (u.completeProgram k).board.commands := by
  rw [Work.board_completeProgram]
  obtain ⟨q, hq⟩ : ∃ q, q = ((u.program k).stopped k .completed).emptied := ⟨_, rfl⟩
  rw [← hq]
  rw [Program.completed_eq] at hq
  have stopped : u.board.stopped k u.uptime = u.board.setChannel c ((u.channel c).stopped k none u.uptime) := by
    unfold Board.stopped
    rw [show (u.board.program k).channel = some c from own]
    rfl
  rw [stopped]
  obtain ⟨y, hy⟩ : ∃ y, y = ((u.board.setChannel c ((u.channel c).stopped k none u.uptime)).setProgram k q).command
    (u.program k).stops := ⟨_, rfl⟩
  have record (j : ProgramKind) : y.program j = if k = j then q else u.program j := by
    rw [hy]; exact Board.program_setProgram _ k j q
  have channel : y.channel c = (u.channel c).stopped k none u.uptime := by
    rw [hy]; exact Board.channel_setChannel_self u.board c _ bound
  have mine : y.program k = q := (record k).trans (if_pos rfl)
  have commands : .stop c ∈ y.commands := by
    rw [hy]
    refine List.mem_append_right _ ?_
    rw [Program.stops, own]
    exact List.mem_singleton.mpr rfl
  rw [← hy]
  refine ⟨⟨⟨by rw [mine, hq]; exact own, by rw [mine, hq]; exact List.mem_cons_of_mem _ (List.mem_cons_of_mem _ List.mem_cons_self),
    fun j other => ?_, by rw [channel]; rfl, by rw [channel]; exact fun free => by cases free⟩, mine, by rw [channel]; rfl⟩, commands⟩
  rw [record, if_neg other.symm]
  exact alone j other

/-! ## The stop completion (R119) -/

/-- R119: the board when a channel's holder has ended and the channel is FREE. -/
def Board.released (x : Board) (h : ProgramKind) (c : Nat) : Board :=
  (x.setProgram h (x.program h).stopEnded).setChannel c (x.channel c).freed

theorem Work.judgeChannel_stopped (stopping : (w.channel c).state = .stopping) (calm : (w.channel c).fault = false)
    (quiet : (w.channel c).busy = false) (follows : w.replyAfter c = true) : w.judgeChannel c = w.stopCompletion c := by
  unfold Work.judgeChannel
  simp only [stopping, calm, quiet, follows, Bool.false_eq_true, if_false, if_true]

theorem Work.board_stopCompletion (w : Work) (c : Nat) (holder : (w.channel c).holder = some h) :
    ((w.channel c).reservedFor = none → (w.stopCompletion c).board = w.board.released h c) ∧
    ∀ k, (w.channel c).reservedFor = some k → ((w.board.released h c).taken k c).Passes (w.stopCompletion c).board := by
  unfold Work.stopCompletion
  dsimp only
  rw [holder]
  obtain ⟨u, hu⟩ : ∃ u, u = (w.endHolder (some h)).setChannel c (w.channel c).freed := ⟨_, rfl⟩
  have board : u.board = w.board.released h c := by
    rw [hu, Work.board_setChannel, Work.endHolder, Work.endStop, Work.board_setProgram]
    rfl
  rw [← hu]
  refine ⟨fun none => by rw [none]; exact board, fun k reserved => ?_⟩
  rw [reserved, ← board]
  exact u.passes_takeChannel k c

theorem Board.program_released (x : Board) (h : ProgramKind) (c : Nat) (j : ProgramKind) :
    (x.released h c).program j = if h = j then (x.program h).stopEnded else x.program j :=
  Board.program_setProgram x h j _

theorem Board.channel_released (x : Board) (h : ProgramKind) (bound : c < 6) :
    (x.released h c).channel c = (x.channel c).freed ∧ ∀ d, d ≠ c → (x.released h c).channel d = x.channel d :=
  ⟨Board.channel_setChannel_self _ c _ bound, fun d other => Board.channel_setChannel_ne _ d c _ other.symm⟩

theorem Board.taken_owns (bound : c < 6) (alone : ∀ j, j ≠ k → (x.program j).channel ≠ some c) :
    (x.taken k c).Owns c k := by
  have record (j : ProgramKind) := x.program_taken k c j
  have mine := (record k).trans (if_pos rfl)
  have channel := x.channel_taken_self k bound
  refine ⟨by rw [mine], by rw [mine]; exact List.mem_cons_self, fun j other => ?_, by rw [channel],
    by rw [channel]; exact fun free => by cases free⟩
  rw [record, if_neg other.symm]
  exact alone j other

theorem Board.Owns.accounts (own : x.Owns c k) : x.Accounts k c :=
  ⟨fun waits => by have state := own.state; rw [waits] at state; exact absurd state (by decide), fun _ => own.channel⟩

/-! ## To the end of the event -/

/-- What the judgement of a channel leaves, before the pass it ends with, and what that pass leaves of it. -/
theorem Work.Calm.of_passes (passes : z.Passes v.board) (room : z.Roomy) (free : ∀ d < 6, d ≠ c → (z.channel d).state = .free)
    (flags : ∀ d < 6, (v.channel d).fault = false) : v.Calm c :=
  ⟨passes.keeps (fun _ _ m h => h.pass m) room,
    fun d bound other => passes.keeps (P := fun y => y.AtEase d) (fun _ _ m h => h.pass m) (.free (free d bound other)), flags⟩

/-- R113, R124: a property of the judged channel and its program that lasts to the end of the event. -/
theorem Work.Calm.ends {P : Board → Prop} (endures : Board.Endures c P) {l : List Nat} (others : ∀ d ∈ l, d < 6 ∧ d ≠ c)
    (h : w.Calm c) (hP : P w.board) : P (l.foldl Work.judgeChannel w).arbiter.endEvent.board := by
  obtain ⟨calm, holds⟩ := h.judges endures.eased others hP
  exact Work.arbiter_endEvent_lasts endures.toLasts holds calm.room

/-- R113: a program that waits is given a channel in its turn. -/
theorem Work.arbiterTurn_serves (waits : w.board.Waits k) (room : w.board.Roomy) :
    (w.arbiterTurn k).board.Served k ∧ (w.arbiterTurn k).board.Roomy := by
  obtain ⟨-, idle⟩ | ⟨-, d, bound, -, passes⟩ := w.arbiterTurn_takes k room
  · obtain other | reserved := idle
    · exact absurd waits.state other
    · refine absurd ?_ reserved
      have unreserved (d : Nat) (hd : d ∈ channelIndices) : ¬ (w.channel d).reservedFor = some k :=
        waits.unreserved d (List.mem_range.mp hd)
      exact List.find?_eq_none.mpr fun d hd => by simpa using unreserved d hd
  · have served : (w.board.taken k d).Served k := by
      unfold Board.Served
      rw [Board.program_taken, if_pos rfl]
      exact ⟨List.mem_cons_self, fun h => by cases h⟩
    exact ⟨(Board.served_lasts k).passes passes served,
      passes.keeps (fun _ _ m h => h.pass m) (Board.Roomy.taken (x := w.board) waits.state d room)⟩

theorem Work.arbiterTurn_waits (other : j ≠ k) (waits : w.board.Waits k) (room : w.board.Roomy) :
    (w.arbiterTurn j).board.Waits k ∧ (w.arbiterTurn j).board.Roomy := by
  obtain ⟨same, -⟩ | ⟨turn, d, bound, -, passes⟩ := w.arbiterTurn_takes j room
  · rw [same]; exact ⟨waits, room⟩
  · exact ⟨passes.keeps (P := fun x => x.Waits k) (fun _ _ m h => h.pass m) (waits.take other bound),
      passes.keeps (fun _ _ m h => h.pass m) (Board.Roomy.taken (x := w.board) turn d room)⟩

/-- R113: with room for every waiting program, the arbiter serves one that waits. -/
theorem Work.arbiter_serves (waits : w.board.Waits k) (room : w.board.Roomy) : w.arbiter.endEvent.board.Served k := by
  have split := congrArg (fun l => l.foldl Work.arbiterTurn w) (ProgramKind.all_eq k)
  simp only [List.foldl_append, List.foldl_cons] at split
  obtain ⟨first, hfirst⟩ : ∃ first, first = (ProgramKind.all.filter fun j => decide (j.priority < k.priority)).foldl
    Work.arbiterTurn w := ⟨_, rfl⟩
  have before : first.board.Waits k ∧ first.board.Roomy := by
    rw [hfirst]
    refine List.foldlRecOn (motive := fun u : Work => u.board.Waits k ∧ u.board.Roomy) _ _ ⟨waits, room⟩ fun u hu j hj => ?_
    have lower := of_decide_eq_true (List.mem_filter.mp hj).2
    exact u.arbiterTurn_waits (fun same => by subst same; exact absurd lower (Nat.lt_irrefl _)) hu.1 hu.2
  have served := Work.arbiterTurns_last (Board.served_lasts k) (ProgramKind.all.filter fun j => decide (k.priority < j.priority))
    _ (first.arbiterTurn_serves before.1 before.2)
  rw [hfirst, ← split] at served
  have ends : Runs {} w.arbiter w.arbiter.endEvent := Runs.endEvent (.refl _) trivial trivial
  exact (Board.served_lasts k).passes ends.passes served.1

end Sys2Proof.Machine
end

section
/-! PROOFS. Chapter 6: a good reply that completes a phrase or a stop (R117 to R119, R124), and O52. -/

namespace Sys2Proof.Machine

variable {w : Work} {c : Nat} {x y z : Board} {h k : ProgramKind}

theorem Board.Endures.and {P Q : Board → Prop} (hP : Board.Endures c P) (hQ : Board.Endures c Q) :
    Board.Endures c fun x => P x ∧ Q x where
  pass m h := ⟨hP.pass m h.1, hQ.pass m h.2⟩
  taken bound waits free h := ⟨hP.taken bound waits free h.1, hQ.taken bound waits free h.2⟩
  eased bound other m h := ⟨hP.eased bound other m h.1, hQ.eased bound other m h.2⟩

theorem Board.issued_endures (c : Nat) (cmd : PlayerCommand) : Board.Endures c fun x => cmd ∈ x.commands where
  pass m h := m.commands h
  taken _ _ _ h := h
  eased _ _ m h := by cases m <;> exact h

/-! ## A reply that finds one channel awaiting -/

/-- R124: a good reply recorded, without a fault flag, that answers the command awaited on the one channel not FREE. -/
structure Work.Answered (c : Nat) (h : ProgramKind) (w : Work) : Prop where
  bound : c < 6
  free : ∀ d < 6, d ≠ c → (w.channel d).state = .free
  unreserved : ∀ d < 6, d ≠ c → (w.channel d).reservedFor = none
  calm : ∀ d < 6, (w.channel d).fault = false
  quiet : (w.channel c).busy = false
  follows : w.replyAfter c = true
  holder : (w.channel c).holder = some h
  alone : ∀ j, j ≠ h → (w.program j).channel ≠ some c

/-- The end of the event of a good reply. -/
def Work.answered (w : Work) : Work := (channelIndices.foldl Work.judgeChannel w).arbiter.endEvent

namespace Work.Answered

theorem judges (a : w.Answered c h) : ∃ after : List Nat, (∀ d ∈ after, d < 6 ∧ d ≠ c) ∧
    channelIndices.foldl Work.judgeChannel w = after.foldl Work.judgeChannel (w.judgeChannel c) := by
  obtain ⟨before, after, around, first, others⟩ := channelIndices_around a.bound
  refine ⟨after, others, ?_⟩
  have ahead : before.foldl Work.judgeChannel w = w := Work.judgeChannel_ahead fun d hd => by
    obtain ⟨bound, other⟩ := first d hd
    exact ⟨a.free d bound other, a.calm d bound⟩
  rw [around, List.foldl_append, List.foldl_cons, ahead]

section
variable (a : w.Answered c h) (passes : z.Passes (w.judgeChannel c).board) (others : ∀ d, d ≠ c → z.channel d = w.channel d)
include a passes others

theorem calms (own : (z.channel c).state ≠ .free → z.Accounts k c) : (w.judgeChannel c).Calm c := by
  have free (d : Nat) (bound : d < 6) (other : d ≠ c) : (z.channel d).state = .free := by
    rw [others d other]; exact a.free d bound other
  exact .of_passes passes (Board.roomy_one free own) free fun d bound =>
    (((Work.SameFlags.refl w).judgeChannel c).2 d).2.trans (a.calm d bound)

theorem lasts {P : Board → Prop} (endures : Board.Endures c P) (own : (z.channel c).state ≠ .free → z.Accounts k c)
    (hP : P z) : P w.answered.board := by
  obtain ⟨after, bounds, judged⟩ := a.judges
  unfold Work.answered
  rw [judged]
  exact (a.calms passes others own).ends (P := P) endures bounds (endures.toLasts.passes (P := P) passes hP)

end

/-! ## The phrase completion -/

section
variable (a : w.Answered c h) (held : (w.channel c).state = .held) (awaits : (w.channel c).awaiting = .phrase)
  (own : (w.program h).channel = some c)
include a held awaits own

/-- R117, R118: the program plays on. -/
theorem speaks (playing : (w.program h).state = .playing) {i n : Nat} (slot : w.slotAt h i = some (.phrase n))
    (next : i = (w.program h).slot + 1 ∨
      (i = 0 ∧ w.slotAt h ((w.program h).slot + 1) = none ∧ endless h = true ∧ (w.program h).played = true)) :
    w.answered.board.Keeps c h
      { w.program h with slot := i, pauseUntil := none, phraseStarted := some w.uptime, played := true }
      { w.channel c with awaiting := .phrase, issuedAt := some w.uptime, reservedFor := none } ∧
      .play c n ∈ w.answered.board.commands := by
  obtain ⟨u, hu⟩ : ∃ u, u = w.setChannel c { w.channel c with awaiting := .nothing, issuedAt := none } := ⟨_, rfl⟩
  have channel : u.channel c = { w.channel c with awaiting := .nothing, issuedAt := none } := by
    rw [hu]; exact Board.channel_setChannel_self w.board c _ a.bound
  have elsewhere (d : Nat) (other : d ≠ c) : u.channel d = w.channel d := by
    rw [hu]; exact Board.channel_setChannel_ne w.board d c _ other.symm
  have sounds : u.slotComplete h = u.sounding h { w.program h with
      slot := i, pauseUntil := none, phraseStarted := some w.uptime, played := true } c n := by
    rw [hu]; exact Work.slotComplete_sounds own slot next
  have keeps := Work.keeps_sounding (u := u) (k := h) (n := n)
    (q := { w.program h with slot := i, pauseUntil := none, phraseStarted := some w.uptime, played := true })
    a.bound own playing (by rw [hu]; exact a.alone) (by rw [channel]; exact a.holder) (by rw [channel]; exact held)
  have pass : Runs {} (u.slotComplete h) (u.slotComplete h).runDuePass := (Runs.refl _).runDuePass
  have passes := pass.passes
  have spoken := Work.judgeChannel_spoken held (a.calm c a.bound) awaits a.quiet a.follows a.holder
  rw [← hu] at spoken
  rw [← spoken, sounds] at passes
  rw [channel, show u.uptime = w.uptime by rw [hu]; rfl] at keeps
  refine a.lasts passes (fun d other => ?_) (Board.Endures.and (Board.keeps_endures c h _ ?_) (Board.issued_endures c _))
    (fun _ => keeps.1.toOwns.accounts) keeps
  · exact (Board.channel_setChannel_ne u.board d c _ other.symm).trans (elsewhere d other)
  · exact fun waits => by cases playing.symm.trans waits

/-- R118: the program completes. -/
theorem completes (last : w.slotAt h ((w.program h).slot + 1) = none) (finite : endless h = false)
    (few : (w.program h).repeatsLeft ≤ 1) :
    w.answered.board.Keeps c h
      { w.program h with
        state := .stopping, stopReason := some .completed, pauseUntil := none, phraseStarted := none, givenSet := 0,
        floorSet := 0, repeatsLeft := 0 }
      ((w.channel c).stopped h none w.uptime) ∧
      .stop c ∈ w.answered.board.commands := by
  obtain ⟨u, hu⟩ : ∃ u, u = w.setChannel c { w.channel c with awaiting := .nothing, issuedAt := none } := ⟨_, rfl⟩
  obtain ⟨v, hv⟩ : ∃ v, v = u.putProgram h { u.program h with phraseStarted := none, pauseUntil := none, repeatsLeft := 0 } :=
    ⟨_, rfl⟩
  have channel : v.channel c = { w.channel c with awaiting := .nothing, issuedAt := none } := by
    rw [hv, hu]; exact Board.channel_setChannel_self w.board c _ a.bound
  have elsewhere (d : Nat) (other : d ≠ c) : v.channel d = w.channel d := by
    rw [hv, hu]; exact Board.channel_setChannel_ne w.board d c _ other.symm
  have record : v.program h = { w.program h with phraseStarted := none, pauseUntil := none, repeatsLeft := 0 } := by
    rw [hv, Work.program_putProgram, hu]; rfl
  have ends : u.slotComplete h = v.completeProgram h := by
    rw [hv, hu]; exact Work.slotComplete_completes last finite few
  have keeps := Work.keeps_completeProgram (u := v) (k := h) a.bound (by rw [record]; exact own) fun j other => by
    rw [hv, Work.program_putProgram_ne _ _ other, hu]; exact a.alone j other
  have pass : Runs {} (u.slotComplete h) (u.slotComplete h).runDuePass := (Runs.refl _).runDuePass
  have passes := pass.passes
  have spoken := Work.judgeChannel_spoken held (a.calm c a.bound) awaits a.quiet a.follows a.holder
  rw [← hu] at spoken
  rw [← spoken, ends] at passes
  rw [Program.completed_eq, record, channel, show v.uptime = w.uptime by rw [hv, hu]; rfl] at keeps
  refine a.lasts passes (fun d other => ?_) (Board.Endures.and (Board.keeps_endures c h _ ?_) (Board.issued_endures c _))
    (fun _ => keeps.1.toOwns.accounts) keeps
  · rw [Work.board_completeProgram]
    obtain same | ⟨on, -⟩ := v.board.stopped_channel h v.uptime d
    · exact same.trans (elsewhere d other)
    · have there : (v.program h).channel = some d := on
      rw [record] at there
      exact absurd (Option.some.inj (there.symm.trans own)) other
  · exact fun waits => by cases waits

end

/-! ## The stop completion -/

section
variable (a : w.Answered c h) (stopping : (w.channel c).state = .stopping)
include a

theorem others_released (d : Nat) (other : d ≠ c) : (w.board.released h c).channel d = w.channel d :=
  (w.board.channel_released h a.bound).2 d other

theorem free_released : ((w.board.released h c).channel c).state = .free := by
  rw [(w.board.channel_released h a.bound).1]; rfl

include stopping

/-- R119: with nothing reserved, what the completion leaves of the board. -/
theorem released (none : (w.channel c).reservedFor = none) :
    (w.board.released h c).Passes (w.judgeChannel c).board := by
  rw [Work.judgeChannel_stopped stopping (a.calm c a.bound) a.quiet a.follows,
    (w.board_stopCompletion c a.holder).1 none]
  exact .refl

/-- R119: the program that the channel stands reserved for takes it. -/
theorem handed (reserved : (w.channel c).reservedFor = some k) :
    ((w.board.released h c).taken k c).Passes (w.judgeChannel c).board := by
  rw [Work.judgeChannel_stopped stopping (a.calm c a.bound) a.quiet a.follows]
  exact (w.board_stopCompletion c a.holder).2 k reserved

theorem handed_owns (reserved : (w.channel c).reservedFor = some k) {P : Board → Prop} (endures : Board.Endures c P)
    (hP : P ((w.board.released h c).taken k c)) : P w.answered.board := by
  have alone (j : ProgramKind) (_ : j ≠ k) : ((w.board.released h c).program j).channel ≠ some c := by
    rw [Board.program_released]
    split
    · rw [Board.Judges.stopEnded_channel]; exact fun h => by cases h
    next other => exact a.alone j (Ne.symm other)
  have own := Board.taken_owns (x := w.board.released h c) (k := k) a.bound alone
  exact a.lasts (a.handed stopping reserved)
    (fun d other => (Board.channel_taken_ne _ k other.symm).trans (a.others_released d other)) endures
    (fun _ => own.accounts) hP

/-- R119: a holder without floors enters IDLE. -/
theorem idles (floors : (w.program h).floorSet = 0) (unreserved : (w.channel c).reservedFor ≠ some h) :
    w.answered.board.Ended h := by
  have ended : (w.board.released h c).Ended h := by
    unfold Board.Ended
    rw [Board.program_released, if_pos rfl, show (w.board.program h).stopEnded = _ from if_pos floors]
    exact ⟨rfl, rfl⟩
  cases reserved : (w.channel c).reservedFor with
  | none =>
    exact a.lasts (k := h) (a.released stopping reserved) a.others_released (Board.ended_endures c h)
      (fun taken => absurd a.free_released taken) ended
  | some k =>
    refine a.handed_owns stopping reserved (Board.ended_endures c h) ?_
    unfold Board.Ended
    rw [Board.program_taken, if_neg fun same => unreserved (by rw [reserved, same])]
    exact ended

/-- R119: a holder with floors waits again, and the arbiter gives it a FREE channel. -/
theorem waitsAgain (floors : (w.program h).floorSet ≠ 0) (none : (w.channel c).reservedFor = none) :
    w.answered.board.Served h := by
  have waits : (w.board.released h c).Waits h := by
    refine ⟨?_, fun d bound => ?_⟩
    · rw [Board.program_released, if_pos rfl, show (w.board.program h).stopEnded = _ from if_neg floors]
    · by_cases here : d = c
      · subst here
        rw [(w.board.channel_released h bound).1]
        exact fun h => by cases h
      · rw [a.others_released d here, a.unreserved d bound here]
        exact fun h => by cases h
  have passes := a.released stopping none
  have calm := a.calms passes a.others_released (k := h) fun taken => absurd a.free_released taken
  obtain ⟨after, bounds, judged⟩ := a.judges
  have waiting : (w.judgeChannel c).board.Waits h :=
    passes.keeps (P := fun x => x.Waits h) (fun _ _ m h => h.pass m) waits
  obtain ⟨later, still⟩ := calm.judges (P := fun x => x.Waits h) (fun bound _ m h => h.eased bound m) bounds waiting
  unfold Work.answered
  rw [judged]
  exact Work.arbiter_serves still later.room

/-- R119: the program that the channel stands reserved for holds it. -/
theorem hands (reserved : (w.channel c).reservedFor = some k) : w.answered.board.Owns c k := by
  refine a.handed_owns stopping reserved (Board.owns_endures c k) (Board.taken_owns a.bound fun j _ => ?_)
  rw [Board.program_released]
  split
  · rw [Board.Judges.stopEnded_channel]; exact fun h => by cases h
  next other => exact a.alone j (Ne.symm other)

end

end Work.Answered

end Sys2Proof.Machine
end

section
/-! PROOFS. Chapter 6: STATUS replies that time out a phrase, fault channels, and complete phrases and stops (O52). -/

namespace Sys2Proof.Machine

variable {s : State} {r : StatusReply} {c : Nat} {h : ProgramKind}

theorem slotAt_recorded (s : State) (r : StatusReply) (k : ProgramKind) (i : Nat) :
    ((Work.begin s).recorded r).slotAt k i = templateSlot s.map (s.templateOf k) i := by
  have state := ((Work.begin s).recorded_rest r).1
  have program := (Work.begin s).recorded_program r k
  obtain ⟨w, hw⟩ : ∃ w, w = (Work.begin s).recorded r := ⟨_, rfl⟩
  rw [← hw] at state program ⊢
  have map : w.map = s.map := (congrArg State.map state :)
  unfold State.slotAt State.templateOf
  rw [program, map]
  rfl

/-- R124: a reply that answers the one command awaited, recorded. -/
theorem answered_recorded (bound : c < 6) (quiet : r.busy.getLsbD c = false) (calm : ∀ d < 6, r.fault.getLsbD d = false)
    (others : ∀ d < 6, d ≠ c → (s.channel d).state = .free ∧ (s.channel d).reservedFor = none)
    (unasked : ∀ q ∈ s.plp.commands, q.channel ≠ c) (holder : (s.channel c).holder = some h)
    (alone : ∀ j, j ≠ h → (s.program j).channel ≠ some c) : ((Work.begin s).recorded r).Answered c h := by
  have record (d : Nat) (hd : d < 6) := (Work.begin s).recorded_channel r hd
  refine ⟨bound, fun d hd other => ?_, fun d hd other => ?_, fun d hd => ?_, ?_, ?_, ?_, fun j other => ?_⟩
  · rw [record d hd]; exact (others d hd other).1
  · rw [record d hd]; exact (others d hd other).2
  · rw [record d hd]; exact calm d hd
  · rw [record c bound]; exact quiet
  · unfold State.replyAfter
    rw [((Work.begin s).recorded_rest r).2.1, Bool.not_eq_true']
    exact List.any_eq_false.mpr fun q hq => by simpa using unasked q hq
  · rw [record c bound]; exact holder
  · rw [(Work.begin s).recorded_program]; exact alone j other

/-- R124: the event of a good reply. -/
theorem takeStatus_answered (good : badStatus r = false) :
    (Work.begin s).asked.takeStatus r = ((Work.begin s).recorded r).answered :=
  Work.takeStatus_recorded _ good

end Sys2Proof.Machine

namespace Sys2Proof.Claims

open Sys2Proof Sys2Proof.Machine

section
variable {s : State} {r : StatusReply} {c : Nat} {h : ProgramKind} (good : badStatus r = false)
  (answered : ((Work.begin s).recorded r).Answered c h)
include good answered

/-- R117, R118: the phrase completion (the third part of O52). -/
theorem status_speaks (held : (s.channel c).state = .held) (awaits : (s.channel c).awaiting = .phrase)
    (playing : (s.program h).state = .playing) (own : (s.program h).channel = some c) {i n : Nat}
    (slot : templateSlot s.map (s.templateOf h) i = some (.phrase n))
    (next : i = (s.program h).slot + 1 ∨ (i = 0 ∧ templateSlot s.map (s.templateOf h) ((s.program h).slot + 1) = none ∧
      endless h = true ∧ (s.program h).played = true)) :
    let t := ((Work.begin s).statusTransaction r).finish
    t.program h = { s.program h with slot := i, pauseUntil := none, phraseStarted := some s.uptime, played := true } ∧
      .play c n ∈ t.plp.commands ∧ (t.channel c).state = .held ∧ (t.channel c).awaiting = .phrase ∧
      (t.channel c).issuedAt = some s.uptime := by
  intro t
  obtain ⟨channel, program, commands⟩ := board_statusTransaction s r
  rw [takeStatus_answered good] at channel program commands
  have record := (Work.begin s).recorded_channel r answered.bound
  have self := (Work.begin s).recorded_program r h
  have uptime : ((Work.begin s).recorded r).uptime = s.uptime :=
    (congrArg State.uptime ((Work.begin s).recorded_rest r).1 :)
  have speaks := answered.speaks (i := i) (n := n) (by rw [record]; exact held) (by rw [record]; exact awaits)
    (by rw [self]; exact own) (by rw [self]; exact playing) (by rw [slotAt_recorded]; exact slot)
    (by rw [slotAt_recorded, self]; exact next)
  obtain ⟨keeps, issued⟩ := speaks
  have final : (t.program h) = _ := (program h).trans keeps.record
  have there := keeps.own
  rw [self, uptime] at final
  rw [record, uptime, ← channel c] at there
  refine ⟨final, by rw [commands]; exact issued, (congrArg Channel.state there :).trans held,
    (congrArg Channel.awaiting there :), (congrArg Channel.issuedAt there :)⟩

/-- R118: the completion of a program (the third part of O52). -/
theorem status_completes (held : (s.channel c).state = .held) (awaits : (s.channel c).awaiting = .phrase)
    (own : (s.program h).channel = some c) (last : templateSlot s.map (s.templateOf h) ((s.program h).slot + 1) = none)
    (finite : endless h = false) (few : (s.program h).repeatsLeft ≤ 1) :
    let t := ((Work.begin s).statusTransaction r).finish
    (t.program h).state = .stopping ∧ (t.program h).stopReason = some .completed ∧
      (t.program h).slot = (s.program h).slot ∧ (t.program h).givenSet = 0 ∧ (t.program h).floorSet = 0 ∧
      .stop c ∈ t.plp.commands ∧ (t.channel c).state = .stopping ∧ (t.channel c).awaiting = .stop := by
  intro t
  obtain ⟨channel, program, commands⟩ := board_statusTransaction s r
  rw [takeStatus_answered good] at channel program commands
  have record := (Work.begin s).recorded_channel r answered.bound
  have self := (Work.begin s).recorded_program r h
  obtain ⟨keeps, issued⟩ := answered.completes (by rw [record]; exact held) (by rw [record]; exact awaits)
    (by rw [self]; exact own) (by rw [slotAt_recorded, self]; exact last) finite (by rw [self]; exact few)
  have final : (t.program h) = _ := (program h).trans keeps.record
  have there := keeps.own
  rw [self] at final
  rw [← channel c] at there
  exact ⟨by rw [final], by rw [final], by rw [final]; rfl, by rw [final], by rw [final], by rw [commands]; exact issued,
    (congrArg Channel.state there :), (congrArg Channel.awaiting there :)⟩

/-- R119: the stop completion (the third part of O52). -/
theorem status_stopEnds (stopping : (s.channel c).state = .stopping) :
    let t := ((Work.begin s).statusTransaction r).finish
    ((s.program h).floorSet = 0 → (s.channel c).reservedFor ≠ some h →
      (t.program h).state = .idle ∧ (t.program h).channel = none) ∧
    ((s.program h).floorSet ≠ 0 → (s.channel c).reservedFor = none →
      (t.program h).state ≠ .waitingChannel ∧ (t.program h).channel ≠ none) ∧
    ∀ k, k ≠ h → (s.channel c).reservedFor = some k →
      (t.channel c).holder = some k ∧ (t.program k).channel = some c ∧
      (t.program k).state ∈ [.waitingBudget, .playing, .stopping] := by
  intro t
  obtain ⟨channel, program, -⟩ := board_statusTransaction s r
  rw [takeStatus_answered good] at channel program
  have record := (Work.begin s).recorded_channel r answered.bound
  have self := (Work.begin s).recorded_program r h
  have stops : (((Work.begin s).recorded r).channel c).state = .stopping := by rw [record]; exact stopping
  refine ⟨fun floors unreserved => ?_, fun floors unreserved => ?_, fun k _ reserved => ?_⟩
  · have ended := answered.idles stops (by rw [self]; exact floors) (by rw [record]; exact unreserved)
    unfold Board.Ended at ended
    rw [← program h] at ended
    exact ended
  · have served := answered.waitsAgain stops (by rw [self]; exact floors) (by rw [record]; exact unreserved)
    unfold Board.Served at served
    rw [← program h] at served
    obtain ⟨state, on⟩ := served
    exact ⟨fun waits => by
      change (t.program h).state ∈ _ at state
      rw [waits] at state; exact absurd state (by decide), on⟩
  · have owns := answered.hands stops (k := k) (by rw [record]; exact reserved)
    exact ⟨(congrArg Channel.holder (channel c)).trans owns.holder, (congrArg Program.channel (program k)).trans owns.channel,
      by rw [program k]; exact owns.state⟩

end

theorem good_of_ready {r : StatusReply} (ready : r.ready.getLsbD 0 = true) (spare : r.spare ≠ 0xFF) :
    badStatus r = false := by
  refine Bool.not_eq_true _ ▸ fun bad => ?_
  obtain unready | ⟨-, -, -, full⟩ := badStatus_iff.mp bad
  · rw [ready] at unready; cases unready
  · exact spare full

/-- R124: a channel that has awaited its phrase for max_phrase_time times out. -/
theorem phraseOver_of {s : State} {r : StatusReply} {c e : Nat} (busy : r.busy.getLsbD c = true)
    (calm : r.fault.getLsbD c = false) (issued : (s.channel c).issuedAt = some e)
    (late : e + maxPhraseTime s.map ≤ s.uptime) (held : (s.channel c).state = .held)
    (awaits : (s.channel c).awaiting = .phrase) : s.phraseOver r c = true := by
  unfold State.phraseOver State.timedOut
  simp [busy, calm, issued, late, held, awaits]

/-- Settles O52. -/
theorem phraseTimeoutFaultsTheChannel : Obligations.PhraseTimeoutFaultsTheChannel := by
  refine ⟨?_, ?_, ?_⟩
  · intro s r c e k started begins ready spare bound busy calm free held holder awaits issued late playing alone
    have good := good_of_ready ready spare
    have times : channelIndices.any (s.phraseOver r) = true := List.any_eq_true.mpr ⟨c, List.mem_range.mpr bound,
      phraseOver_of busy (calm c bound) issued late held awaits⟩
    have occurs : exec (.phraseTimeout r) s = .next ((Work.begin s).statusTransaction r).finish :=
      congrArg Host.Outcome.next (onEvent_occurs started (by rw [statusBegins_iff.mpr begins, good, times]; rfl)
        fun w => w.statusTransaction r)
    obtain ⟨supply, link, -, -⟩ := finish_statusTransaction s r
    exact ⟨_, occurs, supply, link,
      phraseTimeout_faults good bound busy calm free held holder awaits issued late playing alone⟩
  · intro s r c started begins bound held
    have occurs : exec (.status r) s = .next ((Work.begin s).statusTransaction r).finish :=
      congrArg Host.Outcome.next (onEvent_occurs started (statusBegins_iff.mpr begins) fun w => w.statusTransaction r)
    refine ⟨_, occurs, status_faultsFlagged bound held, fun bad => ?_⟩
    obtain ⟨state, condition⟩ := status_faultsAll bound held bad
    refine ⟨state, condition, fun k state holder playing elsewhere => ?_⟩
    rw [status_waitsAgain bound held bad state holder playing elsewhere]
    exact ⟨rfl, rfl, rfl, rfl, rfl⟩
  · intro s r c h started begins good bound quiet calm others unasked holder alone
    have occurs : exec (.status r) s = .next ((Work.begin s).statusTransaction r).finish :=
      congrArg Host.Outcome.next (onEvent_occurs started (statusBegins_iff.mpr begins) fun w => w.statusTransaction r)
    obtain ⟨supply, link, -, -⟩ := finish_statusTransaction s r
    have answered := answered_recorded bound quiet calm others unasked holder alone
    refine ⟨_, occurs, supply, link, fun held awaits _ playing own => ?_, fun stopping _ => ?_⟩
    · exact ⟨fun i n slot next => status_speaks good answered held awaits playing own slot next,
        fun last finite few => status_completes good answered held awaits own last finite few⟩
    · exact status_stopEnds good answered stopping

end Sys2Proof.Claims
end
